-- ==== Sys2Proof/Word.lean ====
section
/-! DEFINITION. Bytes, the numbers of the hall's units (00_scope.md 5.1) and fixed-length tables. -/

namespace Sys2Proof

/-- One byte of a frame. -/
abbrev Byte := BitVec 8

/-- A transmitter T0–T15, also a matrix column. -/
abbrev Tx := Fin 16
/-- An antenna A0–A23. -/
abbrev Ant := Fin 24
/-- A load L0 or L1. -/
abbrev LoadNo := Fin 2
/-- A group G0–G7. -/
abbrev GroupNo := Fin 8
/-- A matrix row 0–25: antennas are rows 0–23, loads rows 24 and 25. -/
abbrev Row := Fin 26
/-- A place 0–1023 of the slot table. -/
abbrev PlaceNo := Fin 1024

/-- A crosspoint (Tt, row). -/
structure Xp where
  tx : Tx
  row : Row
  deriving DecidableEq, Repr

/-- A table of exactly `n` cells. -/
structure Tab (α : Type) (n : Nat) where
  cells : List α
  size : cells.length = n
  deriving DecidableEq, Repr

/-- Every cell holds `a`. -/
def Tab.fill {α : Type} (n : Nat) (a : α) : Tab α n := ⟨List.replicate n a, List.length_replicate⟩

/-- The cell of number `i`. -/
def Tab.get {α : Type} {n : Nat} (t : Tab α n) (i : Fin n) : α :=
  t.cells.get ⟨i.val, by rw [t.size]; exact i.isLt⟩

/-- Cell `i` replaced. -/
def Tab.set {α : Type} {n : Nat} (t : Tab α n) (i : Fin n) (a : α) : Tab α n :=
  ⟨t.cells.set i.val a, by rw [List.length_set]; exact t.size⟩

/-- Cell `i` changed by `f`. -/
def Tab.modify {α : Type} {n : Nat} (t : Tab α n) (i : Fin n) (f : α → α) : Tab α n :=
  t.set i (f (t.get i))

/-- Every cell changed by `f`. -/
def Tab.map {α β : Type} {n : Nat} (f : α → β) (t : Tab α n) : Tab β n :=
  ⟨t.cells.map f, by rw [List.length_map]; exact t.size⟩

/-- The table whose cell `i` is `f i`. -/
def Tab.build {α : Type} (n : Nat) (f : Fin n → α) : Tab α n :=
  ⟨(List.finRange n).map f, by rw [List.length_map, List.length_finRange]⟩

/-- All the numbers below `n`, rising. -/
abbrev allFin (n : Nat) : List (Fin n) := List.finRange n

end Sys2Proof
end

