-- ==== Sys2Proof/Syntax.lean ====
section
/-! DEFINITION. The commands: one constructor per row of spec/opcode_table.json, in the table's order. A request
carries its payload bytes (R212), a bus reply the bytes of its frame (R216, R217), a timer the unit it belongs to. -/

namespace Sys2Proof

/-- A command the part takes. -/
inductive Instr where
  /-- POWER_UP (R200). -/
  | powerUp
  /-- HALL_RESET (R200). -/
  | hallReset
  /-- HALL_RESET_RELEASE (R198). -/
  | hallResetRelease
  /-- HALLSTOP_ASSERT (R162). -/
  | hallstopAssert
  /-- HALLSTOP_RELEASE (R202). -/
  | hallstopRelease
  /-- LOCAL_ASSERT (R203). -/
  | localAssert
  /-- LOCAL_RELEASE (R203). -/
  | localRelease
  /-- SECOND_ADVANCE (R2). -/
  | secondAdvance
  /-- TIME_MARK (R6). -/
  | timeMark
  /-- MARK_WATCH_EXPIRY (R5). -/
  | markWatchExpiry
  /-- NOP (R198). -/
  | nop
  /-- FRAME_ERROR (R197). -/
  | frameError
  /-- EMPTY_PERIOD (R198). -/
  | emptyPeriod
  /-- UNKNOWN_COMMAND (R199). -/
  | unknownCommand (code : Byte) (payload : List Byte)
  /-- SET_TIME (R4). -/
  | setTime (payload : List Byte)
  /-- SET_CLOCK (R5). -/
  | setClock (payload : List Byte)
  /-- READ_TIME (R8). -/
  | readTime (payload : List Byte)
  /-- SET_PLANNING (R7). -/
  | setPlanning (payload : List Byte)
  /-- SET_HANDOVER (R10). -/
  | setHandover (payload : List Byte)
  /-- CANCEL_HANDOVER (R12). -/
  | cancelHandover (payload : List Byte)
  /-- LOCK_BANK (R13). -/
  | lockBank (payload : List Byte)
  /-- UNLOCK_BANK (R13). -/
  | unlockBank (payload : List Byte)
  /-- FREEZE_BANKS (R13). -/
  | freezeBanks (payload : List Byte)
  /-- READ_BANKS (R14). -/
  | readBanks (payload : List Byte)
  /-- ADD_SLOT (R30). -/
  | addSlot (payload : List Byte)
  /-- AMEND_SLOT (R32). -/
  | amendSlot (payload : List Byte)
  /-- RETIRE_SLOT (R35). -/
  | retireSlot (payload : List Byte)
  /-- SUSPEND_SLOT (R38). -/
  | suspendSlot (payload : List Byte)
  /-- RESUME_SLOT (R39). -/
  | resumeSlot (payload : List Byte)
  /-- CLEAR_BANK (R40). -/
  | clearBank (payload : List Byte)
  /-- READ_SLOT (R41). -/
  | readSlot (payload : List Byte)
  /-- FIND_SLOTS (R42). -/
  | findSlots (payload : List Byte)
  /-- READ_DUE_LIST (R64). -/
  | readDueList (payload : List Byte)
  /-- READ_PLAN (R66). -/
  | readPlan (payload : List Byte)
  /-- READ_CHANGEOVER (R98). -/
  | readChangeover (payload : List Byte)
  /-- MUTE_TIMER_EXPIRY (R72). -/
  | muteTimerExpiry (t : Tx)
  /-- TUNING_TIMER_EXPIRY (R75). -/
  | tuningTimerExpiry (t : Tx)
  /-- RAMP_TIMER_EXPIRY (R80). -/
  | rampTimerExpiry (t : Tx)
  /-- PAUSE_TIMER_EXPIRY (R88). -/
  | pauseTimerExpiry (t : Tx)
  /-- HALL_POLL_CYCLE (R147). -/
  | hallPollCycle
  /-- TELEMETRY_REPLY (R149). -/
  | telemetryReply (frame : List Byte)
  /-- TELEMETRY_MISSED (R154). -/
  | telemetryMissed
  /-- SET_TRANSMITTER (R145). -/
  | setTransmitter (payload : List Byte)
  /-- READ_TRANSMITTER (R158). -/
  | readTransmitter (payload : List Byte)
  /-- DRIVE_REPLY (R114). -/
  | driveReply (frame : List Byte)
  /-- TRAVEL_TIMEOUT (R115). -/
  | travelTimeout
  /-- SET_MATRIX (R102). -/
  | setMatrix (payload : List Byte)
  /-- MOVE_CROSSPOINT (R118). -/
  | moveCrosspoint (payload : List Byte)
  /-- CLEAR_CROSSPOINT (R117). -/
  | clearCrosspoint (payload : List Byte)
  /-- READ_ROW (R119). -/
  | readRow (payload : List Byte)
  /-- READ_QUEUE (R120). -/
  | readQueue (payload : List Byte)
  /-- SURVEY_READ_REPLY (R121). -/
  | surveyReadReply (frame : List Byte)
  /-- SURVEY_READ_TIMEOUT (R121). -/
  | surveyReadTimeout
  /-- SET_ANTENNA (R127). -/
  | setAntenna (payload : List Byte)
  /-- SET_LOAD (R128). -/
  | setLoad (payload : List Byte)
  /-- CLEAR_POSITIONER (R139). -/
  | clearPositioner (payload : List Byte)
  /-- SET_GROUP (R141). -/
  | setGroup (payload : List Byte)
  /-- READ_ANTENNA (R142). -/
  | readAntenna (payload : List Byte)
  /-- READ_GROUPS (R142). -/
  | readGroups (payload : List Byte)
  /-- POSITIONER_POLL_CYCLE (R133). -/
  | positionerPollCycle
  /-- POSITIONER_REPLY (R136). -/
  | positionerReply (frame : List Byte)
  /-- POSITIONER_REPLY_MISSED (R133). -/
  | positionerReplyMissed
  /-- POSITIONER_TIMER_EXPIRY (R136). -/
  | positionerTimerExpiry (a : Ant)
  /-- RF_SENSE_CHANGE (R179). -/
  | rfSenseChange (r : Row) (sensed : Bool)
  /-- COVER_END (R179). -/
  | coverEnd (r : Row)
  /-- SET_PROTECTION (R167). -/
  | setProtection (payload : List Byte)
  /-- RESTORE (R173). -/
  | restore (payload : List Byte)
  /-- TAKE_OUT (R174). -/
  | takeOut (payload : List Byte)
  /-- RETURN (R175). -/
  | returnUnit (payload : List Byte)
  /-- PROVE (R176). -/
  | prove (payload : List Byte)
  /-- STOP_PROVE (R177). -/
  | stopProve (payload : List Byte)
  /-- CLEAR_STRAY (R181). -/
  | clearStray (payload : List Byte)
  /-- READ_PROTECTION (R183). -/
  | readProtection (payload : List Byte)
  /-- AGE_MINUTE (R185). -/
  | ageMinute
  /-- SET_EXERCISE (R186). -/
  | setExercise (payload : List Byte)
  /-- START_SWEEP (R193). -/
  | startSweep (payload : List Byte)
  /-- STOP_SWEEP (R195). -/
  | stopSweep (payload : List Byte)
  /-- READ_SWEEP (R196). -/
  | readSweep (payload : List Byte)
  /-- GO_RUN (R204). -/
  | goRun (payload : List Byte)
  /-- GO_CONFIG (R205). -/
  | goConfig (payload : List Byte)
  /-- SET_NOTICES (R208). -/
  | setNotices (payload : List Byte)
  /-- CLEAR_NOTICES (R209). -/
  | clearNotices (payload : List Byte)
  /-- READ_STATUS (R210). -/
  | readStatus (payload : List Byte)
  /-- CHIP_SELECT_ASSERT (R198). -/
  | chipSelectAssert
  deriving DecidableEq, Repr

end Sys2Proof
end

