-- ==== Sys2Proof/WellFormed.lean ====
section
/-! DEFINITION. Which commands are well formed: what a chip-select period that ends in a good frame can carry. -/

namespace Sys2Proof

/-- The command codes that name a request (R213), NOP among them. -/
def requestCodes : List Nat :=
  [0x00] ++ List.range' 0x10 10 ++ List.range' 0x20 8 ++ List.range' 0x30 3 ++ List.range' 0x40 5 ++
  List.range' 0x50 6 ++ List.range' 0x60 2 ++ List.range' 0x70 8 ++ List.range' 0x80 4 ++ List.range' 0x90 5

/-- A payload fits a frame: at most 64 bytes (R197). -/
def payloadFits (p : List Byte) : Bool := decide (p.length ≤ 64)

/-- A request's payload fits its frame; an unknown command's code names no request (R199, R213). -/
def Instr.wellFormed : Instr → Bool
  | .powerUp | .hallReset | .hallResetRelease | .hallstopAssert | .hallstopRelease | .localAssert | .localRelease
  | .secondAdvance | .timeMark | .markWatchExpiry | .nop | .frameError | .emptyPeriod => true
  | .unknownCommand code p => payloadFits p && !requestCodes.contains code.toNat
  | .setTime p | .setClock p | .readTime p | .setPlanning p | .setHandover p | .cancelHandover p | .lockBank p
  | .unlockBank p | .freezeBanks p | .readBanks p | .addSlot p | .amendSlot p | .retireSlot p | .suspendSlot p
  | .resumeSlot p | .clearBank p | .readSlot p | .findSlots p | .readDueList p | .readPlan p | .readChangeover p =>
    payloadFits p
  | .muteTimerExpiry _ | .tuningTimerExpiry _ | .rampTimerExpiry _ | .pauseTimerExpiry _ | .hallPollCycle
  | .telemetryReply _ | .telemetryMissed => true
  | .setTransmitter p | .readTransmitter p => payloadFits p
  | .driveReply _ | .travelTimeout => true
  | .setMatrix p | .moveCrosspoint p | .clearCrosspoint p | .readRow p | .readQueue p => payloadFits p
  | .surveyReadReply _ | .surveyReadTimeout => true
  | .setAntenna p | .setLoad p | .clearPositioner p | .setGroup p | .readAntenna p | .readGroups p => payloadFits p
  | .positionerPollCycle | .positionerReply _ | .positionerReplyMissed | .positionerTimerExpiry _
  | .rfSenseChange _ _ | .coverEnd _ => true
  | .setProtection p | .restore p | .takeOut p | .returnUnit p | .prove p | .stopProve p | .clearStray p
  | .readProtection p => payloadFits p
  | .ageMinute => true
  | .setExercise p | .startSweep p | .stopSweep p | .readSweep p | .goRun p | .goConfig p | .setNotices p
  | .clearNotices p | .readStatus p => payloadFits p
  | .chipSelectAssert => true

end Sys2Proof
end

