-- ==== Sys2Proof/Decode.lean ====
section
/-! DEFINITION. What a chip-select period carries: the judgement of R197, the command codes of R213, and back again.
The opcode table gives no row any bits, so `decodeTableWord` knows no word. -/

namespace Sys2Proof

/-- No row of spec/opcode_table.json gives bits, so no word spells a command. -/
def decodeTableWord (_nbits _w : Nat) : Option Instr := none

/-- The command a good frame carries, by its command code (R213); a code that names no request is UNKNOWN_COMMAND. -/
def commandOf (code : Byte) (p : List Byte) : Instr :=
  match code.toNat with
  | 0x00 => .nop
  | 0x10 => .setTime p
  | 0x11 => .setClock p
  | 0x12 => .readTime p
  | 0x13 => .setPlanning p
  | 0x14 => .setHandover p
  | 0x15 => .cancelHandover p
  | 0x16 => .lockBank p
  | 0x17 => .unlockBank p
  | 0x18 => .freezeBanks p
  | 0x19 => .readBanks p
  | 0x20 => .addSlot p
  | 0x21 => .amendSlot p
  | 0x22 => .retireSlot p
  | 0x23 => .suspendSlot p
  | 0x24 => .resumeSlot p
  | 0x25 => .clearBank p
  | 0x26 => .readSlot p
  | 0x27 => .findSlots p
  | 0x30 => .readDueList p
  | 0x31 => .readPlan p
  | 0x32 => .readChangeover p
  | 0x40 => .setMatrix p
  | 0x41 => .moveCrosspoint p
  | 0x42 => .clearCrosspoint p
  | 0x43 => .readRow p
  | 0x44 => .readQueue p
  | 0x50 => .setAntenna p
  | 0x51 => .setLoad p
  | 0x52 => .clearPositioner p
  | 0x53 => .setGroup p
  | 0x54 => .readAntenna p
  | 0x55 => .readGroups p
  | 0x60 => .setTransmitter p
  | 0x61 => .readTransmitter p
  | 0x70 => .setProtection p
  | 0x71 => .restore p
  | 0x72 => .takeOut p
  | 0x73 => .returnUnit p
  | 0x74 => .prove p
  | 0x75 => .stopProve p
  | 0x76 => .clearStray p
  | 0x77 => .readProtection p
  | 0x80 => .setExercise p
  | 0x81 => .startSweep p
  | 0x82 => .stopSweep p
  | 0x83 => .readSweep p
  | 0x90 => .goRun p
  | 0x91 => .goConfig p
  | 0x92 => .setNotices p
  | 0x93 => .clearNotices p
  | 0x94 => .readStatus p
  | _ => .unknownCommand code p

/-- The command that a chip-select period gives at its release, from the whole bytes shifted in and the number of
bits left over after them (R197). -/
def decodePeriod (bytes : List Byte) (bitsOver : Nat) : Instr :=
  match bytes, bitsOver with
  | [], 0 => .emptyPeriod
  | code :: n :: rest, 0 =>
    if n.toNat > 64 then .frameError
    else if rest.length < n.toNat then .frameError
    else commandOf code (rest.take n.toNat)
  | _, _ => .frameError

/-- The code and payload of a command that arrives as a good frame; none for every other command. -/
def requestCode : Instr → Option (Byte × List Byte)
  | .nop => some (0x00, [])
  | .setTime p => some (0x10, p)
  | .setClock p => some (0x11, p)
  | .readTime p => some (0x12, p)
  | .setPlanning p => some (0x13, p)
  | .setHandover p => some (0x14, p)
  | .cancelHandover p => some (0x15, p)
  | .lockBank p => some (0x16, p)
  | .unlockBank p => some (0x17, p)
  | .freezeBanks p => some (0x18, p)
  | .readBanks p => some (0x19, p)
  | .addSlot p => some (0x20, p)
  | .amendSlot p => some (0x21, p)
  | .retireSlot p => some (0x22, p)
  | .suspendSlot p => some (0x23, p)
  | .resumeSlot p => some (0x24, p)
  | .clearBank p => some (0x25, p)
  | .readSlot p => some (0x26, p)
  | .findSlots p => some (0x27, p)
  | .readDueList p => some (0x30, p)
  | .readPlan p => some (0x31, p)
  | .readChangeover p => some (0x32, p)
  | .setMatrix p => some (0x40, p)
  | .moveCrosspoint p => some (0x41, p)
  | .clearCrosspoint p => some (0x42, p)
  | .readRow p => some (0x43, p)
  | .readQueue p => some (0x44, p)
  | .setAntenna p => some (0x50, p)
  | .setLoad p => some (0x51, p)
  | .clearPositioner p => some (0x52, p)
  | .setGroup p => some (0x53, p)
  | .readAntenna p => some (0x54, p)
  | .readGroups p => some (0x55, p)
  | .setTransmitter p => some (0x60, p)
  | .readTransmitter p => some (0x61, p)
  | .setProtection p => some (0x70, p)
  | .restore p => some (0x71, p)
  | .takeOut p => some (0x72, p)
  | .returnUnit p => some (0x73, p)
  | .prove p => some (0x74, p)
  | .stopProve p => some (0x75, p)
  | .clearStray p => some (0x76, p)
  | .readProtection p => some (0x77, p)
  | .setExercise p => some (0x80, p)
  | .startSweep p => some (0x81, p)
  | .stopSweep p => some (0x82, p)
  | .readSweep p => some (0x83, p)
  | .goRun p => some (0x90, p)
  | .goConfig p => some (0x91, p)
  | .setNotices p => some (0x92, p)
  | .clearNotices p => some (0x93, p)
  | .readStatus p => some (0x94, p)
  | .unknownCommand code p => some (code, p)
  | .powerUp | .hallReset | .hallResetRelease | .hallstopAssert | .hallstopRelease | .localAssert | .localRelease
  | .secondAdvance | .timeMark | .markWatchExpiry | .frameError | .emptyPeriod | .muteTimerExpiry _
  | .tuningTimerExpiry _ | .rampTimerExpiry _ | .pauseTimerExpiry _ | .hallPollCycle | .telemetryReply _
  | .telemetryMissed | .driveReply _ | .travelTimeout | .surveyReadReply _ | .surveyReadTimeout
  | .positionerPollCycle | .positionerReply _ | .positionerReplyMissed | .positionerTimerExpiry _
  | .rfSenseChange _ _ | .coverEnd _ | .ageMinute | .chipSelectAssert => none

/-- The bytes of the request frame that carries a command (R211). -/
def encodeFrame (c : Instr) : Option (List Byte) :=
  match requestCode c with
  | some (code, p) => some (code :: BitVec.ofNat 8 p.length :: p)
  | none => none

end Sys2Proof
end

