-- ==== Sys2Proof/Config.lean ====
section
/-! DEFINITION. What an implementation fixes: the free values of the manual and the model's own bound. -/

namespace Sys2Proof

/-- FREE VALUE (log 9): the azimuth the part holds when a positioner reply reports `n` degrees with `n` above 359.
R132 gives the field the range 0–359 and R217 a two-byte item; no rule says what a larger report becomes. -/
opaque Config.reportedAzimuth : Nat → Fin 360

/-- The model's own bound (log 5): how many reports and standing rules one settling may handle. What is left over
waits in `Hall.work`, or is found again, at the next event. -/
def Config.settleBound : Nat := 4096

end Sys2Proof
end

