-- ==== Sys2Proof/Machine/State.lean ====
section
/-! DEFINITION. The state of the FK2416: every piece of state its twelve blocks own (00_scope.md section 3), as plain
data, and its value right after power-up. `Env` is what the consequences of an event read and never change, `Port` the
command port, `Hall` what they change. -/

namespace Sys2Proof.Machine

/-! Names of states and codes (11.5). -/

/-- The five modes (10.4). -/
inductive Mode where
  | config | survey | run | localKey | stop
  deriving DecidableEq, Repr

/-- The two season banks (R9). -/
inductive Bank where
  | a | b
  deriving DecidableEq, Repr

/-- Time-mark states (R5). -/
inductive MarkState where
  | off | waiting | locked | lost
  deriving DecidableEq, Repr

/-- Status codes of a reply (R199, R219). -/
inductive Status where
  | ok | frame | unknownCommand | field | mode | staleHandle | conflictTx | conflictAnt | tableFull | locked | busy
  | band | azimuth | timeStep | notReady
  deriving DecidableEq, Repr

/-- Outcomes of a finished occurrence (R23); NONE is the absence of one. -/
inductive OccOutcome where
  | complete | late | cut | missed | aborted | halted
  deriving DecidableEq, Repr

/-- Reason codes (R23, R219). -/
inductive Reason where
  | trips | barred | out | command | stray | permit | silent | localCtl | tune | path | position | noAntenna | mode
  | handover | mute
  deriving DecidableEq, Repr

/-- States of a slot record (R19). -/
inductive RecState where
  | dormant | waiting | preparing | onAir | ending | suspended | retiring
  deriving DecidableEq, Repr

/-- Retirement options (R35). -/
inductive RetireOpt where
  | now | atEnd
  deriving DecidableEq, Repr

/-- What a record asks to transmit into. -/
inductive Target where
  | antenna (a : Ant) | load (l : LoadNo) | group (g : GroupNo)
  deriving DecidableEq, Repr

/-- States of a changeover context (R68). -/
inductive CtxState where
  | idle | muting | preparing | standing | ramping | onAir | restrike | ending | halted
  deriving DecidableEq, Repr

/-- States of a sub-task (R67). -/
inductive SubTask where
  | notNeeded | pending | done | failed
  deriving DecidableEq, Repr

/-- The timers of a context (R69). -/
inductive TimerKind where
  | mute | tuning | ramp | pause
  deriving DecidableEq, Repr

/-- Crosspoint positions (R99). -/
inductive Pos where
  | opened | closed | movingOpen | movingClosed | unknown
  deriving DecidableEq, Repr

/-- Direction of a drive operation (R109). -/
inductive Dir where
  | close | openIt
  deriving DecidableEq, Repr

/-- Last results of a crosspoint (R99). -/
inductive XpResult where
  | none | done | fault | timeout | hotSwitch | interlock | blocked | stray | rfPresent | mode | withdrawn
  deriving DecidableEq, Repr

/-- Row reservations (R100). -/
inductive Reservation where
  | free | claimed (t : Tx) | connected (t : Tx) | parked (t : Tx) | releasing | exercise
  deriving DecidableEq, Repr

/-- How far a live claim has come (R104, R107). -/
inductive ClaimStatus where
  | waiting | granted | connected
  deriving DecidableEq, Repr

/-- Positioner states (R132). -/
inductive PosState where
  | idle | moving | fault | unknown
  deriving DecidableEq, Repr

/-- Direction of a rotatable turn (R131, R217). -/
inductive Turn where
  | none | clockwise | counter
  deriving DecidableEq, Repr

/-- Link states (R146). -/
inductive LinkState where
  | active | silent | localCtl
  deriving DecidableEq, Repr

/-- Reported transmitter states (R146). -/
inductive TxReport where
  | off | tuning | ready | on | tripped | localCtl | fault
  deriving DecidableEq, Repr

/-- Trip causes (R87). -/
inductive TripCause where
  | vswr | arc | overload | cooling | other
  deriving DecidableEq, Repr

/-- Service states of a unit (R170). -/
inductive Service where
  | normal | watch | reduced | barred | proving | out
  deriving DecidableEq, Repr

/-- Results of a proving run (R177). -/
inductive RunResult where
  | none | passed | stopped | failed (r : Reason) | yielded | halted
  deriving DecidableEq, Repr

/-- Phases of the exercise record (R187). -/
inductive ExPhase where
  | idle | closing | opening
  deriving DecidableEq, Repr

/-- Origin of an exercise (R187). -/
inductive ExOrigin where
  | auto | sweep
  deriving DecidableEq, Repr

/-- Result of an exercise (R187); a failure keeps its reason. -/
inductive ExResult where
  | done | stuck | failed (r : XpResult) | yielded
  deriving DecidableEq, Repr

/-- States of a sweep (R193). -/
inductive SweepState where
  | idle | running | stopping
  deriving DecidableEq, Repr

/-- Results of a sweep (R193). -/
inductive SweepResult where
  | none | complete | stopped | aborted
  deriving DecidableEq, Repr

/-- The 22 notice flags, in the order of their bits (10.5, R219). -/
inductive Notice where
  | late | missed | cut | trip | reflection | watch | barred | proven | stuck | strayRf | hotSwitch | muteFail
  | txSilent | txLocal | positionerFault | noAntenna | handover | markLost | frameError | surveyDone | sweepDone
  | hallStop
  deriving DecidableEq, Repr

/-! Station clock and season banks (Chapter 1). -/

/-- The station clock (1.1). The time-mark setting is disabled exactly when the state is OFF (R5). -/
structure Clock where
  day : Nat
  second : Nat
  valid : Bool
  weekdayBase : Nat
  lastBoundary : Nat
  markState : MarkState
  /-- expiry of the 3 s watch on the elapsed-time base -/
  markWatch : Option Nat
  /-- sub-second phase, ms -/
  phase : Nat
  deriving DecidableEq, Repr

/-- The season banks (R9); the bank that is not LIVE is STANDBY. -/
structure Banks where
  live : Bank
  lockA : Bool
  lockB : Bool
  freeze : Bool
  handover : Option Nat
  deriving DecidableEq, Repr

/-! Tables that only requests set. -/

/-- A configured transmitter (R144). -/
structure TxCfg where
  rating : Nat
  bandLow : Nat
  bandHigh : Nat
  muteTime : Nat
  tuneBase : Nat
  tuneRate : Nat
  ramp : Nat
  deriving DecidableEq, Repr

/-- The type of a configured antenna with the fields of that type (R126). -/
inductive AntKind where
  | fixed (boresight deviation : Nat)
  | slew (boresight halfWidth slewTime tiltTime : Nat)
  | rotatable (stop rate tiltTime : Nat)
  deriving DecidableEq, Repr

/-- A configured antenna (R126). -/
structure AntCfg where
  kind : AntKind
  bandLow : Nat
  bandHigh : Nat
  maxPower : Nat
  tiltCount : Nat
  deriving DecidableEq, Repr

/-- The transmitter, antenna, load and group tables and the settings of the blocks. -/
structure Tables where
  tx : Tab (Option TxCfg) 16
  ant : Tab (Option AntCfg) 24
  load : Tab Nat 2
  group : Tab (List Ant) 8
  guard : Nat
  expectedTravel : Nat
  travelTimeout : Nat
  warnLevel : Nat
  foldStart : Nat
  pause : Nat
  interval : Nat
  deriving DecidableEq, Repr

/-- Levels of the hardwired inputs: asserted, held, sensed is true. -/
structure Pins where
  hallstop : Bool
  localKey : Bool
  resetHeld : Bool
  rf : Tab Bool 26
  deriving DecidableEq, Repr

/-! Slot table (Chapter 2). -/

/-- A handle: a place with a generation (R15). -/
structure Handle where
  place : PlaceNo
  gen : Fin 16
  deriving DecidableEq, Repr

/-- The schedule part of a record (2.2). Bit 0 of `days` is Monday. -/
structure Schedule where
  bank : Bank
  tx : Tx
  startMinute : Nat
  duration : Nat
  days : BitVec 7
  firstDay : Option Nat
  lastDay : Option Nat
  freq : Nat
  target : Target
  azimuth : Option Nat
  tilt : Nat
  power : Nat
  programme : Nat
  cut : Nat
  deriving DecidableEq, Repr

/-- The adjusted-field list: a set of names from power, tilt and cut allowance (R18). -/
structure Adjusted where
  power : Bool
  tilt : Bool
  cut : Bool
  deriving DecidableEq, Repr

/-- The current occurrence of a record (R18). -/
structure Current where
  start : Nat
  finish : Nat
  row : Row
  late : Nat
  deriving DecidableEq, Repr

/-- A last outcome other than NONE with its companions (R18). -/
structure LastOutcome where
  outcome : OccOutcome
  reason : Option Reason
  start : Nat
  late : Nat
  early : Nat
  deriving DecidableEq, Repr

/-- A slot record: schedule part and run-time part (R18). -/
structure Record where
  sched : Schedule
  state : RecState
  suspendPending : Bool
  retire : Option RetireOpt
  served : Option Nat
  current : Option Current
  last : Option LastOutcome
  adjusted : Adjusted
  deriving DecidableEq, Repr

/-- A place of the slot table (R15); it is free when it holds no record. -/
structure Slot where
  gen : Fin 16
  record : Option Record
  deriving DecidableEq, Repr

/-! Planner (Chapter 3). -/

/-- A due entry (R47). NO_ANTENNA is `resolved = none`. -/
structure DueEntry where
  tx : Tx
  handle : Handle
  start : Nat
  finish : Nat
  resolved : Option Row
  lead : Nat
  long : Bool
  /-- changeover start C′ -/
  beginAt : Nat
  expectedLate : Nat
  blocked : Option Reason
  noAntennaGiven : Bool
  deriving DecidableEq, Repr

/-- A transmitter's last-outcome field when it is not NO_CHANGE (R65). -/
structure PlanOutcome where
  handle : Handle
  last : LastOutcome
  deriving DecidableEq, Repr

/-! Changeover contexts (Chapter 4). -/

/-- An occurrence held by a context (R67). -/
structure Occ where
  handle : Handle
  bank : Bank
  start : Nat
  finish : Nat
  freq : Nat
  programme : Nat
  target : Target
  row : Row
  azimuth : Option Nat
  tilt : Nat
  deriving DecidableEq, Repr

/-- What a context holds (R67). -/
inductive Held where
  | nothing
  | occurrence (o : Occ)
  | proving (row : Row)
  deriving DecidableEq, Repr

/-- A decided outcome with its reason and its ended instant (R96). -/
structure Decided where
  outcome : OccOutcome
  reason : Option Reason
  ended : Nat
  deriving DecidableEq, Repr

/-- The occurrence an ENDING context will begin next (R85). -/
structure Kept where
  handle : Handle
  start : Nat
  finish : Nat
  row : Row
  deriving DecidableEq, Repr

/-- A running context timer with its expiry on the elapsed-time base and its length in ms, which a second tune attempt
takes again (R69, R75). -/
structure Timer where
  kind : TimerKind
  expiry : Nat
  length : Nat
  deriving DecidableEq, Repr

/-- A changeover context (R67). -/
structure Context where
  state : CtxState
  held : Held
  tune : SubTask
  path : SubTask
  position : SubTask
  claimWaiting : Bool
  tuneAttempts : Nat
  /-- the position sub-task's request has been made (R77) -/
  posAsked : Bool
  /-- went on air, with the on-air instant -/
  onAirAt : Option Nat
  /-- start of the present spell in ON_AIR (R169) -/
  spellBegan : Option Nat
  left : List Ant
  reResolved : Bool
  reRouted : Bool
  trips : List Nat
  decided : Option Decided
  endingBegan : Option Nat
  kept : Option Kept
  timer : Option Timer
  deriving DecidableEq, Repr

/-! Switch matrix (Chapter 5) and exercise unit (Chapter 9). -/

/-- A crosspoint record (R99). -/
structure XpRec where
  pos : Pos
  stuck : Bool
  rfSeen : Bool
  last : XpResult
  deriving DecidableEq, Repr

/-- A transmitter with the deadline of its claim. -/
structure Req where
  tx : Tx
  deadline : Nat
  deriving DecidableEq, Repr

/-- A row record (R100). The STRAY latch is Protection's, the BLOCKED flag follows STUCK. -/
structure RowRec where
  res : Reservation
  waiting : List Req
  deriving DecidableEq, Repr

/-- A request toward a crosspoint that a claim holds until the opposite operation has ended (R105). -/
structure Deferred where
  xp : Xp
  dir : Dir
  deriving DecidableEq, Repr

/-- A live claim (R103 to R107). -/
structure Claim where
  row : Row
  deadline : Nat
  status : ClaimStatus
  formers : List Row
  deferred : List Deferred
  deriving DecidableEq, Repr

/-- An entry of the work queue (R109). `commands` counts the commanded moves attached to it; `followOpen` is the
claimant whose open follows a yielded close (R191, R192). -/
structure QEntry where
  xp : Xp
  dir : Dir
  reqs : List Req
  exercise : Bool
  commands : Nat
  arrival : Nat
  inFlight : Bool
  timeoutAt : Nat
  followOpen : Option Req
  deriving DecidableEq, Repr

/-- A survey read in flight, with the expiry of its 1 s (R121). -/
structure Reading where
  xp : Xp
  expiry : Nat
  deriving DecidableEq, Repr

/-- The last exercise of the exercise record (R187). -/
structure LastExercise where
  xp : Xp
  origin : ExOrigin
  result : ExResult
  deriving DecidableEq, Repr

/-- The exercise record (R187). `xp` and `origin` have their meaning while the phase is not IDLE. -/
structure Exercise where
  phase : ExPhase
  xp : Xp
  origin : ExOrigin
  last : Option LastExercise
  deriving DecidableEq, Repr

/-- The sweep record (R193). `next` counts crosspoints in row-major order. -/
structure Sweep where
  state : SweepState
  next : Option (Fin 416)
  exercised : Nat
  newlyStuck : Nat
  skipped : Nat
  result : SweepResult
  deriving DecidableEq, Repr

/-! Positioners (Chapter 6). -/

/-- A stored positioning request (R134). -/
structure PosRequest where
  tx : Tx
  azimuth : Option Nat
  tilt : Nat
  deriving DecidableEq, Repr

/-- A GO in force (R135); a GO left to finish has no requester (R138). -/
structure GoRec where
  tx : Option Tx
  azimuth : Nat
  tilt : Nat
  turn : Turn
  outstanding : Bool
  expiry : Nat
  deriving DecidableEq, Repr

/-- A positioner record (R132). -/
structure PosRec where
  state : PosState
  azimuth : Option Nat
  tilt : Option Nat
  request : Option PosRequest
  go : Option GoRec
  stopOutstanding : Bool
  missed : Nat
  deriving DecidableEq, Repr

/-! Hall link (Chapter 7). -/

/-- The latest telemetry of a transmitter, with the instant it was taken (R146). -/
structure Telemetry where
  report : TxReport
  freq : Option Nat
  forward : Nat
  reflected : Nat
  cause : Option TripCause
  ack : Option Nat
  takenAt : Nat
  deriving DecidableEq, Repr

/-- A PRESET (R152). -/
structure Preset where
  freq : Nat
  programme : Nat
  power : Nat
  number : Option Nat
  tuning : Bool
  deriving DecidableEq, Repr

/-- A link record (R146). `ackNumbers` are the numbers whose acknowledgement is that of the tune PRESET, `tuneHanded`
that one has been handed, `told` that acknowledged has been told (R153). -/
structure Link where
  state : LinkState
  missed : Nat
  telemetry : Option Telemetry
  pending : Option Preset
  tuneNumber : Option Nat
  presetFreq : Option Nat
  presetProgramme : Nat
  lastCarried : Option Nat
  ackNumbers : List Nat
  tuneHanded : Bool
  told : Bool
  deriving DecidableEq, Repr

/-! Protection (Chapter 8). -/

/-- A gate record (R160): the request, the PERMIT line, the line's last drop on the elapsed-time base, and whether
telemetry has shown the transmitter quiet since that drop (R179). -/
structure Gate where
  request : Bool
  line : Bool
  lastDrop : Option Nat
  quietSince : Bool
  deriving DecidableEq, Repr

/-- The power records of a context (R163 to R166). -/
structure Power where
  requested : Option Nat
  level : Option Nat
  returnStart : Option Nat
  lastRatio : Option Nat
  noted : Bool
  deriving DecidableEq, Repr

/-- The protection record of a unit (R168 to R170). -/
structure UnitRec where
  score : Nat
  service : Service
  provingMinutes : Nat
  deriving DecidableEq, Repr

/-- A proving run record (R176). -/
structure RunRec where
  running : Bool
  load : Option Row
  minutes : Nat
  startedAt : Nat
  result : RunResult
  deriving DecidableEq, Repr

/-! Command port (Chapter 10). -/

/-- A reply: status and payload (10.1). -/
structure Reply where
  status : Status
  payload : List Byte
  deriving DecidableEq, Repr

/-- The command port (R197, R198). -/
structure Port where
  buffer : Option Reply
  selected : Bool
  /-- what is shifted out in the present period, less the fill bytes -/
  shifting : Option (List Byte)
  discard : Bool
  deriving DecidableEq, Repr

/-- A report from one block to another, handled inside the event (log 5). -/
inductive Msg where
  /-- a row has become FREE, RELEASING or PARKED and goes to its waiting list (R106) -/
  | handOn (r : Row)
  /-- the claim of a transmitter, or one of its operations, has failed (R111) -/
  | pathFailed (t : Tx)
  /-- the positioning request of a transmitter has failed (R136) -/
  | posFailed (t : Tx)
  deriving DecidableEq, Repr

/-! The whole. -/

/-- What the consequences of an event read and never change: time, banks, mode, inputs, tables and the due list as it
stood when the event was taken. -/
structure Env where
  clock : Clock
  elapsed : Nat
  minuteBegan : Nat
  banks : Banks
  mode : Mode
  pins : Pins
  tables : Tables
  due : List DueEntry
  deriving DecidableEq, Repr

/-- What the consequences of an event change. -/
structure Hall where
  slots : Tab Slot 1024
  lastOutcome : Tab (Option PlanOutcome) 16
  ctx : Tab Context 16
  xps : Tab (Tab XpRec 16) 26
  rows : Tab RowRec 26
  claims : Tab (Option Claim) 16
  queue : List QEntry
  arrivals : Nat
  reading : Option Reading
  surveyNext : Option (Fin 416)
  driveSent : List Byte
  ages : Tab (Tab Nat 16) 26
  exercise : Exercise
  sweep : Sweep
  pos : Tab PosRec 24
  posPoll : List Ant
  posCycle : Option Nat
  posSent : List Byte
  links : Tab Link 16
  hallPoll : List Tx
  hallCycle : Option Nat
  hallSent : List Byte
  gates : Tab Gate 16
  power : Tab Power 16
  txUnit : Tab UnitRec 16
  antUnit : Tab UnitRec 24
  runs : Tab RunRec 16
  stray : Tab Bool 26
  flags : BitVec 22
  enables : BitVec 22
  routes : BitVec 22
  work : List Msg
  deriving DecidableEq, Repr

/-- The state of the part and the queue of commands that wait, first in, first out. -/
structure State where
  env : Env
  port : Port
  hall : Hall
  pending : List Instr
  deriving DecidableEq, Repr

/-- Why the machine could stop. No meaning of this block answers with a fault (INVENTORY.md, Faults): every command has
an effect or a status code. -/
inductive Fault where
  /-- raised by no command; safe -/
  | never
  deriving DecidableEq, Repr

/-- Why a command could have no meaning. -/
inductive Refusal where
  /-- the arm of a command that is not modelled yet; safe. Every command is modelled. -/
  | notModelled (mnemonic : String)
  deriving DecidableEq, Repr

/-! Values at power-up, rule by rule. -/

/-- R2, R5. -/
def Clock.powerUp : Clock :=
  { day := 0, second := 0, valid := false, weekdayBase := 0, lastBoundary := 0, markState := .off, markWatch := none,
    phase := 0 }

/-- R9. -/
def Banks.powerUp : Banks := { live := .a, lockA := false, lockB := false, freeze := false, handover := none }

/-- R7, R102, R143, R159, R167, R186. -/
def Tables.powerUp : Tables :=
  { tx := Tab.fill 16 none, ant := Tab.fill 24 none, load := Tab.fill 2 150, group := Tab.fill 8 [], guard := 10,
    expectedTravel := 3, travelTimeout := 10, warnLevel := 30, foldStart := 60, pause := 5, interval := 168 }

/-- All inputs released and clear (log 3). -/
def Pins.released : Pins := { hallstop := false, localKey := false, resetHeld := false, rf := Tab.fill 26 false }

/-- R67: IDLE, holding nothing. -/
def Context.idle : Context :=
  { state := .idle, held := .nothing, tune := .notNeeded, path := .notNeeded, position := .notNeeded,
    claimWaiting := false, tuneAttempts := 0, posAsked := false, onAirAt := none, spellBegan := none, left := [],
    reResolved := false, reRouted := false, trips := [], decided := none, endingBegan := none, kept := none,
    timer := none }

/-- R125. Its table names no value for RF seen: it starts at no (log 70, DESIGN CHOICE). -/
def XpRec.powerUp : XpRec := { pos := .unknown, stuck := false, rfSeen := false, last := .none }

/-- R125. -/
def RowRec.powerUp : RowRec := { res := .free, waiting := [] }

/-- R187. -/
def Exercise.powerUp : Exercise := { phase := .idle, xp := ⟨0, 0⟩, origin := .auto, last := none }

/-- R193. -/
def Sweep.powerUp : Sweep :=
  { state := .idle, next := none, exercised := 0, newlyStuck := 0, skipped := 0, result := .none }

/-- R143, an unconfigured antenna, and a SLEW or ROTATABLE one until its first reply. -/
def PosRec.unknown : PosRec :=
  { state := .unknown, azimuth := none, tilt := none, request := none, go := none, stopOutstanding := false,
    missed := 0 }

/-- R159. -/
def Link.powerUp : Link :=
  { state := .active, missed := 0, telemetry := none, pending := none, tuneNumber := none, presetFreq := none,
    presetProgramme := 0, lastCarried := none, ackNumbers := [], tuneHanded := false, told := false }

/-- R184. -/
def Gate.low : Gate := { request := false, line := false, lastDrop := none, quietSince := false }

/-- R184. -/
def Power.idle : Power :=
  { requested := none, level := none, returnStart := none, lastRatio := none, noted := false }

/-- R184. -/
def UnitRec.powerUp : UnitRec := { score := 0, service := .normal, provingMinutes := 0 }

/-- R184. -/
def RunRec.idle : RunRec := { running := false, load := none, minutes := 0, startedAt := 0, result := .none }

/-- R198. -/
def Port.powerUp : Port := { buffer := none, selected := false, shifting := none, discard := false }

/-- Clock, banks, mode and tables at power-up, with the hall's inputs as they stand. -/
def Env.powerUp (pins : Pins) : Env :=
  { clock := Clock.powerUp, elapsed := 0, minuteBegan := 0, banks := Banks.powerUp, mode := .config, pins := pins,
    tables := Tables.powerUp, due := [] }

/-- Every block of the hall at power-up (R43, R65, R67, R125, R143, R159, R184, R185, R187, R193, R206). -/
def Hall.powerUp : Hall :=
  { slots := Tab.fill 1024 { gen := 0, record := none }, lastOutcome := Tab.fill 16 none, ctx := Tab.fill 16 Context.idle,
    xps := Tab.fill 26 (Tab.fill 16 XpRec.powerUp), rows := Tab.fill 26 RowRec.powerUp, claims := Tab.fill 16 none,
    queue := [], arrivals := 0, reading := none, surveyNext := none, driveSent := [],
    ages := Tab.fill 26 (Tab.fill 16 0), exercise := Exercise.powerUp, sweep := Sweep.powerUp,
    pos := Tab.fill 24 PosRec.unknown, posPoll := [], posCycle := none, posSent := [],
    links := Tab.fill 16 Link.powerUp, hallPoll := [], hallCycle := none, hallSent := [],
    gates := Tab.fill 16 Gate.low, power := Tab.fill 16 Power.idle, txUnit := Tab.fill 16 UnitRec.powerUp,
    antUnit := Tab.fill 24 UnitRec.powerUp, runs := Tab.fill 16 RunRec.idle, stray := Tab.fill 26 false,
    flags := 0, enables := 0, routes := 0, work := [] }

/-- The part right after power-up, every input released, no command waiting. -/
def State.reset : State :=
  { env := Env.powerUp Pins.released, port := Port.powerUp, hall := Hall.powerUp, pending := [] }

end Sys2Proof.Machine
end

