-- ==== Sys2Proof/Machine/Operands.lean ====
section
/-! DEFINITION. Bytes of requests, replies and bus frames: the encoding of R212, the code tables of R219, the handle and
slot image of R214 and R215, and the check byte of R218. -/

namespace Sys2Proof.Machine

/-! Reading items out of a payload whose length has been checked. -/

/-- The byte at offset `i`. -/
def byteAt (p : List Byte) (i : Nat) : Nat := (p.getD i 0).toNat
/-- The two-byte item at offset `i`, most significant first (R212). -/
def wordAt (p : List Byte) (i : Nat) : Nat := byteAt p i * 256 + byteAt p (i + 1)
/-- The three-byte item at offset `i` (R212). -/
def tripleAt (p : List Byte) (i : Nat) : Nat := byteAt p i * 65536 + wordAt p (i + 1)
/-- A yes-or-no item: 1 is yes, 0 no (R212), any other value no such item (log 61, DESIGN CHOICE). -/
def yesNoAt (p : List Byte) (i : Nat) : Option Bool :=
  match byteAt p i with
  | 0 => some false
  | 1 => some true
  | _ => none
/-- A number below `n`, or none. -/
def below (n v : Nat) : Option (Fin n) := if h : v < n then some ⟨v, h⟩ else none

/-! Writing items. -/

/-- One byte. -/
def b1 (n : Nat) : List Byte := [BitVec.ofNat 8 n]
/-- Two bytes, most significant first. -/
def b2 (n : Nat) : List Byte := [BitVec.ofNat 8 (n / 256), BitVec.ofNat 8 n]
/-- Three bytes, most significant first. -/
def b3 (n : Nat) : List Byte := [BitVec.ofNat 8 (n / 65536), BitVec.ofNat 8 (n / 256), BitVec.ofNat 8 n]
/-- Yes or no. -/
def bBool (b : Bool) : List Byte := b1 b.toNat
/-- An instant: day number, then second of day (R212). The day after day 65535, on which an occurrence may end (R44), has no
number in two bytes and reads 0 (log 53, DESIGN CHOICE). -/
def bInstant (i : Nat) : List Byte := b2 (i / 86400) ++ b3 (i % 86400)
/-- An item of `n` bytes that may be absent: a presence byte, then the item or zeros (R212). -/
def bOpt (n : Nat) : Option (List Byte) → List Byte
  | some l => b1 1 ++ l
  | none => b1 0 ++ List.replicate n 0
/-- A unit, row, transmitter or place field: the all-ones value stands for NONE (R212). -/
def bOrOnes : Option Nat → List Byte
  | some n => b1 n
  | none => b1 0xFF
/-- A bit set of at most eight names, the first name at bit 0 (log 8). -/
def bitSet (l : List Bool) : Nat := (l.zipIdx.map fun (b, i) => b.toNat * 2 ^ i).sum

/-! Code tables (R219). -/

def Status.code : Status → Nat
  | .ok => 0 | .frame => 1 | .unknownCommand => 2 | .field => 3 | .mode => 4 | .staleHandle => 5 | .conflictTx => 6
  | .conflictAnt => 7 | .tableFull => 8 | .locked => 9 | .busy => 10 | .band => 11 | .azimuth => 12 | .timeStep => 13
  | .notReady => 14

def OccOutcome.code : OccOutcome → Nat
  | .complete => 1 | .late => 2 | .cut => 3 | .missed => 4 | .aborted => 5 | .halted => 6

def Reason.code : Reason → Nat
  | .trips => 1 | .barred => 2 | .out => 3 | .command => 4 | .stray => 5 | .permit => 6 | .silent => 7 | .localCtl => 8
  | .tune => 9 | .path => 10 | .position => 11 | .noAntenna => 12 | .mode => 13 | .handover => 14 | .mute => 15

/-- A reason that may be absent: code 0 is none. -/
def reasonCode : Option Reason → Nat
  | some r => r.code
  | none => 0

def TripCause.code : TripCause → Nat
  | .vswr => 1 | .arc => 2 | .overload => 3 | .cooling => 4 | .other => 5

/-- A trip cause out of a frame; a code above 5 is OTHER (R218). -/
def tripCauseOf : Nat → Option TripCause
  | 0 => none | 1 => some .vswr | 2 => some .arc | 3 => some .overload | 4 => some .cooling | _ => some .other

def TxReport.code : TxReport → Nat
  | .off => 0 | .tuning => 1 | .ready => 2 | .on => 3 | .tripped => 4 | .localCtl => 5 | .fault => 6

/-- A reported state out of a frame; a code above 6 is no reported state (R218). -/
def txReportOf : Nat → Option TxReport
  | 0 => some .off | 1 => some .tuning | 2 => some .ready | 3 => some .on | 4 => some .tripped | 5 => some .localCtl
  | 6 => some .fault | _ => none

def Mode.code : Mode → Nat
  | .config => 0 | .survey => 1 | .run => 2 | .localKey => 3 | .stop => 4

def RecState.code : RecState → Nat
  | .dormant => 0 | .waiting => 1 | .preparing => 2 | .onAir => 3 | .ending => 4 | .suspended => 5 | .retiring => 6

def CtxState.code : CtxState → Nat
  | .idle => 0 | .muting => 1 | .preparing => 2 | .standing => 3 | .ramping => 4 | .onAir => 5 | .restrike => 6
  | .ending => 7 | .halted => 8

def Service.code : Service → Nat
  | .normal => 0 | .watch => 1 | .reduced => 2 | .barred => 3 | .proving => 4 | .out => 5

def Bank.code : Bank → Nat
  | .a => 0 | .b => 1

def bankOf : Nat → Option Bank
  | 0 => some .a | 1 => some .b | _ => none

def RetireOpt.code : RetireOpt → Nat
  | .now => 0 | .atEnd => 1

def retireOptOf : Nat → Option RetireOpt
  | 0 => some .now | 1 => some .atEnd | _ => none

/-- Reply indications (R219). -/
inductive Indication where
  | noIndication | pending | retired | noneSet | cancelled | none
  deriving DecidableEq, Repr

def Indication.code : Indication → Nat
  | .noIndication => 0 | .pending => 1 | .retired => 2 | .noneSet => 3 | .cancelled => 4 | .none => 5

def MarkState.code : MarkState → Nat
  | .off => 0 | .waiting => 1 | .locked => 2 | .lost => 3

def Pos.code : Pos → Nat
  | .opened => 0 | .closed => 1 | .movingOpen => 2 | .movingClosed => 3 | .unknown => 4

def Dir.code : Dir → Nat
  | .close => 1 | .openIt => 2

def dirOf : Nat → Option Dir
  | 1 => some .close | 2 => some .openIt | _ => none

def Reservation.code : Reservation → Nat
  | .free => 0 | .claimed _ => 1 | .connected _ => 2 | .parked _ => 3 | .releasing => 4 | .exercise => 5

def Reservation.owner : Reservation → Option Tx
  | .claimed t | .connected t | .parked t => some t
  | .free | .releasing | .exercise => none

def XpResult.code : XpResult → Nat
  | .none => 0 | .done => 1 | .fault => 2 | .timeout => 3 | .hotSwitch => 4 | .interlock => 5 | .blocked => 6
  | .stray => 7 | .rfPresent => 8 | .mode => 9 | .withdrawn => 10

def PosState.code : PosState → Nat
  | .idle => 0 | .moving => 1 | .fault => 2 | .unknown => 3

def Turn.code : Turn → Nat
  | .none => 0 | .clockwise => 1 | .counter => 2

def LinkState.code : LinkState → Nat
  | .active => 0 | .silent => 1 | .localCtl => 2

def SubTask.code : SubTask → Nat
  | .notNeeded => 0 | .pending => 1 | .done => 2 | .failed => 3

def TimerKind.code : TimerKind → Nat
  | .mute => 1 | .tuning => 2 | .ramp => 3 | .pause => 4

def ExPhase.code : ExPhase → Nat
  | .idle => 0 | .closing => 1 | .opening => 2

def ExOrigin.code : ExOrigin → Nat
  | .auto => 0 | .sweep => 1

/-- An exercise result and, after FAILED, its last-result code; the second byte is 0 for the others (log 7). -/
def ExResult.bytes : ExResult → List Byte
  | .done => b1 1 ++ b1 0
  | .stuck => b1 2 ++ b1 0
  | .failed r => b1 3 ++ b1 r.code
  | .yielded => b1 4 ++ b1 0

def SweepState.code : SweepState → Nat
  | .idle => 0 | .running => 1 | .stopping => 2

def SweepResult.code : SweepResult → Nat
  | .none => 0 | .complete => 1 | .stopped => 2 | .aborted => 3

/-- A proving run result and, after FAILED, its reason code; the second byte is 0 for the others (log 7). -/
def RunResult.bytes : RunResult → List Byte
  | .none => b1 0 ++ b1 0
  | .passed => b1 1 ++ b1 0
  | .stopped => b1 2 ++ b1 0
  | .failed r => b1 3 ++ b1 r.code
  | .yielded => b1 4 ++ b1 0
  | .halted => b1 5 ++ b1 0

/-! Units, rows and targets. -/

/-- The row of an antenna. -/
def antRow (a : Ant) : Row := ⟨a.val, Nat.lt_trans a.isLt (by decide)⟩
/-- The row of a load. -/
def loadRow (l : LoadNo) : Row := ⟨24 + l.val, Nat.add_lt_add_left l.isLt 24⟩
/-- The antenna of a row, none for a load row. -/
def rowAnt (r : Row) : Option Ant := below 24 r.val
/-- The load of a row, none for an antenna row. -/
def rowLoad (r : Row) : Option LoadNo := if 24 ≤ r.val then below 2 (r.val - 24) else none

/-- A unit that has a trip score: a transmitter or an antenna. -/
inductive HallUnit where
  | tx (t : Tx) | ant (a : Ant)
  deriving DecidableEq, Repr

/-- The unit byte of RESTORE, TAKE OUT, RETURN and READ PROTECTION: T0–T15 as 0–15, A0–A23 as 32–55 (R212). -/
def unitOf (v : Nat) : Option HallUnit :=
  match below 16 v with
  | some t => some (.tx t)
  | none => if 32 ≤ v then (below 24 (v - 32)).map .ant else none

/-- The two bytes of a target: its kind, its number within its kind. -/
def Target.bytes : Target → List Byte
  | .antenna a => b1 0 ++ b1 a.val
  | .load l => b1 1 ++ b1 l.val
  | .group g => b1 2 ++ b1 g.val

/-- A target out of its kind and number (R24, R215). -/
def targetOf (kind number : Nat) : Option Target :=
  match kind with
  | 0 => (below 24 number).map .antenna
  | 1 => (below 2 number).map .load
  | 2 => (below 8 number).map .group
  | _ => none

/-! Handles and the slot image. -/

/-- A handle in its two bytes (R214). -/
def Handle.bytes (h : Handle) : List Byte := b2 (h.gen.val * 4096 + h.place.val)
/-- The place number a handle's two bytes carry; 1024–4095 name no place. -/
def handlePlace (w : Nat) : Option PlaceNo := below 1024 (w % 4096)
/-- The generation a handle's two bytes carry. -/
def handleGen (w : Nat) : Nat := w / 4096

/-- Bits of the field set and the cleared set (R214). -/
inductive SlotField where
  | bank | tx | startMinute | duration | days | firstDay | lastDay | freq | target | azimuth | tilt | power | programme
  | cut
  deriving DecidableEq, Repr

def SlotField.bit : SlotField → Nat
  | .bank => 0 | .tx => 1 | .startMinute => 2 | .duration => 3 | .days => 4 | .firstDay => 5 | .lastDay => 6 | .freq => 7
  | .target => 8 | .azimuth => 9 | .tilt => 10 | .power => 11 | .programme => 12 | .cut => 13

/-- The field set of a slot image names a field. -/
def namedIn (p : List Byte) (f : SlotField) : Bool := (wordAt p 2).testBit f.bit
/-- The cleared set of a slot image names a field. -/
def clearedIn (p : List Byte) (f : SlotField) : Bool := (wordAt p 26).testBit f.bit

/-- Every field of the slot image. -/
def slotFields : List SlotField :=
  [.bank, .tx, .startMinute, .duration, .days, .firstDay, .lastDay, .freq, .target, .azimuth, .tilt, .power, .programme,
   .cut]

/-- The fields ADD SLOT must name (R215). -/
def addNeeds : List SlotField :=
  [.bank, .tx, .startMinute, .duration, .days, .freq, .target, .power, .programme]

/-- The fields the cleared set may name (R215). -/
def clearable : List SlotField := [.firstDay, .lastDay, .azimuth, .tilt, .cut]

/-- An optional value: present when its field is named. -/
def optionalIn (p : List Byte) (f : SlotField) (v : Nat) : Option Nat := if namedIn p f then some v else none

/-- The schedule part an ADD SLOT image carries, before any check of ranges that a Nat can still fail (R215, R17);
none when a code or a unit number names nothing (R24). -/
def addImage (p : List Byte) : Option Schedule := do
  let bank ← bankOf (byteAt p 4)
  let tx ← below 16 (byteAt p 5)
  let target ← targetOf (byteAt p 11) (byteAt p 12)
  pure { bank := bank, tx := tx, startMinute := wordAt p 6, duration := wordAt p 8,
         days := BitVec.ofNat 7 (byteAt p 10), firstDay := optionalIn p .firstDay (wordAt p 16),
         lastDay := optionalIn p .lastDay (wordAt p 18), freq := wordAt p 20, target := target,
         azimuth := optionalIn p .azimuth (wordAt p 22), tilt := (optionalIn p .tilt (byteAt p 14)).getD 0,
         power := wordAt p 24, programme := byteAt p 13, cut := (optionalIn p .cut (byteAt p 15)).getD 60 }

/-- The layout conditions of ADD SLOT: the needed fields named, nothing cleared (R215). -/
def addLayout (p : List Byte) : Bool :=
  addNeeds.all (namedIn p) && slotFields.all (fun f => !clearedIn p f)

/-- The layout conditions of AMEND SLOT: something named, not the bank, only clearable fields cleared, no field in both
sets (R32, R215). R215 gives its refusals no place in the order of R32: they stand with its third check (log 43, DESIGN
CHOICE). -/
def amendLayout (p : List Byte) : Bool :=
  slotFields.any (fun f => namedIn p f || clearedIn p f) && !namedIn p .bank && !clearedIn p .bank &&
  slotFields.all (fun f => !clearedIn p f || clearable.contains f) &&
  slotFields.all (fun f => !(namedIn p f && clearedIn p f))

/-- AMEND SLOT names a field, with a value or without one. -/
def amends (p : List Byte) (f : SlotField) : Bool := namedIn p f || clearedIn p f

/-- An optional field after an amendment. -/
def amendOptional (p : List Byte) (f : SlotField) (v : Nat) (old : Option Nat) : Option Nat :=
  if namedIn p f then some v else if clearedIn p f then none else old

/-- A field with a value after an amendment, `d` being its value when it is named with none (R32). -/
def amendValue (p : List Byte) (f : SlotField) (v d old : Nat) : Nat :=
  if namedIn p f then v else if clearedIn p f then d else old

/-- The schedule part as it would stand after an amendment (R32), before its checks; none when a named unit or code
names nothing. -/
def amendImage (p : List Byte) (s : Schedule) : Option Schedule := do
  let tx ← if namedIn p .tx then below 16 (byteAt p 5) else some s.tx
  let target ← if namedIn p .target then targetOf (byteAt p 11) (byteAt p 12) else some s.target
  pure { bank := s.bank, tx := tx, startMinute := amendValue p .startMinute (wordAt p 6) s.startMinute s.startMinute,
         duration := amendValue p .duration (wordAt p 8) s.duration s.duration,
         days := if namedIn p .days then BitVec.ofNat 7 (byteAt p 10) else s.days,
         firstDay := amendOptional p .firstDay (wordAt p 16) s.firstDay,
         lastDay := amendOptional p .lastDay (wordAt p 18) s.lastDay,
         freq := amendValue p .freq (wordAt p 20) s.freq s.freq, target := target,
         azimuth := amendOptional p .azimuth (wordAt p 22) s.azimuth,
         tilt := amendValue p .tilt (byteAt p 14) 0 s.tilt, power := amendValue p .power (wordAt p 24) s.power s.power,
         programme := amendValue p .programme (byteAt p 13) s.programme s.programme,
         cut := amendValue p .cut (byteAt p 15) 60 s.cut }

/-- The 28-byte slot image of a record (R214), its field set naming the fields that are present. A reply clears
nothing: its cleared set is 0 (R41, log 7, DESIGN CHOICE). -/
def imageBytes (h : Handle) (s : Schedule) : List Byte :=
  let present := 0x3D9F + (if s.firstDay.isSome then 32 else 0) + (if s.lastDay.isSome then 64 else 0) +
    (if s.azimuth.isSome then 512 else 0)
  h.bytes ++ b2 present ++ b1 s.bank.code ++ b1 s.tx.val ++ b2 s.startMinute ++ b2 s.duration ++ b1 s.days.toNat ++
  s.target.bytes ++ b1 s.programme ++ b1 s.tilt ++ b1 s.cut ++ b2 (s.firstDay.getD 0) ++ b2 (s.lastDay.getD 0) ++
  b2 s.freq ++ b2 (s.azimuth.getD 0) ++ b2 s.power ++ b2 0

/-- The adjusted-field list as a bit set: power, tilt, cut allowance from bit 0 up (R18, log 8). -/
def Adjusted.bits (a : Adjusted) : Nat := bitSet [a.power, a.tilt, a.cut]

/-! Bus frames. -/

/-- The sum of a frame's bytes, modulo 256. -/
def frameSum (l : List Byte) : Nat := (l.map BitVec.toNat).sum % 256
/-- A frame with its check byte, so that all its bytes sum to 0 modulo 256 (R218). -/
def withCheck (l : List Byte) : List Byte := l ++ b1 (256 - frameSum l)
/-- A frame of `n` bytes passes its check (R218). -/
def frameGood (n : Nat) (l : List Byte) : Bool := l.length == n && frameSum l == 0

end Sys2Proof.Machine
end

