-- ==== Sys2Proof/Machine/Flags.lean ====
section
/-! DEFINITION. The notice unit (10.5): raising and clearing flags, and the two notice lines. -/

namespace Sys2Proof.Machine

/-- The bit of a notice flag (R219). -/
def Notice.bit : Notice → Nat
  | .late => 0 | .missed => 1 | .cut => 2 | .trip => 3 | .reflection => 4 | .watch => 5 | .barred => 6 | .proven => 7
  | .stuck => 8 | .strayRf => 9 | .hotSwitch => 10 | .muteFail => 11 | .txSilent => 12 | .txLocal => 13
  | .positionerFault => 14 | .noAntenna => 15 | .handover => 16 | .markLost => 17 | .frameError => 18
  | .surveyDone => 19 | .sweepDone => 20 | .hallStop => 21

/-- The flag set that names one notice. -/
def Notice.mask (n : Notice) : BitVec 22 := BitVec.ofNat 22 (2 ^ n.bit)

/-- A raising event sets its flag, whatever its enable; no count is kept (R206). -/
def raiseNotice (n : Notice) (h : Hall) : Hall := { h with flags := h.flags ||| n.mask }

/-- A notice flag is set. -/
def Hall.noticeSet (h : Hall) (n : Notice) : Bool := h.flags.getLsbD n.bit

/-- ALERTn is driven low, active (R207): a set flag is enabled and routed to it. -/
def Hall.alertActive (h : Hall) : Bool := (h.flags &&& h.enables &&& h.routes) != 0

/-- NOTEn is driven low, active (R207). -/
def Hall.noteActive (h : Hall) : Bool := (h.flags &&& h.enables &&& ~~~h.routes) != 0

/-- The levels of ALERTn and NOTEn as a reply carries them: 1 is high, released. -/
def lineLevels (h : Hall) : List Byte := bBool (!h.alertActive) ++ bBool (!h.noteActive)

end Sys2Proof.Machine
end

