-- ==== Sys2Proof/Machine/Ops.lean ====
section
/-! DEFINITION. The shared accessors of State: time, units, contexts, crosspoints, rows, columns and records. -/

namespace Sys2Proof.Machine

/-! Time (1.1). -/

/-- The current instant: day number × 86400 + second of day. -/
def Clock.now (c : Clock) : Nat := c.day * 86400 + c.second
/-- The current instant of station time. -/
def Env.now (e : Env) : Nat := e.clock.now
/-- The weekday of day `d`, 0 being Monday (1.1, R7). -/
def Clock.weekday (c : Clock) (d : Nat) : Nat := (d + c.weekdayBase) % 7
/-- The time-mark setting: enabled in every state but OFF (R5). -/
def Clock.marksEnabled (c : Clock) : Bool := c.markState != .off

/-- `ms` milliseconds of the elapsed-time base pass. The sub-second phase waits at 1 s for its advance (R1, R2, log 2). -/
def passTime (ms : Nat) (e : Env) : Env :=
  { e with elapsed := e.elapsed + ms, clock := { e.clock with phase := min 1000 (e.clock.phase + ms) } }

/-- The elapsed-time base passes on to an expiry that falls due, if it has not passed it (log 2). -/
def passTo (at' : Nat) (e : Env) : Env := passTime (at' - e.elapsed) e

/-- Whole seconds left before an expiry, a begun second counting whole (log 12). -/
def secondsLeft (e : Env) (expiry : Nat) : Nat := (expiry - e.elapsed + 999) / 1000

/-- Whole seconds since an instant of the elapsed-time base, saturating at 65535 (R158, R183). -/
def secondsSince (e : Env) (at' : Nat) : Nat := min 65535 ((e.elapsed - at') / 1000)

/-! Tables. -/

/-- A transmitter's mute time, 0 when it is unconfigured (3.5, R179). -/
def Env.muteTime (e : Env) (t : Tx) : Nat := ((e.tables.tx.get t).map TxCfg.muteTime).getD 0
/-- A transmitter's ramp time, 0 when it is unconfigured (3.5). -/
def Env.ramp (e : Env) (t : Tx) : Nat := ((e.tables.tx.get t).map TxCfg.ramp).getD 0
/-- A transmitter is configured. -/
def Env.txConfigured (e : Env) (t : Tx) : Bool := (e.tables.tx.get t).isSome
/-- The standby bank (R9). -/
def Banks.standby (b : Banks) : Bank :=
  match b.live with
  | .a => .b
  | .b => .a
/-- A bank's lock flag (R9). -/
def Banks.locked (b : Banks) : Bank → Bool
  | .a => b.lockA
  | .b => b.lockB
/-- The maximum power of a row: its antenna's, or its load's; 0 for an unconfigured antenna (log 64, DESIGN CHOICE). -/
def Env.rowPower (e : Env) (r : Row) : Nat :=
  match rowAnt r, rowLoad r with
  | some a, _ => ((e.tables.ant.get a).map AntCfg.maxPower).getD 0
  | none, some l => e.tables.load.get l
  | none, none => 0

/-- The drive link is silent: in LOCAL, and in STOP while the LOCAL line is asserted (R124, R203). So is the positioner
link (R133, R140). -/
def Env.linksSilent (e : Env) : Bool := e.mode == .localKey || (e.mode == .stop && e.pins.localKey)

/-! Contexts, claims, queue. -/

def Hall.setCtx (h : Hall) (t : Tx) (c : Context) : Hall := { h with ctx := h.ctx.set t c }
def Hall.modCtx (h : Hall) (t : Tx) (f : Context → Context) : Hall := { h with ctx := h.ctx.modify t f }
def Hall.setClaim (h : Hall) (t : Tx) (c : Option Claim) : Hall := { h with claims := h.claims.set t c }
def Hall.setRes (h : Hall) (r : Row) (x : Reservation) : Hall :=
  { h with rows := h.rows.modify r fun w => { w with res := x } }
def Hall.setWaiting (h : Hall) (r : Row) (l : List Req) : Hall :=
  { h with rows := h.rows.modify r fun w => { w with waiting := l } }
/-- A report is put at the end of the work of this event. -/
def Hall.report (h : Hall) (m : Msg) : Hall := { h with work := h.work ++ [m] }
def Hall.res (h : Hall) (r : Row) : Reservation := (h.rows.get r).res

/-- The occurrence a context holds. -/
def Context.occ (c : Context) : Option Occ :=
  match c.held with
  | .occurrence o => some o
  | .nothing | .proving _ => none
/-- The load row of the proving run a context holds. -/
def Context.run (c : Context) : Option Row :=
  match c.held with
  | .proving r => some r
  | .nothing | .occurrence _ => none
/-- The occurrence held by a context has gone on air. -/
def Context.wentOnAir (c : Context) : Bool := c.onAirAt.isSome
/-- The late seconds of the held occurrence: on-air instant less S, when positive, saturating (R21). -/
def Context.lateSeconds (c : Context) : Nat :=
  match c.occ, c.onAirAt with
  | some o, some i => min 65535 (i - o.start)
  | _, _ => 0
/-- RF may be on (R68). -/
def CtxState.rfMayBeOn : CtxState → Bool
  | .muting | .ramping | .onAir | .restrike | .ending => true
  | .idle | .preparing | .standing | .halted => false
/-- The states in which a context works on what it holds, before ENDING. -/
def CtxState.working : CtxState → Bool
  | .muting | .preparing | .standing | .ramping | .onAir | .restrike => true
  | .idle | .ending | .halted => false

/-! Crosspoints, rows and columns (5.1). -/

def Hall.xp (h : Hall) (x : Xp) : XpRec := (h.xps.get x.row).get x.tx
def Hall.modXp (h : Hall) (x : Xp) (f : XpRec → XpRec) : Hall :=
  { h with xps := h.xps.modify x.row fun w => w.modify x.tx f }
def Hall.setLast (h : Hall) (x : Xp) (r : XpResult) : Hall := h.modXp x fun w => { w with last := r }
def Hall.setPos (h : Hall) (x : Xp) (p : Pos) : Hall := h.modXp x fun w => { w with pos := p }
/-- The crosspoints of a row, in column order. -/
def rowXps (r : Row) : List Xp := (allFin 16).map fun t => ⟨t, r⟩
/-- The crosspoints of a column, in row order. -/
def columnXps (t : Tx) : List Xp := (allFin 26).map fun r => ⟨t, r⟩
/-- The other crosspoints of a crosspoint's row and column (R110, R113). -/
def otherXps (x : Xp) : List Xp :=
  (rowXps x.row).filter (fun y => y.tx != x.tx) ++ (columnXps x.tx).filter (fun y => y.row != x.row)
def Hall.isOpen (h : Hall) (x : Xp) : Bool := (h.xp x).pos == .opened
/-- BLOCKED flag of a row: any of its crosspoints is STUCK (R100). -/
def Hall.rowBlocked (h : Hall) (r : Row) : Bool := (rowXps r).any fun x => (h.xp x).stuck
/-- BLOCKED flag of a column: any of its crosspoints is STUCK (R101). -/
def Hall.columnBlocked (h : Hall) (t : Tx) : Bool := (columnXps t).any fun x => (h.xp x).stuck
/-- A column's connection: the row CONNECTED to its transmitter, else the row PARKED to it (R101, log 10). -/
def Hall.connection (h : Hall) (t : Tx) : Option Row :=
  match (allFin 26).find? (fun r => h.res r == .connected t) with
  | some r => some r
  | none => (allFin 26).find? fun r => h.res r == .parked t

/-- A telemetry shows the transmitter quiet: OFF, READY or TUNING with forward power below 1.0 kW (R69). -/
def Telemetry.quiet (m : Telemetry) : Bool :=
  (m.report == .off || m.report == .ready || m.report == .tuning) && m.forward < 10
/-- The latest telemetry shows the transmitter quiet. -/
def Hall.quiet (h : Hall) (t : Tx) : Bool :=
  match (h.links.get t).telemetry with
  | some m => m.quiet
  | none => false
/-- RF off of a column: quiet telemetry, or an unconfigured transmitter (R110). -/
def rfOff (e : Env) (h : Hall) (t : Tx) : Bool := !e.txConfigured t || h.quiet t

/-! Units (8.4). -/

def Hall.unit (h : Hall) : HallUnit → UnitRec
  | .tx t => h.txUnit.get t
  | .ant a => h.antUnit.get a
def Hall.setUnit (h : Hall) (u : HallUnit) (r : UnitRec) : Hall :=
  match u with
  | .tx t => { h with txUnit := h.txUnit.set t r }
  | .ant a => { h with antUnit := h.antUnit.set a r }
/-- The service state of a row's antenna; a load row has none and counts as NORMAL. -/
def Hall.rowService (h : Hall) (r : Row) : Service :=
  match rowAnt r with
  | some a => (h.antUnit.get a).service
  | none => .normal

/-! Records (Chapter 2). -/

/-- The record a place holds. -/
def Hall.recordAt (h : Hall) (p : PlaceNo) : Option Record := (h.slots.get p).record
/-- The record a handle names: the place is occupied and the generation matches (R16). -/
def Hall.recordOf (h : Hall) (k : Handle) : Option Record :=
  if (h.slots.get k.place).gen = k.gen then h.recordAt k.place else none
def Hall.setRecord (h : Hall) (p : PlaceNo) (r : Option Record) : Hall :=
  { h with slots := h.slots.modify p fun s => { s with record := r } }
/-- The record of a handle changed by `f`; a handle that names none changes nothing. -/
def Hall.modRecord (h : Hall) (k : Handle) (f : Record → Record) : Hall :=
  match h.recordOf k with
  | some r => h.setRecord k.place (some (f r))
  | none => h
/-- The occupied places with their records, rising. -/
def Hall.occupied (h : Hall) : List (Handle × Record) :=
  (h.slots.cells.zip (allFin 1024)).filterMap fun (s, p) => s.record.map fun r => (⟨p, s.gen⟩, r)
/-- The count of free places (R15). -/
def Hall.freeCount (h : Hall) : Nat := h.slots.cells.countP fun s => s.record.isNone
/-- The context keeps an occurrence of the record (R52). -/
def Hall.keptBy (h : Hall) (k : Handle) : Option Tx :=
  (allFin 16).find? fun t => (h.ctx.get t).kept.any fun x => x.handle == k
/-- The start of the kept occurrence of the record (R52). -/
def Hall.keptStart (h : Hall) (k : Handle) : Option Nat :=
  (h.keptBy k).bind fun t => (h.ctx.get t).kept.map Kept.start
/-- The places whose record is in flight by a kept occurrence (R19). -/
def Hall.keptPlaces (h : Hall) : List PlaceNo :=
  (allFin 16).filterMap fun t =>
    (h.ctx.get t).kept.bind fun x => (h.recordOf x.handle).map fun _ => x.handle.place
/-- The context that holds an occurrence of the record as its current one. -/
def Hall.heldBy (h : Hall) (k : Handle) : Option Tx :=
  (allFin 16).find? fun t => (h.ctx.get t).occ.any fun o => o.handle == k
/-- A record is in flight (R19): one of the four flight states, or WAITING with its occurrence kept. -/
def Hall.inFlight (h : Hall) (k : Handle) (r : Record) : Bool :=
  r.state == .preparing || r.state == .onAir || r.state == .ending || r.state == .retiring || (h.keptBy k).isSome

end Sys2Proof.Machine
end

