-- ==== Sys2Proof/Machine/Antennas.lean ====
section
/-! DEFINITION. Reachability, the positioning estimate and the stop arithmetic (6.2, 6.3), bands and clamps (2.4). -/

namespace Sys2Proof.Machine

/-- (x − y) mod 360. -/
def angleSub (x y : Nat) : Nat := (x % 360 + 360 - y % 360) % 360
/-- The angular difference of two azimuths (6.2). -/
def angularDifference (x y : Nat) : Nat := min (angleSub x y) (angleSub y x)

/-- An azimuth is reached by a configured antenna (R129); an absent one always is. -/
def AntCfg.reaches (c : AntCfg) : Option Nat → Bool
  | none => true
  | some z =>
    match c.kind with
    | .fixed b d => angularDifference z b ≤ d
    | .slew b w _ _ => angularDifference z b ≤ w
    | .rotatable s _ _ => z != s

/-- A configured antenna's band holds a frequency (R25). -/
def AntCfg.holds (c : AntCfg) (f : Nat) : Bool := c.bandLow ≤ f && f ≤ c.bandHigh

/-- Rounded-up division. -/
def ceilDiv (a b : Nat) : Nat := (a + b - 1) / b

/-- The turn of a ROTATABLE antenna from `current` to `target` that does not pass its stop, with its distance (R131). -/
def turnOf (stop current target : Nat) : Turn × Nat :=
  let cw := angleSub target current
  let ccw := angleSub current target
  let offset := angleSub stop current
  if cw = 0 then (.none, 0)
  else if 1 ≤ offset ∧ offset ≤ cw then (.counter, ccw)
  else (.clockwise, cw)

/-- A position: azimuth and tilt, either unknown. -/
structure Position where
  azimuth : Option Nat
  tilt : Option Nat
  deriving DecidableEq, Repr

/-- The tilt term of the estimate (R130). -/
def tiltTerm (tiltTime : Nat) (start : Option Nat) (target : Nat) : Nat :=
  match start with
  | none => tiltTime
  | some t => if t = target then 0 else tiltTime

/-- The positioning estimate from a starting position to a target (R130). An absent target azimuth is boresight for
SLEW and the starting azimuth for ROTATABLE; an unknown starting azimuth gives the worst case (R61, R143). -/
def AntCfg.estimate (c : AntCfg) (start : Position) (azimuth : Option Nat) (tilt : Nat) : Nat :=
  match c.kind with
  | .fixed _ _ => 0
  | .slew b _ slewTime tiltTime =>
    let az := match start.azimuth with
      | none => slewTime
      | some z => if z = azimuth.getD b then 0 else slewTime
    max az (tiltTerm tiltTime start.tilt tilt)
  | .rotatable s rate tiltTime =>
    let az := match azimuth, start.azimuth with
      | none, some _ => 0
      | _, none => ceilDiv (359 * 10) rate
      | some z, some c => ceilDiv ((turnOf s c z).2 * 10) rate
    max az (tiltTerm tiltTime start.tilt tilt)

/-- A tilt clamped to an antenna's tilt count less one (R27, R56). -/
def AntCfg.clampTilt (c : AntCfg) (tilt : Nat) : Nat := min tilt (c.tiltCount - 1)

/-- The tilt of a record for a row: clamped for an antenna, as it stands for a load. -/
def tiltFor (e : Env) (r : Row) (tilt : Nat) : Nat :=
  match (rowAnt r).bind e.tables.ant.get with
  | some c => c.clampTilt tilt
  | none => tilt

/-- The configured antenna of a row. -/
def Env.rowAntenna (e : Env) (r : Row) : Option AntCfg := (rowAnt r).bind e.tables.ant.get

/-- The positioner of an antenna last reported itself within 1° of an azimuth and at a tilt (R77, R134); an absent
azimuth is boresight for SLEW and the present azimuth for ROTATABLE. -/
def atTarget (c : AntCfg) (p : PosRec) (azimuth : Option Nat) (tilt : Nat) : Bool :=
  p.tilt == some tilt &&
  match c.kind, azimuth, p.azimuth with
  | .rotatable _ _ _, none, _ => true
  | .slew b _ _ _, none, some z => angularDifference z b ≤ 1
  | .slew _ _ _ _, some x, some z => angularDifference z x ≤ 1
  | .rotatable _ _ _, some x, some z => angularDifference z x ≤ 1
  | .slew _ _ _ _, _, none => false
  | .rotatable _ _ _, some _, none => false
  | .fixed _ _, _, _ => true

/-- The last reported position already equals a target, exactly (R56). -/
def equalsTarget (c : AntCfg) (p : PosRec) (azimuth : Option Nat) (tilt : Nat) : Bool :=
  p.tilt == some tilt &&
  match c.kind, azimuth with
  | .rotatable _ _ _, none => true
  | .rotatable _ _ _, some x => p.azimuth == some x
  | .slew b _ _ _, z => p.azimuth == some (z.getD b)
  | .fixed _ _, _ => true

end Sys2Proof.Machine
end

