-- ==== Sys2Proof/Machine/Occurrences.lean ====
section
/-! DEFINITION. Occurrences and eligibility (3.1), the standing of a record (R20), and the writing of an outcome
(R22, R37, R65). -/

namespace Sys2Proof.Machine

/-- One occurrence of a record: its start and end. -/
structure Span where
  start : Nat
  finish : Nat
  deriving DecidableEq, Repr

/-- A record's days set holds a weekday, 0 being Monday. -/
def Schedule.onWeekday (s : Schedule) (w : Nat) : Bool := s.days.getLsbD w

/-- The occurrence of a schedule that starts on day `d` (R44). -/
def Schedule.spanOn (s : Schedule) (d : Nat) : Span :=
  ⟨d * 86400 + s.startMinute * 60, d * 86400 + s.startMinute * 60 + s.duration * 60⟩

/-- An occurrence of a record on day `d` exists (R44). -/
def occurs (c : Clock) (r : Record) (d : Nat) : Bool :=
  r.sched.onWeekday (c.weekday d) && (r.sched.firstDay.all fun f => f ≤ d) && (r.sched.lastDay.all fun l => d ≤ l) &&
  d ≤ 65535 && (r.served.all fun i => i < (r.sched.spanOn d).start)

/-- A record is eligible (R45). -/
def Record.eligible (r : Record) : Bool :=
  !r.suspendPending &&
  match r.state with
  | .dormant | .waiting | .preparing | .onAir | .ending => true
  | .suspended | .retiring => false

/-- The handover seam of R45: which starts of a bank's occurrences are eligible. -/
def Banks.seam (b : Banks) (k : Bank) (start : Nat) : Bool :=
  match b.handover with
  | none => k == b.live
  | some hh => if k = b.live then start < hh else hh ≤ start

/-- The capped end of an occurrence of a bank (R45). -/
def Banks.cappedEnd (b : Banks) (k : Bank) (finish : Nat) : Nat :=
  match b.handover with
  | some hh => if k = b.live then min finish hh else finish
  | none => finish

/-- The least day from which on a bound on a start or end holds: the least `d` with `d * 86400 + offset > bound`. -/
def firstDayAfter (bound offset : Nat) : Nat := if bound < offset then 0 else (bound - offset) / 86400 + 1

/-- The least day on which a future eligible occurrence of a record could start: its end after now, its start after the
served-through instant, its day not before the first day, and its start at or after H for the standby bank. -/
def searchFrom (e : Env) (r : Record) : Nat :=
  let off := r.sched.startMinute * 60
  let byEnd := firstDayAfter e.now (off + r.sched.duration * 60)
  let byServed := match r.served with
    | some i => firstDayAfter i off
    | none => 0
  let byFirst := r.sched.firstDay.getD 0
  let bySeam := match e.banks.handover with
    | some hh => if r.sched.bank = e.banks.live ∨ hh = 0 then 0 else firstDayAfter (hh - 1) off
    | none => 0
  max (max byEnd byServed) (max byFirst bySeam)

/-- The first of the eight days from `d` on whose occurrence exists, is future, passes the seam and is not `skip`
(R44 to R46). A week holds every weekday, and one more day makes up for the skipped occurrence. -/
def firstEligible (e : Env) (r : Record) (skip : Option Nat) (d : Nat) : Option Span :=
  ((List.range' d 15).find? fun x =>
    occurs e.clock r x && e.now < (r.sched.spanOn x).finish && e.banks.seam r.sched.bank (r.sched.spanOn x).start &&
    skip != some (r.sched.spanOn x).start).map r.sched.spanOn

/-- The next future eligible occurrence of a record, other than the one that starts at `skip` (R45, R46). -/
def nextOf (e : Env) (r : Record) (skip : Option Nat) : Option Span :=
  if r.eligible then firstEligible e r skip (searchFrom e r) else none

/-- WAITING or DORMANT: the standing of a resting record that is not SUSPENDED (R20). -/
def standing (e : Env) (r : Record) : RecState :=
  if (nextOf e { r with state := .waiting, suspendPending := false } none).isSome then .waiting else .dormant

/-- A resting record takes its standing anew (R20), by the count of the clock whether its valid flag is set or not (log 51,
DESIGN CHOICE). -/
def restand (e : Env) (r : Record) : Record :=
  match r.state with
  | .dormant | .waiting => { r with state := standing e r }
  | .preparing | .onAir | .ending | .suspended | .retiring => r

/-- Every record of the table takes its standing anew (R20), but for those in flight by a kept occurrence: they stay
WAITING until it begins (R19). -/
def restandAll (e : Env) (h : Hall) : Hall :=
  let anew := h.slots.map fun s => { s with record := s.record.map (restand e) }
  { h with slots := h.keptPlaces.foldl (fun slots p => slots.set p (h.slots.get p)) anew }

/-- A retirement completes: the place becomes free and its generation advances modulo 16 (R37). -/
def retirePlace (p : PlaceNo) (h : Hall) : Hall :=
  { h with slots := h.slots.modify p fun s => { gen := s.gen + 1, record := none } }

/-- The outcome and its companions, as R22 writes them. Early-end seconds above the 86400 of R18 are written as they are
(log 50, DESIGN CHOICE). -/
def outcomeOf (d : Decided) (start finish late : Nat) (wentOnAir : Bool) : LastOutcome :=
  { outcome := d.outcome
    reason := match d.outcome with
      | .complete | .late => none
      | .cut | .missed | .aborted | .halted => d.reason
    start := start
    late := if wentOnAir then late else 0
    early := if wentOnAir then finish - d.ended else 0 }

/-- The served-through instant after an outcome: S, but for HALTED (R22). -/
def servedAfter (o : LastOutcome) (old : Option Nat) : Option Nat :=
  match o.outcome with
  | .halted => old
  | .complete | .late | .cut | .missed | .aborted => some o.start

/-- A record whose occurrence has finished leaves flight (R22); RETIRING is left to `finishRecord`. -/
def leaveFlight (e : Env) (r : Record) : Record :=
  match r.state with
  | .retiring => r
  | .suspended => r
  | .dormant | .waiting | .preparing | .onAir | .ending =>
    if r.suspendPending then { r with state := .suspended, suspendPending := false }
    else restand e { r with state := .waiting }

/-- The record's part of a finish: the outcome is written, the current occurrence becomes absent and the record leaves
flight (R22). A record in flight with another occurrence, its current one or the one kept from `kept` on, stays in
flight with it (R19, log 13). -/
def writeOutcome (e : Env) (kept : Option Nat) (o : LastOutcome) (r : Record) : Record :=
  let r := { r with last := some o, served := servedAfter o r.served }
  match r.current, kept with
  | some c, _ => if c.start = o.start then leaveFlight e { r with current := none } else r
  | none, some start => if start = o.start then leaveFlight e r else r
  | none, none => leaveFlight e r

/-- The notice an outcome raises when it is written (R96). -/
def outcomeNotice (o : OccOutcome) (h : Hall) : Hall :=
  match o with
  | .missed => raiseNotice .missed h
  | .cut => raiseNotice .cut h
  | .complete | .late | .aborted | .halted => h

/-- A retirement that waited for its occurrence completes (R37). -/
def completeRetirement (k : Handle) (h : Hall) : Hall :=
  match h.recordOf k with
  | some r => if r.state = RecState.retiring ∧ r.current.isNone then retirePlace k.place h else h
  | none => h

/-- An occurrence of transmitter `t` and record `k` finishes with an outcome: the record (R22), a completed retirement
(R37), the last-outcome field of the transmitter (R65) and the notice (R96). -/
def finishRecord (e : Env) (t : Tx) (k : Handle) (o : LastOutcome) (h : Hall) : Hall :=
  let h := completeRetirement k (h.modRecord k (writeOutcome e (h.keptStart k) o))
  outcomeNotice o.outcome { h with lastOutcome := h.lastOutcome.set t (some ⟨k, o⟩) }

end Sys2Proof.Machine
end

