-- ==== Sys2Proof/Machine/Planner.lean ====
section
/-! DEFINITION. The planner (Chapter 3): next occurrences, target resolution, the figures of an entry, blocked reasons
and the recomputation of the due list. -/

namespace Sys2Proof.Machine

/-- Insertion into a list kept in order by `le`, behind the entries that are not greater. -/
def insertBy {α : Type} (le : α → α → Bool) (a : α) : List α → List α
  | [] => [a]
  | b :: l => if le b a then b :: insertBy le a l else a :: b :: l

/-- A list put in order. -/
def sortBy {α : Type} (le : α → α → Bool) (l : List α) : List α := l.foldr (insertBy le) []

/-! Holders of a row (R55). -/

/-- An occurrence that holds a row for an interval. `begin = none` is "from before the present instant". -/
structure Holder where
  tx : Tx
  row : Row
  beginAt : Option Nat
  finish : Nat
  azimuth : Option Nat
  tilt : Nat
  deriving DecidableEq, Repr

/-- The holder starts before an instant. One from before the present instant (R55) starts before every instant, one
that is past included (log 45, DESIGN CHOICE). -/
def Holder.before (k : Holder) (i : Nat) : Bool := k.beginAt.all fun b => b < i
/-- The holder's interval overlaps [S, E) (R55). -/
def Holder.overlaps (k : Holder) (start cappedEnd : Nat) : Bool := k.before cappedEnd && start < k.finish

/-- What the occurrence a context holds as its current one holds (R55). Its tilt is the one clamped when its changeover
started (R67), which R61 then clamps for the antenna as it stands; after a SET ANTENNA that raised the tilt count it is not
the record's tilt clamped anew (log 69, DESIGN CHOICE). -/
def currentHolder (e : Env) (h : Hall) (t : Tx) : Option Holder :=
  let c := h.ctx.get t
  c.occ.map fun o =>
    { tx := t, row := o.row, beginAt := none
      finish := if c.state = .ending then c.endingBegan.getD 0 else e.banks.cappedEnd o.bank o.finish
      azimuth := o.azimuth, tilt := o.tilt }

/-- What the kept occurrence of a context holds (R55). -/
def keptHolder (e : Env) (h : Hall) (t : Tx) : Option Holder :=
  (h.ctx.get t).kept.bind fun k => (h.recordOf k.handle).map fun r =>
    { tx := t, row := k.row, beginAt := some k.start, finish := e.banks.cappedEnd r.sched.bank k.finish
      azimuth := r.sched.azimuth, tilt := r.sched.tilt }

/-- The holders that stand with the contexts. -/
def contextHolders (e : Env) (h : Hall) : List Holder :=
  (allFin 16).filterMap (currentHolder e h) ++ (allFin 16).filterMap (keptHolder e h)

/-- What a due entry holds (R55). -/
def entryHolder (e : Env) (h : Hall) (d : DueEntry) : Option Holder :=
  d.resolved.bind fun row => (h.recordOf d.handle).map fun r =>
    { tx := d.tx, row := row, beginAt := some d.start, finish := e.banks.cappedEnd r.sched.bank d.finish
      azimuth := r.sched.azimuth, tilt := r.sched.tilt }

/-! Resolution (3.4). -/

/-- The configured antenna accepts a record's frequency and azimuth (R56, R58). -/
def AntCfg.accepts (c : AntCfg) (s : Schedule) : Bool := c.holds s.freq && c.reaches s.azimuth

/-- A member of a group meets the conditions of R56 for an occurrence of transmitter `t` over [S, capped end). -/
def memberQualifies (e : Env) (h : Hall) (holders : List Holder) (t : Tx) (s : Schedule) (start cappedEnd : Nat)
    (a : Ant) : Bool :=
  match e.tables.ant.get a with
  | none => false
  | some c =>
    let u := (h.antUnit.get a).service
    let p := h.pos.get a
    c.accepts s && u != .barred && u != .out && !h.rowBlocked (antRow a) && !h.stray.get (antRow a) &&
    (p.state != .fault || equalsTarget c p s.azimuth (c.clampTilt s.tilt)) &&
    holders.all fun k => k.tx == t || k.row != antRow a || !k.overlaps start cappedEnd

/-- The first member of a group that qualifies, passing over `left` (R56, R78, R89). -/
def resolveGroup (e : Env) (h : Hall) (holders : List Holder) (t : Tx) (s : Schedule) (start cappedEnd : Nat)
    (left : List Ant) (g : GroupNo) : Option Row :=
  ((e.tables.group.get g).find? fun a =>
    !left.contains a && memberQualifies e h holders t s start cappedEnd a).map antRow

/-- An entry whose target is an antenna or a load resolves to it, or to NO_ANTENNA (R58). -/
def resolveFixed (e : Env) (s : Schedule) : Option Row :=
  match s.target with
  | .load l => some (loadRow l)
  | .antenna a => if (e.tables.ant.get a).any fun c => c.accepts s then some (antRow a) else none
  | .group _ => none

/-- The target is a group. -/
def Target.isGroup : Target → Bool
  | .group _ => true
  | .antenna _ | .load _ => false

/-! Next occurrences (R46). -/

/-- A transmitter's next occurrence with its record, and the row it resolves to. -/
structure Candidate where
  tx : Tx
  handle : Handle
  record : Record
  span : Span
  resolved : Option Row
  deriving DecidableEq, Repr

/-- The start of the occurrence of record `k` that transmitter `t`'s context holds, as current or kept. -/
def heldStart (h : Hall) (t : Tx) (k : Handle) : Option Nat :=
  let c := h.ctx.get t
  match c.occ, c.kept with
  | some o, some x => if o.handle = k then some o.start else if x.handle = k then some x.start else none
  | some o, none => if o.handle = k then some o.start else none
  | none, some x => if x.handle = k then some x.start else none
  | none, none => none

/-- The earlier of two candidates; the first stands on equal S, being of the lower place (R46). -/
def earlierOf (a b : Candidate) : Candidate := if b.span.start < a.span.start then b else a

/-- The next occurrence of a transmitter, among the occupied places (R46). -/
def nextOccurrence (e : Env) (h : Hall) (occupied : List (Handle × Record)) (t : Tx) : Option Candidate :=
  occupied.foldl (fun best (k, r) =>
    if r.sched.tx = t then
      match nextOf e r (heldStart h t k), best with
      | some sp, none => some ⟨t, k, r, sp, none⟩
      | some sp, some b => some (earlierOf b ⟨t, k, r, sp, none⟩)
      | none, b => b
    else best) none

/-- A candidate as a holder of the row it resolved to. -/
def Candidate.holder (e : Env) (c : Candidate) : Option Holder :=
  c.resolved.map fun row =>
    { tx := c.tx, row := row, beginAt := some c.span.start
      finish := e.banks.cappedEnd c.record.sched.bank c.span.finish
      azimuth := c.record.sched.azimuth, tilt := c.record.sched.tilt }

/-- One group candidate resolved against the holders found so far (R49). -/
def resolveStep (e : Env) (h : Hall) (acc : List Candidate × List Holder) (c : Candidate) :
    List Candidate × List Holder :=
  let s := c.record.sched
  let row := match s.target with
    | .group g =>
      resolveGroup e h acc.2 c.tx s c.span.start (e.banks.cappedEnd s.bank c.span.finish) [] g
    | .antenna _ | .load _ => none
  let c := { c with resolved := row }
  (acc.1 ++ [c], acc.2 ++ (c.holder e).toList)

/-- All targets resolved in one pass: fixed targets first, then groups by S and transmitter (R49). -/
def resolveAll (e : Env) (h : Hall) (l : List Candidate) : List Candidate :=
  let fixed := (l.filter fun c => !c.record.sched.target.isGroup).map fun c =>
    { c with resolved := resolveFixed e c.record.sched }
  let groups := sortBy (fun a b => a.span.start < b.span.start || (a.span.start == b.span.start && a.tx ≤ b.tx))
    (l.filter fun c => c.record.sched.target.isGroup)
  let holders := contextHolders e h ++ fixed.filterMap (Candidate.holder e)
  (groups.foldl (resolveStep e h) (fixed, holders)).1

/-! The figures of an entry (3.5). -/

/-- The transmitter's figures; an unconfigured transmitter's are 0. -/
def Env.txFigures (e : Env) (t : Tx) : TxCfg :=
  (e.tables.tx.get t).getD
    { rating := 0, bandLow := 0, bandHigh := 0, muteTime := 0, tuneBase := 0, tuneRate := 0, ramp := 0 }

/-- The tune time from a current frequency, unknown or not, to a new one (R59). -/
def TxCfg.tuneTime (c : TxCfg) (current : Option Nat) (freq : Nat) : Nat :=
  match current with
  | some f => if f = freq then 0 else c.tuneBase + ceilDiv ((max f freq - min f freq) * c.tuneRate) 10000
  | none => c.tuneBase + ceilDiv ((c.bandHigh - c.bandLow) * c.tuneRate) 10000

/-- The transmitter's current frequency for t_tune (R59). -/
def currentFreq (h : Hall) (t : Tx) : Option Nat :=
  let c := h.ctx.get t
  match c.kept.bind (fun k => h.recordOf k.handle), c.occ with
  | some r, _ => some r.sched.freq
  | none, some o => some o.freq
  | none, none => (h.links.get t).telemetry.bind Telemetry.freq

/-- The transmitter's current row for t_path (R60). -/
def currentRow (h : Hall) (t : Tx) : Option Row :=
  let c := h.ctx.get t
  match c.kept, c.occ with
  | some k, _ => some k.row
  | none, some o => some o.row
  | none, none => h.connection t

/-- t_mute (R59). -/
def tMute (e : Env) (h : Hall) (t : Tx) : Nat :=
  let c := h.ctx.get t
  if c.held = .nothing ∨ c.state = .idle ∨ c.state = .halted then 0 else e.muteTime t

/-- t_path: the crosspoint moves of the changeover times the expected travel (R60). -/
def tPath (e : Env) (h : Hall) (t : Tx) (row : Row) : Nat :=
  let current := currentRow h t
  if current = some row then 0
  else
    let other := match h.res row with
      | .parked u => if u = t then 0 else 1
      | .free | .claimed _ | .connected _ | .releasing | .exercise => 0
    (1 + (if current.isSome then 1 else 0) + other) * e.tables.expectedTravel

/-- The start of a holder's interval as R61 compares it: those before the present instant start together. -/
def Holder.rank (e : Env) (k : Holder) : Nat :=
  match k.beginAt with
  | some b => if b < e.now then 0 else b + 1
  | none => 0

/-- The predecessor among two holders: the later start, then the later end, then the lower transmitter (R61,
which orders in this way the starts before the present instant; equal later ones in the same way by log 46, DESIGN
CHOICE). -/
def laterHolder (e : Env) (a b : Holder) : Holder :=
  if a.rank e < b.rank e then b
  else if b.rank e < a.rank e then a
  else if a.finish < b.finish then b
  else if b.finish < a.finish then a
  else if b.tx < a.tx then b else a

/-- The predecessor of an entry on a row: the holder that starts latest among the earlier ones (R61). -/
def predecessor (e : Env) (holders : List Holder) (row : Row) (start : Nat) : Option Holder :=
  (holders.filter fun k => k.row == row && k.before start).foldl (fun best k =>
    match best with
    | none => some k
    | some b => some (laterHolder e b k)) none

/-- The starting position of an antenna for an entry (R61). -/
def startingPosition (c : AntCfg) (p : PosRec) : Option Holder → Position
  | none => ⟨p.azimuth, p.tilt⟩
  | some k =>
    let az := match c.kind, k.azimuth with
      | _, some z => some z
      | .slew b _ _ _, none => some b
      | .fixed b _, none => some b
      | .rotatable _ _ _, none => p.azimuth
    ⟨az, some (c.clampTilt k.tilt)⟩

/-- t_pos (R61). -/
def tPos (e : Env) (h : Hall) (holders : List Holder) (row : Row) (s : Schedule) (start : Nat) : Nat :=
  match rowAnt row with
  | none => 0
  | some a =>
    match e.tables.ant.get a with
    | none => 0
    | some c =>
      c.estimate (startingPosition c (h.pos.get a) (predecessor e holders row start)) s.azimuth (c.clampTilt s.tilt)

/-- The antenna-free instant F_a (R63). -/
def antennaFree (e : Env) (holders : List Holder) (t : Tx) (row : Row) (start : Nat) : Nat :=
  (holders.filter fun k => k.tx != t && k.row == row && k.before start).foldl
    (fun m k => max m (k.finish + e.muteTime k.tx)) 0

/-- E_prev less A_prev of R62, 0 when the context holds no occurrence. -/
def previousLimit (e : Env) (h : Hall) (t : Tx) : Nat :=
  let c := h.ctx.get t
  match c.kept.bind (fun k => (h.recordOf k.handle).map fun r => (k, r)), c.occ with
  | some (k, r), _ => e.banks.cappedEnd r.sched.bank k.finish - r.sched.cut
  | none, some o =>
    let cut := ((h.recordOf o.handle).map fun r => r.sched.cut).getD 0
    (if c.state = .ending then c.endingBegan.getD 0 else e.banks.cappedEnd o.bank o.finish) - cut
  | none, none => 0

/-- A unit is not BARRED: the blocked reason it gives (R53, conditions 4, 5, 8, 9). -/
def serviceBlock : Service → Option Reason
  | .barred => some .barred
  | .out => some .out
  | .normal | .watch | .reduced | .proving => none

/-- The reason a fixed target's row gives (R53, conditions 8 to 11). -/
def targetBlock (h : Hall) : Target → Option Reason
  | .group _ => none
  | .antenna a =>
    match serviceBlock (h.antUnit.get a).service with
    | some r => some r
    | none => if h.rowBlocked (antRow a) then some .path else if h.stray.get (antRow a) then some .stray else none
  | .load l =>
    if h.rowBlocked (loadRow l) then some .path else if h.stray.get (loadRow l) then some .stray else none

/-- The blocked reason of an entry: the first condition of R53 that holds. -/
def blockedReason (e : Env) (h : Hall) (t : Tx) (target : Target) (resolved : Option Row) : Option Reason :=
  if e.mode ≠ .run then some .mode
  else if !e.txConfigured t ∨ (h.links.get t).state = .silent then some .silent
  else if (h.links.get t).state = .localCtl then some .localCtl
  else match serviceBlock (h.txUnit.get t).service with
    | some r => some r
    | none =>
      if h.columnBlocked t then some .path
      else if resolved.isNone then some .noAntenna
      else targetBlock h target

/-- The entry of a resolved candidate, computed against all holders (R62, R63). -/
def figures (e : Env) (h : Hall) (holders : List Holder) (given : Bool) (c : Candidate) : DueEntry :=
  let t := c.tx
  let s := c.record.sched
  let cfg := e.txFigures t
  let tm := tMute e h t
  let tt := cfg.tuneTime (currentFreq h t) s.freq
  let tp := (c.resolved.map (tPath e h t)).getD 0
  let ts := (c.resolved.map fun row => tPos e h holders row s c.span.start).getD 0
  let fa := (c.resolved.map fun row => antennaFree e holders t row c.span.start).getD 0
  let sum := tm + max tt (max tp ts) + cfg.ramp + e.tables.guard
  let lead := min sum 900
  let c' := max (c.span.start - lead) (max (previousLimit e h t) e.now)
  let prepared := max (c' + tm + tt) (max (c' + tm) fa + max tp ts)
  let onAir := max (c.span.start - cfg.ramp) prepared + cfg.ramp
  { tx := t, handle := c.handle, start := c.span.start, finish := c.span.finish, resolved := c.resolved, lead := lead
    long := 900 < sum, beginAt := c', expectedLate := min 65535 (onAir - c.span.start)
    blocked := blockedReason e h t s.target c.resolved, noAntennaGiven := given || c.resolved.isNone }

/-- The no-antenna notice has been given for the entry of this record and S on the list (R47). -/
def givenBefore (due : List DueEntry) (c : Candidate) : Bool :=
  due.any fun d => d.tx == c.tx && d.handle == c.handle && d.start == c.span.start && d.noAntennaGiven

/-- Entries in ascending order of C′, then of transmitter (R47). -/
def dueBefore (a b : DueEntry) : Bool := a.beginAt < b.beginAt || (a.beginAt == b.beginAt && a.tx ≤ b.tx)

/-- The due list as a whole from the state of the hall (R48), and whether an entry is resolved to NO_ANTENNA whose notice
has not been given (R56). -/
def computeDue (e : Env) (h : Hall) : List DueEntry × Bool :=
  if e.clock.valid then
    let occupied := h.occupied
    let cands := resolveAll e h ((allFin 16).filterMap (nextOccurrence e h occupied))
    let holders := contextHolders e h ++ cands.filterMap (Candidate.holder e)
    (sortBy dueBefore (cands.map fun c => figures e h holders (givenBefore e.due c) c),
     cands.any fun c => c.resolved.isNone && !givenBefore e.due c)
  else ([], false)

/-- The recomputation of the due list (R48), with the NO_ANTENNA notice of R56. -/
def recompute (s : State) : State :=
  let d := computeDue s.env s.hall
  { s with env := { s.env with due := d.1 }, hall := if d.2 then raiseNotice .noAntenna s.hall else s.hall }

/-- A time-set event: the list is emptied without outcomes and rebuilt from the new instant (R50). -/
def rebuildDue (s : State) : State := recompute { s with env := { s.env with due := [] } }

/-- What the recomputation reads of the state beside time and records, gathered to see whether an event of R48 has
happened. EXERCISE rows count as FREE: their selection is handed to no one (R188). -/
structure PlannerView where
  ctx : List (CtxState × Held × Option Kept)
  res : List Reservation
  claims : List (Option Claim)
  rowBlocked : List Bool
  columnBlocked : List Bool
  stray : Tab Bool 26
  service : List Service
  pos : List PosState
  link : List LinkState
  mode : Mode
  banks : Banks
  deriving DecidableEq, Repr

/-- The planner's view of a state. -/
def plannerView (s : State) : PlannerView :=
  let h := s.hall
  { ctx := h.ctx.cells.map fun c => (c.state, c.held, c.kept)
    res := h.rows.cells.map fun w => if w.res = .exercise then .free else w.res
    claims := h.claims.cells
    rowBlocked := (allFin 26).map h.rowBlocked
    columnBlocked := (allFin 16).map h.columnBlocked
    stray := h.stray
    service := h.txUnit.cells.map UnitRec.service ++ h.antUnit.cells.map UnitRec.service
    pos := h.pos.cells.map PosRec.state
    link := h.links.cells.map Link.state
    mode := s.env.mode
    banks := s.env.banks }

end Sys2Proof.Machine
end

