-- ==== Sys2Proof/Machine/Links.lean ====
section
/-! DEFINITION. PRESETs and the hall link's polls (7.3, 7.5), and the power ceiling that hands power PRESETs (8.2, 8.3). -/

namespace Sys2Proof.Machine

def Hall.modLink (h : Hall) (t : Tx) (f : Link → Link) : Hall := { h with links := h.links.modify t f }
def Hall.modPower (h : Hall) (t : Tx) (f : Power → Power) : Hall := { h with power := h.power.modify t f }

/-! PRESETs. -/

/-- A PRESET is taken into a link record (R152): it sets the preset values, a tuning one becomes the tune PRESET, and it
becomes pending, in place of any other, while the link is ACTIVE. -/
def Link.take (p : Preset) (l : Link) : Link :=
  { l with
    presetFreq := some p.freq
    presetProgramme := p.programme
    tuneNumber := if p.tuning then none else l.tuneNumber
    ackNumbers := if p.tuning then [] else l.ackNumbers
    tuneHanded := p.tuning || l.tuneHanded
    told := !p.tuning && l.told
    pending := if l.state = .active then some p else l.pending }

/-- A PRESET is handed to the hall link controller (R152). -/
def handPreset (t : Tx) (p : Preset) (h : Hall) : Hall := h.modLink t (Link.take p)

/-- The pending PRESET of a transmitter is withdrawn (R91, R152). -/
def withdrawPreset (t : Tx) (h : Hall) : Hall := h.modLink t fun l => { l with pending := none }

/-- The PRESET the power ceiling hands for a changed power: the preset values, else the tuned frequency and P0, else the
band low and P0 (R152). -/
def powerPreset (e : Env) (h : Hall) (t : Tx) (power : Nat) : Preset :=
  let l := h.links.get t
  match l.presetFreq, l.telemetry.bind Telemetry.freq with
  | some f, _ => { freq := f, programme := l.presetProgramme, power := power, number := none, tuning := false }
  | none, some f => { freq := f, programme := 0, power := power, number := none, tuning := false }
  | none, none =>
    { freq := (e.txFigures t).bandLow, programme := 0, power := power, number := none, tuning := false }

/-- The number the next PRESET is given at its first poll (R153). -/
def Link.nextNumber (l : Link) : Nat :=
  match l.lastCarried, l.telemetry.bind Telemetry.ack with
  | some n, _ => (n + 1) % 256
  | none, some a => (a + 1) % 256
  | none, none => 0

/-- The pending PRESET may ride a poll: the link is ACTIVE and holds telemetry (R147). -/
def Link.carries (l : Link) : Option Preset :=
  if l.state = .active ∧ l.telemetry.isSome then l.pending else none

/-- The number a PRESET rides with: its own, or the next one (R153). -/
def Link.numberFor (l : Link) (p : Preset) : Nat := p.number.getD l.nextNumber

/-- The link record after a poll that carried `p` (R153): the PRESET keeps its number, and until acknowledged is told the
number joins those that acknowledge the tune PRESET. -/
def Link.carried (p : Preset) (l : Link) : Link :=
  let n := l.numberFor p
  match p.number with
  | some _ => l
  | none =>
    { l with
      pending := some { p with number := some n }
      lastCarried := some n
      tuneNumber := if p.tuning then some n else l.tuneNumber
      ackNumbers := if l.tuneHanded && !l.told && !l.ackNumbers.contains n then l.ackNumbers ++ [n]
        else l.ackNumbers }

/-- The poll frame of a transmitter (R216). -/
def hallFrame (t : Tx) (l : Link) : List Byte :=
  match l.carries with
  | none => withCheck (b1 t.val ++ b1 0)
  | some p =>
    withCheck (b1 t.val ++ b1 1 ++ b1 (l.numberFor p) ++ b2 p.freq ++ b1 p.programme ++ b2 p.power)

/-- The poll of a transmitter goes out (R147). -/
def sendHallPoll (t : Tx) (h : Hall) : Hall :=
  let l := h.links.get t
  let h := { h with hallSent := hallFrame t l }
  match l.carries with
  | none => h
  | some p => h.modLink t (Link.carried p)

/-- The poll of the transmitter that is next in the cycle goes out, if one is left (R147). -/
def nextHallPoll (h : Hall) : Hall :=
  match h.hallPoll with
  | [] => h
  | t :: _ => sendHallPoll t h

/-! The power ceiling (8.2). -/

/-- P1, the plain limit (R163); none while the context holds nothing. -/
def plainLimit (e : Env) (h : Hall) (t : Tx) : Option Nat :=
  let rating := (e.txFigures t).rating
  match (h.ctx.get t).held with
  | .nothing => none
  | .occurrence o =>
    let stored := ((h.recordOf o.handle).map fun r => r.sched.power).getD 0
    some (min stored (min rating (e.rowPower o.row)))
  | .proving row => some (min (rating / 4) (e.rowPower row))

/-- A service state that halves the power and lowers the re-strike limit (R163, R171). -/
def Service.weak : Service → Bool
  | .reduced | .proving => true
  | .normal | .watch | .barred | .out => false

/-- P2, the service halving (R163). -/
def serviceLimit (e : Env) (h : Hall) (t : Tx) : Option Nat :=
  (plainLimit e h t).map fun p1 =>
    match (h.ctx.get t).occ with
    | some o => if (h.txUnit.get t).service.weak || (h.rowService o.row).weak then p1 / 2 else p1
    | none => p1

/-- P3 from P2, the foldback level and F (R166). A level that SET PROTECTION has put at or below F leaves P2 as it is
(log 65, DESIGN CHOICE). -/
def foldback (p2 f : Nat) : Option Nat → Nat
  | none => p2
  | some level => if level ≤ 2 * f then p2 - p2 * (level - f) / (2 * f) else p2 - p2 / 2

/-- P4, the requested power (R163). -/
def requestedPower (e : Env) (h : Hall) (t : Tx) : Option Nat :=
  (serviceLimit e h t).map fun p2 =>
    match (h.ctx.get t).occ with
    | some _ => max (foldback p2 e.tables.foldStart (h.power.get t).level) 10
    | none => max p2 10

/-- The requested power is computed anew; a changed one is handed as a PRESET (R164). A context that holds nothing has
neither a requested power nor a foldback state (R163, R166). -/
def ceiling (e : Env) (t : Tx) (h : Hall) : Hall :=
  let new := requestedPower e h t
  if new = (h.power.get t).requested then h
  else
    match new with
    | some p => handPreset t (powerPreset e h t p) (h.modPower t fun w => { w with requested := some p })
    | none => h.modPower t fun w => { w with requested := none, level := none, returnStart := none, noted := false }

/-- The foldback state and the reflection noted flag when a context takes an occurrence or a proving run (R165, R166). -/
def freshFoldback (t : Tx) (h : Hall) : Hall :=
  h.modPower t fun p => { p with level := none, returnStart := none, noted := false }

/-- The foldback state when an occurrence gets a new antenna (R166). -/
def newAntennaFoldback (t : Tx) (h : Hall) : Hall :=
  h.modPower t fun p => { p with level := none, returnStart := none }

/-- The reflection ratio of a reply, none below 1.0 kW (R165). -/
def reflectionRatio (m : Telemetry) : Option Nat :=
  if 10 ≤ m.forward then some (min 1000 (1000 * m.reflected / m.forward)) else none

/-- A ratio applied to the foldback level and the return start (R166). -/
def Power.applyRatio (now f ratio : Nat) (p : Power) : Power :=
  if f < ratio then { p with level := some (max (p.level.getD 0) ratio), returnStart := none }
  else
    match p.level, p.returnStart with
    | none, _ => p
    | some _, none => { p with returnStart := some now }
    | some _, some r => if r + 60 ≤ now then { p with level := none, returnStart := none } else p

/-- A reply of an ON_AIR context gives its reflection ratio (R165, R166). -/
def reflect (e : Env) (t : Tx) (m : Telemetry) (h : Hall) : Hall :=
  let c := h.ctx.get t
  match c.state, reflectionRatio m with
  | .onAir, some ratio =>
    let warn := e.tables.warnLevel ≤ ratio && !(h.power.get t).noted
    let h := h.modPower t fun p => { p with lastRatio := some ratio, noted := p.noted || warn }
    let h := if warn then raiseNotice .reflection h else h
    if c.occ.isSome then h.modPower t (Power.applyRatio e.now e.tables.foldStart ratio) else h
  | _, _ => h

end Sys2Proof.Machine
end

