-- ==== Sys2Proof/Machine/Gate.lean ====
section
/-! DEFINITION. The permit gate (8.1) and the cover of a row (8.9). -/

namespace Sys2Proof.Machine

def Hall.modGate (h : Hall) (t : Tx) (f : Gate → Gate) : Hall := { h with gates := h.gates.modify t f }

/-- A unit is neither BARRED nor OUT. -/
def Service.permits : Service → Bool
  | .barred | .out => false
  | .normal | .watch | .reduced | .proving => true

/-- The positioner of a row is not MOVING; a load row has none (R160). -/
def Hall.rowStill (h : Hall) (r : Row) : Bool :=
  match rowAnt r with
  | some a => (h.pos.get a).state != .moving
  | none => true

/-- The non-OPEN crosspoints of a column. -/
def Hall.columnNonOpen (h : Hall) (t : Tx) : List Xp := (columnXps t).filter fun x => !h.isOpen x

/-- The matrix, antenna and stray conditions of the gate, on the column's only non-OPEN crosspoint (R160). -/
def connectionPermits (h : Hall) (t : Tx) : Bool :=
  match h.columnNonOpen t with
  | [x] =>
    (h.xp x).pos == .closed && h.res x.row == .connected t &&
    (rowXps x.row).all (fun y => y.tx == t || h.isOpen y) && (h.rowService x.row).permits && h.rowStill x.row &&
    !h.stray.get x.row
  | _ => false

/-- Every condition of the permit gate but the request (R160). -/
def permitConditions (e : Env) (h : Hall) (t : Tx) : Bool :=
  let c := h.ctx.get t
  e.mode == .run && !e.pins.hallstop && (c.state == .ramping || c.state == .onAir) && connectionPermits h t &&
  (h.txUnit.get t).service.permits

/-- The line of a gate falls; the instant of the drop is kept (R160, R161). -/
def Gate.fall (at' : Nat) (g : Gate) : Gate :=
  if g.line then { g with line := false, lastDrop := some at', quietSince := false } else g

/-- A context asks for the permit to be dropped: the request is withdrawn and the line falls (R160). -/
def dropPermit (e : Env) (t : Tx) (h : Hall) : Hall :=
  h.modGate t fun g => { g.fall e.elapsed with request := false }

/-- The request of a context stands (R80). -/
def requestPermit (t : Tx) (h : Hall) : Hall := h.modGate t fun g => { g with request := true }

/-- A line falls and its request stands (R161). -/
def lowerLine (e : Env) (t : Tx) (h : Hall) : Hall := h.modGate t (Gate.fall e.elapsed)

/-- A line rises (R160). -/
def raiseLine (t : Tx) (h : Hall) : Hall := h.modGate t fun g => { g with line := true }

/-- All lines fall: HALLSTOP, and each change of mode away from RUN (R161, R162). -/
def lowerAll (e : Env) (h : Hall) : Hall := { h with gates := h.gates.map (Gate.fall e.elapsed) }

/-- No line is high while a condition fails (R160). -/
def lowerFailed (e : Env) (h : Hall) : Hall :=
  { h with gates := Tab.build 16 fun t =>
      if permitConditions e h t then h.gates.get t else (h.gates.get t).fall e.elapsed }

/-- Transmitter `t` covers a row in which it has a non-OPEN crosspoint (R179). -/
def covers (e : Env) (h : Hall) (t : Tx) : Bool :=
  let g := h.gates.get t
  g.line || (!g.quietSince && g.lastDrop.any fun d => e.elapsed < d + (e.muteTime t + 10) * 1000)

/-- A row is covered (R179). -/
def covered (e : Env) (h : Hall) (r : Row) : Bool := (allFin 16).any fun t => !h.isOpen ⟨t, r⟩ && covers e h t

/-- RF on a row that is stray and not yet latched (R179, R180). -/
def strayFound (e : Env) (h : Hall) (r : Row) : Bool := e.pins.rf.get r && !h.stray.get r && !covered e h r

end Sys2Proof.Machine
end

