-- ==== Sys2Proof/Machine/Matrix.lean ====
section
/-! DEFINITION. The work queue (5.3), the withdrawal of claims and the settling of rows (R105, R108), and parking
(R107). -/

namespace Sys2Proof.Machine

/-- Who asks for an operation (R109). -/
inductive Requester where
  | claim (q : Req) | exercise | command
  deriving DecidableEq, Repr

def Dir.opposite : Dir → Dir
  | .close => .openIt
  | .openIt => .close

/-- The position a move is commanded to. -/
def Dir.position : Dir → Pos
  | .close => .closed
  | .openIt => .opened

/-- The position of a crosspoint whose move is in flight. -/
def Dir.moving : Dir → Pos
  | .close => .movingClosed
  | .openIt => .movingOpen

/-- The earliest deadline of an entry's requesters; none for COMMAND and EXERCISE alone (R105, R109), nor for an operation
left in flight by its requesters, for which neither rule gives a deadline (log 72, DESIGN CHOICE). -/
def QEntry.deadline (n : QEntry) : Option Nat := (n.reqs.map Req.deadline).min?
/-- The lowest transmitter number of an entry's requesters (R112). -/
def QEntry.lowest (n : QEntry) : Nat := ((n.reqs.map fun q => q.tx.val).min?).getD 16
/-- A transmitter is among an entry's requesters. -/
def QEntry.asks (n : QEntry) (t : Tx) : Bool := n.reqs.any fun q => q.tx == t
/-- An entry still has a requester. -/
def QEntry.wanted (n : QEntry) : Bool := !n.reqs.isEmpty || n.exercise || n.commands != 0

/-- A requester attaches to an entry (R105). A claim's close ends the open that was to follow a yielded close of the
same column: the closed crosspoint then serves the claim (R192). -/
def QEntry.attach (n : QEntry) : Requester → QEntry
  | .claim q =>
    { n with
      reqs := n.reqs.filter (fun x => x.tx != q.tx) ++ [q]
      followOpen := if n.dir = .close ∧ n.xp.tx = q.tx then none else n.followOpen }
  | .exercise => { n with exercise := true }
  | .command => { n with commands := n.commands + 1 }

/-- The entry toward a position of a crosspoint. -/
def Hall.entry (h : Hall) (x : Xp) (d : Dir) : Option QEntry := h.queue.find? fun n => n.xp == x && n.dir == d
/-- A crosspoint has an operation queued or in flight. -/
def Hall.busyXp (h : Hall) (x : Xp) : Bool := h.queue.any fun n => n.xp == x
/-- The operation in flight. -/
def Hall.flying (h : Hall) : Option QEntry := h.queue.find? fun n => n.inFlight
/-- The count of commanded moves outstanding (R118). -/
def Hall.commanded (h : Hall) : Nat := (h.queue.map QEntry.commands).sum
/-- An entry changed, known by its arrival. -/
def Hall.modEntry (h : Hall) (arrival : Nat) (f : QEntry → QEntry) : Hall :=
  { h with queue := h.queue.map fun n => if n.arrival = arrival then f n else n }
/-- An entry leaves the queue. -/
def Hall.dropEntry (h : Hall) (arrival : Nat) : Hall := { h with queue := h.queue.filter fun n => n.arrival != arrival }

/-- A new entry joins the queue (R109). -/
def joinQueue (x : Xp) (d : Dir) (who : Requester) (h : Hall) : Hall :=
  let n : QEntry :=
    { xp := x, dir := d, reqs := [], exercise := false, commands := 0, arrival := h.arrivals, inFlight := false,
      timeoutAt := 0, followOpen := none }
  { h with queue := h.queue ++ [n.attach who], arrivals := h.arrivals + 1 }

/-- An operation is requested: it attaches to one toward the same position, is held in the claim behind one toward the
opposite position, or joins the queue (R105). -/
def queueOp (x : Xp) (d : Dir) (who : Requester) (h : Hall) : Hall :=
  match h.entry x d, h.entry x d.opposite, who with
  | some n, _, _ => h.modEntry n.arrival fun m => m.attach who
  | none, some _, .claim q =>
    match h.claims.get q.tx with
    | some c => h.setClaim q.tx (some { c with deferred := c.deferred ++ [⟨x, d⟩] })
    | none => joinQueue x d who h
  | none, some _, .exercise => joinQueue x d who h
  | none, some _, .command => joinQueue x d who h
  | none, none, _ => joinQueue x d who h

/-! The interlock and eligibility (R110). -/

/-- The interlock of a close: every other crosspoint of its row and column is OPEN. -/
def Hall.interlockOk (h : Hall) (x : Xp) : Bool := (otherXps x).all h.isOpen

/-- The conditions of R110 other than the interlock. -/
def rfEligible (e : Env) (h : Hall) (x : Xp) : Bool := !(h.gates.get x.tx).line && rfOff e h x.tx

/-- A queued entry is eligible (R110). -/
def eligible (e : Env) (h : Hall) (n : QEntry) : Bool :=
  !n.inFlight && rfEligible e h n.xp && (n.dir == .openIt || h.interlockOk n.xp)

/-- A close that is not eligible for the interlock alone (R110). -/
def heldClose (e : Env) (h : Hall) (n : QEntry) : Bool :=
  !n.inFlight && n.dir == .close && rfEligible e h n.xp && !h.interlockOk n.xp

/-- An open of a crosspoint is pending: queued or in flight (R110), or the one that R191 and R192 have follow a yielded
close in flight (log 22, DESIGN CHOICE). An open that R105 only holds in a claim is not in the queue and does not count. -/
def Hall.openPending (h : Hall) (x : Xp) : Bool :=
  h.queue.any fun n => n.xp == x && (n.dir == .openIt || n.followOpen.isSome)

/-- A held close fails with INTERLOCK: some crosspoint that blocks it has no open pending (R110), at whatever event finds
it so (log 77, DESIGN CHOICE). -/
def interlockFails (e : Env) (h : Hall) (n : QEntry) : Bool :=
  heldClose e h n && (otherXps n.xp).any fun x => !h.isOpen x && !h.openPending x

/-! Settling a row (R108). -/

/-- A row is held by a live claim (R100). -/
def Hall.heldByClaim (h : Hall) (r : Row) : Bool :=
  match h.res r with
  | .claimed t | .connected t => (h.claims.get t).any fun c => c.row == r
  | .free | .parked _ | .releasing | .exercise => false

/-- The reservation a settled row takes from its operations and positions (R108). -/
def settledAs (h : Hall) (r : Row) : Reservation :=
  let ops := h.queue.filter fun n => n.xp.row == r
  let nonOpen := (rowXps r).filter fun x => !h.isOpen x
  if ops.any fun n => n.dir == .openIt then .releasing
  else if ops.any fun n => n.dir == .close && n.inFlight then h.res r
  else
    match nonOpen with
    | [x] =>
      if (allFin 26).any fun q => q != r && (h.res q == .connected x.tx || h.res q == .parked x.tx) then .free
      else .parked x.tx
    | _ => .free

/-- A row in this reservation is handed on to its waiting list (R106). -/
def Reservation.handsOn : Reservation → Bool
  | .free | .releasing | .parked _ => true
  | .claimed _ | .connected _ | .exercise => false

/-- A row that has become FREE, RELEASING or PARKED is reported to its waiting list (R106); it is handed on before any
other claim proceeds (`claim`, log 5). -/
def reportRow (r : Row) (h : Hall) : Hall :=
  if (h.res r).handsOn ∧ !(h.rows.get r).waiting.isEmpty then h.report (.handOn r) else h

/-- A row held by no live claim and not EXERCISE is settled (R108). -/
def settleRow (r : Row) (h : Hall) : Hall :=
  if h.heldByClaim r || h.res r == .exercise then h
  else reportRow r (h.setRes r (settledAs h r))

/-! Withdrawing (R108). -/

/-- The claim that takes over an open which another requester gives up: that of the held close with the open's
crosspoint in its row or column, the earliest deadline first, then the lower transmitter (R108). -/
def inheritor (e : Env) (h : Hall) (t : Tx) (x : Xp) : Option Req :=
  let held := h.queue.filter fun n =>
    heldClose e h n && (n.xp.row == x.row || n.xp.tx == x.tx) && n.xp != x
  let reqs := (held.flatMap QEntry.reqs).filter fun q => q.tx != t && (h.claims.get q.tx).isSome
  (sortBy (fun a b => a.deadline < b.deadline || (a.deadline == b.deadline && a.tx ≤ b.tx)) reqs).head?

/-- One entry of the queue when transmitter `t` gives up what it asked for. -/
def withdrawEntry (e : Env) (t : Tx) (h : Hall) (n : QEntry) : Hall :=
  let reqs := n.reqs.filter fun q => q.tx != t
  let follow := match n.followOpen with
    | some q => if q.tx = t then inheritor e h t n.xp else some q
    | none => none
  let m := { n with reqs := reqs, followOpen := follow }
  if n.inFlight || m.wanted then h.modEntry n.arrival fun _ => m
  else
    match n.dir, inheritor e h t n.xp with
    | .openIt, some q => h.modEntry n.arrival fun _ => { m with reqs := [q] }
    | .openIt, none => (h.dropEntry n.arrival).setLast n.xp .withdrawn
    | .close, _ => (h.dropEntry n.arrival).setLast n.xp .withdrawn

/-- An entry concerns a transmitter that withdraws. -/
def QEntry.concerns (n : QEntry) (t : Tx) : Bool := n.asks t || n.followOpen.any fun q => q.tx == t

/-- The operations a transmitter asked for are withdrawn and the rows they were of are settled. -/
def withdrawOps (e : Env) (t : Tx) (h : Hall) : Hall :=
  let mine := h.queue.filter fun n => n.concerns t
  let h := mine.foldl (withdrawEntry e t) h
  mine.foldl (fun h n => settleRow n.xp.row h) h

/-- A claim is withdrawn (R108): it leaves its waiting list, its operations are withdrawn, and the rows it held and its
former rows are settled. -/
def withdrawClaim (e : Env) (t : Tx) (h : Hall) : Hall :=
  match h.claims.get t with
  | none => withdrawOps e t h
  | some c =>
    let h := h.setWaiting c.row ((h.rows.get c.row).waiting.filter fun q => q.tx != t)
    let h := withdrawOps e t (h.setClaim t none)
    let h := h.modCtx t fun x => { x with claimWaiting := false }
    c.formers.foldl (fun h r => settleRow r h) (settleRow c.row h)

/-- A context that has finished with a row asks for it to be parked (R107). A row not CONNECTED to it is not changed. -/
def park (t : Tx) (h : Hall) : Hall :=
  match (allFin 26).find? (fun r => h.res r == .connected t) with
  | some r => reportRow r ((h.setRes r (.parked t)).setClaim t none)
  | none => h

/-- A claim that has failed is withdrawn and its context told (R111). -/
def failClaim (e : Env) (t : Tx) (h : Hall) : Hall :=
  if (h.claims.get t).isSome then (withdrawClaim e t h).report (.pathFailed t) else withdrawOps e t h

end Sys2Proof.Machine
end

