-- ==== Sys2Proof/Machine/Exercise.lean ====
section
/-! DEFINITION. The exercise unit (Chapter 9): selection, progress, failure, yielding, and the sweep. -/

namespace Sys2Proof.Machine

/-- The crosspoint of a place in row-major order, columns first (R121, R194). -/
def xpAt (i : Fin 416) : Xp :=
  ⟨⟨i.val % 16, Nat.mod_lt _ (by decide)⟩,
   ⟨i.val / 16, Nat.div_lt_of_lt_mul (Nat.lt_of_lt_of_eq i.isLt (by decide))⟩⟩
/-- The place that follows in row-major order, none after (T15, 25). -/
def nextPlace (i : Fin 416) : Option (Fin 416) := below 416 (i.val + 1)

/-- Every other crosspoint of the row and column of `x` is OPEN and none has an operation queued or in flight (R188,
R194). -/
def neighboursClear (h : Hall) (x : Xp) : Bool :=
  (otherXps x).all fun y => h.isOpen y && !h.busyXp y

/-- A crosspoint qualifies for a sweep (R194). It may have an operation of its own queued. -/
def exercisable (e : Env) (h : Hall) (x : Xp) : Bool :=
  h.isOpen x && !(h.xp x).stuck && h.res x.row == .free && !h.rowBlocked x.row && !h.stray.get x.row &&
  !e.pins.rf.get x.row && !h.columnBlocked x.tx && neighboursClear h x && rfOff e h x.tx

/-- A candidate of auto exercise at the minute boundary `m` (R188): it has no operation of its own either. -/
def candidate (m : Nat) (e : Env) (h : Hall) (x : Xp) : Bool :=
  e.tables.interval * 60 ≤ (h.ages.get x.row).get x.tx && exercisable e h x && !h.busyXp x &&
  (h.connection x.tx).isNone &&
  (h.ctx.get x.tx).state == .idle &&
  e.due.all fun d => d.tx != x.tx || m + 600 < d.beginAt

/-- The age of a crosspoint. -/
def Hall.age (h : Hall) (x : Xp) : Nat := (h.ages.get x.row).get x.tx
/-- The age of a crosspoint set to 0 (R185). -/
def resetAge (x : Xp) (h : Hall) : Hall := { h with ages := h.ages.modify x.row fun w => w.set x.tx 0 }
/-- Every age rises by one, saturating (R185). -/
def ageAll (h : Hall) : Hall := { h with ages := h.ages.map fun w => w.map fun a => min 65535 (a + 1) }

/-- An exercise begins: the row becomes EXERCISE and its close is queued (R188, R194). -/
def beginExercise (o : ExOrigin) (x : Xp) (h : Hall) : Hall :=
  queueOp x .close .exercise
    { h.setRes x.row .exercise with exercise := { h.exercise with phase := .closing, xp := x, origin := o } }

/-- Auto exercise looks for a crosspoint at the minute boundary `m`: the greatest age, then the lowest row, then the lowest
column (R188). -/
def selectExercise (m : Nat) (e : Env) (h : Hall) : Hall :=
  if e.mode = .run ∧ 0 < e.tables.interval ∧ h.exercise.phase = .idle then
    let cands := ((allFin 416).map xpAt).filter fun x => candidate m e h x
    match cands.foldl (fun best x =>
      match best with
      | none => some x
      | some b => if h.age b < h.age x then some x else some b) none with
    | some x => beginExercise .auto x h
    | none => h
  else h

/-! The sweep (9.5). -/

/-- The sweep ends with a result; SWEEP_DONE is raised (R194, R195). -/
def endSweep (r : SweepResult) (h : Hall) : Hall :=
  raiseNotice .sweepDone { h with sweep := { h.sweep with state := .idle, next := none, result := r } }

/-- The sweep reaches its next crosspoints until one qualifies; those before it are skipped (R194). -/
def sweepReach (e : Env) (h : Hall) : Hall :=
  match h.sweep.next with
  | none => endSweep .complete h
  | some i =>
    match ((allFin 416).drop i.val).find? fun j => exercisable e h (xpAt j) with
    | some j =>
      beginExercise .sweep (xpAt j)
        { h with sweep := { h.sweep with next := nextPlace j, skipped := h.sweep.skipped + (j.val - i.val) } }
    | none => endSweep .complete { h with sweep := { h.sweep with skipped := h.sweep.skipped + (416 - i.val) } }

/-- A sweep counts the result of an exercise (R194); YIELDED has no count (log 60, DESIGN CHOICE). -/
def Sweep.count (r : ExResult) (w : Sweep) : Sweep :=
  match r with
  | .done => { w with exercised := w.exercised + 1 }
  | .stuck => { w with newlyStuck := w.newlyStuck + 1 }
  | .failed _ => { w with skipped := w.skipped + 1 }
  | .yielded => w

/-- An exercise ends: the phase becomes IDLE and the last exercise is written (R189 to R192). -/
def writeExercise (r : ExResult) (h : Hall) : Hall :=
  { h with exercise :=
      { h.exercise with phase := .idle, last := some ⟨h.exercise.xp, h.exercise.origin, r⟩ } }

/-- An exercise ends, and the sweep it belongs to counts it and goes on (R194, R195). -/
def endExercise (e : Env) (r : ExResult) (h : Hall) : Hall :=
  let h' := writeExercise r h
  match h.exercise.origin with
  | .auto => h'
  | .sweep =>
    let h' := { h' with sweep := h'.sweep.count r }
    match h.sweep.state with
    | .running => sweepReach e h'
    | .stopping => endSweep .stopped h'
    | .idle => h'

/-- The row of an exercise is released and settled (R190, R192). -/
def releaseExerciseRow (h : Hall) : Hall := settleRow h.exercise.xp.row (h.setRes h.exercise.xp.row .free)

/-- An exercise entry has failed (R190). -/
def exerciseFailed (e : Env) (r : XpResult) (h : Hall) : Hall :=
  let result := match r with
    | .fault | .timeout | .hotSwitch => ExResult.stuck
    | .none | .done | .interlock | .blocked | .stray | .rfPresent | .mode | .withdrawn => ExResult.failed r
  endExercise e result (releaseExerciseRow h)

/-- A close of the exercise has been confirmed (R189); in STOP no open can follow (R196). -/
def exerciseClosed (e : Env) (h : Hall) : Hall :=
  if e.mode = .stop then exerciseFailed e .mode h
  else queueOp h.exercise.xp .openIt .exercise { h with exercise := { h.exercise with phase := .opening } }

/-- An open of the exercise has been confirmed (R189). -/
def exerciseOpened (e : Env) (h : Hall) : Hall :=
  let r := h.exercise.xp.row
  endExercise e .done (reportRow r (h.setRes r .free))

/-! Yielding (9.4). -/

/-- The exercise's operation passes to a claimant by the table of R191. -/
def yieldOp (q : Req) (h : Hall) : Hall :=
  match h.queue.find? fun n => n.exercise with
  | none => h
  | some n =>
    let m := { n with exercise := false }
    match n.dir with
    | .openIt => h.modEntry n.arrival fun _ => m.attach (.claim q)
    | .close =>
      if n.inFlight then h.modEntry n.arrival fun _ => { m with followOpen := some q }
      else if m.wanted then h.modEntry n.arrival fun _ => m
      else (h.dropEntry n.arrival).setLast n.xp .withdrawn

/-- The exercise yields the row to a claim (R191). One left by a sweep that STOP has aborted is counted in none of the
sweep's counts (log 60, DESIGN CHOICE). -/
def yieldRow (q : Req) (h : Hall) : Hall := writeExercise .yielded (yieldOp q h)

/-- An exercise on the column of a context that takes something yields the column (R192). -/
def yieldColumn (q : Req) (h : Hall) : Hall :=
  if h.exercise.phase ≠ .idle ∧ h.exercise.xp.tx = q.tx then
    writeExercise .yielded (releaseExerciseRow (yieldOp q h))
  else h

end Sys2Proof.Machine
end

