-- ==== Sys2Proof/Machine/Drive.lean ====
section
/-! DEFINITION. Claims (5.2), failing entries (R111), the drive link and the ends of moves (5.4), STUCK (R116), and the
position survey (5.7). -/

namespace Sys2Proof.Machine

/-! Claims (R104 to R106). -/

/-- The context is told "granted" (R104): the claim is granted and its waiting ends. -/
def tellGranted (t : Tx) (h : Hall) : Hall :=
  let h := match h.claims.get t with
    | some c => h.setClaim t (some { c with status := .granted })
    | none => h
  h.modCtx t fun c => { c with claimWaiting := false }

/-- The context is told "connected" (R76, R107): path becomes DONE. -/
def tellConnected (t : Tx) (h : Hall) : Hall :=
  let h := match h.claims.get t with
    | some c => h.setClaim t (some { c with status := .connected })
    | none => h
  h.modCtx t fun c =>
    { c with claimWaiting := false
             path := if c.state = .preparing ∧ c.path = .pending then .done else c.path }

/-- The context is told "waiting" (R76). -/
def tellWaiting (t : Tx) (h : Hall) : Hall := h.modCtx t fun c => { c with claimWaiting := true }

/-- A row is a former row of a transmitter that claims `row` (R105). -/
def isFormer (t : Tx) (row : Row) (h : Hall) (r : Row) : Bool :=
  r != row && (h.res r == .connected t || h.res r == .parked t)

/-- The claimant's former rows become RELEASING and their opens are queued (R105). -/
def releaseFormers (q : Req) (row : Row) (h : Hall) : Hall :=
  let formers := (allFin 26).filter (isFormer q.tx row h)
  let h := match h.claims.get q.tx with
    | some c => h.setClaim q.tx (some { c with formers := c.formers ++ formers })
    | none => h
  formers.foldl (fun h r => reportRow r (queueOp ⟨q.tx, r⟩ .openIt (.claim q) (h.setRes r .releasing))) h

/-- The row becomes CLAIMED, the close of its crosspoint is queued, and the context is told (R104). -/
def grant (q : Req) (row : Row) (h : Hall) : Hall :=
  tellGranted q.tx (queueOp ⟨q.tx, row⟩ .close (.claim q) (h.setRes row (.claimed q.tx)))

/-- The row becomes CONNECTED and the context is told (R104). -/
def connect (q : Req) (row : Row) (h : Hall) : Hall := tellConnected q.tx (h.setRes row (.connected q.tx))

/-- The pending opens of a RELEASING row are attributed to a claim, in place of the transmitters that asked (R104). -/
def inheritOpens (q : Req) (row : Row) (h : Hall) : Hall :=
  { h with queue := h.queue.map fun n =>
      if n.xp.row = row ∧ n.dir = .openIt then { n with reqs := [q], exercise := false } else n }

/-- A claim on a RELEASING row (R104): its own open is withdrawn if it has not started. -/
def takeReleasing (q : Req) (row : Row) (h : Hall) : Hall :=
  match h.entry ⟨q.tx, row⟩ .openIt with
  | some n =>
    if n.inFlight then grant q row h
    else connect q row ((h.dropEntry n.arrival).setLast n.xp .withdrawn)
  | none => grant q row (inheritOpens q row h)

/-- A claim joins the waiting list of a row (R104, R106). -/
def joinWaiting (q : Req) (row : Row) (h : Hall) : Hall :=
  tellWaiting q.tx (h.setWaiting row (((h.rows.get row).waiting.filter fun x => x.tx != q.tx) ++ [q]))

/-- The exercise in progress is on this row. Its reservation is then EXERCISE (R187), unless a survey that ended meanwhile
has built it anew from the positions (R122, log 26, DEDUCED). -/
def Hall.exercised (h : Hall) (row : Row) : Bool := h.exercise.phase != .idle && h.exercise.xp.row == row

/-- A claim proceeds by the row's reservation (R104), its former rows first (R105), and an exercise on the row yields it
(R191). A row still CLAIMED for the same transmitter by a close it has in flight is granted. -/
def proceed (q : Req) (row : Row) (h : Hall) : Hall :=
  let h := releaseFormers q row h
  let h := if h.res row = .exercise ∨ h.exercised row then yieldRow q h else h
  match h.res row with
  | .free => grant q row h
  | .parked u =>
    if u = q.tx then connect q row h else grant q row (queueOp ⟨u, row⟩ .openIt (.claim q) h)
  | .releasing => takeReleasing q row h
  | .claimed u => if u = q.tx then grant q row h else joinWaiting q row h
  | .connected u => if u = q.tx then connect q row h else joinWaiting q row h
  | .exercise => grant q row h

/-- A claim on a row fails at once: BLOCKED or STRAY (R104). -/
def claimBarred (h : Hall) (t : Tx) (row : Row) : Bool := h.rowBlocked row || h.stray.get row || h.columnBlocked t

/-- The claim of a waiting list that takes the row: the earliest deadline, then the lower transmitter (R106). -/
def firstWaiting (h : Hall) (r : Row) : Option Req :=
  (sortBy (fun a b => a.deadline < b.deadline || (a.deadline == b.deadline && a.tx ≤ b.tx)) (h.rows.get r).waiting).head?

/-- A row is handed on (R106). -/
def handRowOn (r : Row) (h : Hall) : Hall :=
  if (h.res r).handsOn then
    match firstWaiting h r with
    | some q => proceed q r (h.setWaiting r ((h.rows.get r).waiting.filter fun x => x.tx != q.tx))
    | none => h
  else h

/-- The row that a report hands on. -/
def Msg.handedRow : Msg → Option Row
  | .handOn r => some r
  | .pathFailed _ | .posFailed _ => none

/-- Every row that is reported to its waiting list is handed on, but for those that go on `later`, at most `fuel` of them
(R106). -/
def handRowsOn (later : Hall → Row → Bool) : Nat → Hall → Hall
  | 0, h => h
  | n + 1, h =>
    match (h.work.filterMap Msg.handedRow).find? fun r => !later h r with
    | some r => handRowsOn later n (handRowOn r { h with work := h.work.erase (.handOn r) })
    | none => h

/-- A context claims a row (R103, R104). An earlier live claim on another row is withdrawn first. A row that has become
FREE, RELEASING or PARKED went to its waiting list at that moment (R106, R107): what is still to be handed on is handed on
before the claim proceeds, but for the claimant's former rows, which go when they are RELEASING (R105, 5.5). -/
def claim (e : Env) (q : Req) (row : Row) (h : Hall) : Hall :=
  let h := handRowsOn (fun _ _ => false) Config.settleBound h
  let h := match h.claims.get q.tx with
    | some c => if c.row = row ∧ h.res row = .connected q.tx then h else withdrawClaim e q.tx h
    | none => h
  let h := handRowsOn (isFormer q.tx row) Config.settleBound h
  if claimBarred h q.tx row then h.report (.pathFailed q.tx)
  else
    proceed q row
      (h.setClaim q.tx (some { row := row, deadline := q.deadline, status := .waiting, formers := [], deferred := [] }))

/-- Requests that claims hold behind an operation that has ended are queued now (R105). -/
def flushDeferred (t : Tx) (h : Hall) : Hall :=
  match h.claims.get t with
  | none => h
  | some c =>
    let ready := c.deferred.filter fun d => (h.entry d.xp d.dir.opposite).isNone
    let h := h.setClaim t (some { c with deferred := c.deferred.filter fun d =>
      (h.entry d.xp d.dir.opposite).isSome })
    ready.foldl (fun h d => queueOp d.xp d.dir (.claim ⟨t, c.deadline⟩) h) h

/-- A claim has a held request whose first operation has ended. -/
def deferredReady (h : Hall) (t : Tx) : Bool :=
  (h.claims.get t).any fun c => c.deferred.any fun d => (h.entry d.xp d.dir.opposite).isNone

/-! Failing entries and STUCK (R111, R116). -/

/-- One requester of a failed operation: its claim fails and, but for MODE, its path sub-task with it (R111). -/
def failRequester (e : Env) (reason : XpResult) (h : Hall) (q : Req) : Hall :=
  if reason = .mode then withdrawClaim e q.tx h else failClaim e q.tx h

/-- The entries `gone` fail together (R111): they leave the queue and their last results take the reason before any
requester is told, so that none of them is withdrawn; then the requesters and the exercise unit are told, and the rows no
claim holds are settled. -/
def failEntries (e : Env) (reason : XpResult) (gone : List QEntry) (h : Hall) : Hall :=
  let h := gone.foldl (fun h n => (h.dropEntry n.arrival).setLast n.xp reason) h
  let h := gone.foldl (fun h n => n.reqs.foldl (failRequester e reason) h) h
  let h := if gone.any QEntry.exercise then exerciseFailed e reason h else h
  gone.foldl (fun h n => settleRow n.xp.row h) h

/-- One entry fails (R111). -/
def failEntry (e : Env) (reason : XpResult) (n : QEntry) (h : Hall) : Hall := failEntries e reason [n] h

/-- The claims that wait on a row or, when a column is given, wait for the column's transmitter, or hold a request in
either. That a request which a claim only holds (R105) fails with the queued entries that R116 and R180 name is the
model's choice (log 62, DESIGN CHOICE). -/
def claimsCaught (h : Hall) (r : Row) (t : Option Tx) : List Tx :=
  (allFin 16).filter fun u => (h.claims.get u).any fun c =>
    (c.status == .waiting && (c.row == r || t == some u)) ||
    c.deferred.any fun d => d.xp.row == r || t == some d.xp.tx

/-- A crosspoint is made STUCK in the position it has (R116). -/
def makeStuck (e : Env) (x : Xp) (h : Hall) : Hall :=
  let h := raiseNotice .stuck (h.modXp x fun w => { w with stuck := true })
  let h := failEntries e .blocked (h.queue.filter fun n => !n.inFlight && (n.xp.row == x.row || n.xp.tx == x.tx)) h
  (claimsCaught h x.row (some x.tx)).foldl (fun h t => failClaim e t h) h

/-- The queued entries of a row and its waiting claims fail with STRAY (R106, R111, R180). -/
def strayRow (e : Env) (r : Row) (h : Hall) : Hall :=
  let h := failEntries e .stray (h.queue.filter fun n => !n.inFlight && n.xp.row == r) h
  (claimsCaught h r none).foldl (fun h t => failClaim e t h) h

/-! The ends of moves (R114, R115). -/

/-- A move fails with FAULT or TIMEOUT (R115). -/
def failMove (e : Env) (reason : XpResult) (n : QEntry) (h : Hall) : Hall :=
  failEntry e reason n (makeStuck e n.xp (h.setPos n.xp .unknown))

/-- A confirmed move during which RF was seen (R114, R182). -/
def hotSwitch (e : Env) (n : QEntry) (h : Hall) : Hall :=
  failEntry e .hotSwitch n (raiseNotice .hotSwitch (makeStuck e n.xp h))

/-- A confirmed close of a row CLAIMED by the live claim of its column connects it (R107). -/
def connectClosed (n : QEntry) (h : Hall) : Hall :=
  match n.dir, h.claims.get n.xp.tx with
  | .close, some c =>
    if c.row = n.xp.row ∧ h.res n.xp.row = .claimed n.xp.tx then
      tellConnected n.xp.tx (h.setRes n.xp.row (.connected n.xp.tx))
    else h
  | _, _ => h

/-- The exercise is told of its confirmed move (R189). -/
def exerciseConfirmed (e : Env) (n : QEntry) (h : Hall) : Hall :=
  if n.exercise then
    match n.dir with
    | .close => exerciseClosed e h
    | .openIt => exerciseOpened e h
  else h

/-- A confirmed move ends DONE (R114). Its row is settled at once in a survey too, where R121 has rows keep their
reservations (log 54, DESIGN CHOICE). The open that follows a yielded close joins the queue (R191). -/
def doneMove (e : Env) (n : QEntry) (h : Hall) : Hall :=
  let h := (h.dropEntry n.arrival).setLast n.xp .done
  let h := connectClosed n h
  let h := match n.followOpen with
    | some q => queueOp n.xp .openIt (.claim q) h
    | none => h
  settleRow n.xp.row (exerciseConfirmed e n h)

/-- The move in flight is confirmed at its commanded position (R114). -/
def confirmMove (e : Env) (n : QEntry) (h : Hall) : Hall :=
  let hot := (h.xp n.xp).rfSeen
  let h := resetAge n.xp (h.setPos n.xp n.dir.position)
  if hot then hotSwitch e n h else doneMove e n h

/-! The pick (R112, R113). -/

/-- The order of the pick among eligible entries (R112). -/
def picksBefore (a b : QEntry) : Bool :=
  let rank (n : QEntry) : Nat := if n.reqs.isEmpty then if n.commands = 0 then 2 else 1 else 0
  let due (n : QEntry) : Nat := n.deadline.getD 0
  let opens (n : QEntry) : Nat := if rank n = 0 ∧ n.dir = .close then 1 else 0
  let low (n : QEntry) : Nat := if rank n = 0 then n.lowest else 0
  if rank a ≠ rank b then rank a < rank b
  else if due a ≠ due b then due a < due b
  else if low a ≠ low b then low a < low b
  else if opens a ≠ opens b then opens a < opens b
  else a.arrival ≤ b.arrival

/-- The entry that is picked (R112). -/
def pickEntry (e : Env) (h : Hall) : Option QEntry :=
  (h.queue.filter (eligible e h)).foldl (fun best n =>
    match best with
    | none => some n
    | some b => if picksBefore b n then some b else some n) none

/-- The drive link is free to send (R112, R121, R124): nothing in flight, and the link not silent. -/
def driveFree (e : Env) (h : Hall) : Bool := h.flying.isNone && h.reading.isNone && !e.linksSilent

/-- A drive request frame (R217). -/
def driveFrame (x : Xp) (action : Nat) : List Byte := withCheck (b1 x.tx.val ++ b1 x.row.val ++ b1 action)

/-- A picked move is sent (R113). -/
def sendMove (e : Env) (n : QEntry) (h : Hall) : Hall :=
  let h := h.modXp n.xp fun w => { w with pos := n.dir.moving, rfSeen := false }
  let h := h.modEntry n.arrival fun m =>
    { m with inFlight := true, timeoutAt := e.elapsed + e.tables.travelTimeout * 1000 }
  { h with driveSent := driveFrame n.xp n.dir.code }

/-- The picked entry fails with RF_PRESENT or is sent (R113). -/
def servePick (e : Env) (n : QEntry) (h : Hall) : Hall :=
  if e.pins.rf.get n.xp.row then failEntry e .rfPresent n h else sendMove e n h

/-! The survey (R121, R122). -/

/-- The next survey read may be sent. -/
def readReady (e : Env) (h : Hall) : Bool := e.mode == .survey && h.surveyNext.isSome && driveFree e h

/-- The next survey read is sent (R121). -/
def sendRead (e : Env) (h : Hall) : Hall :=
  match h.surveyNext with
  | none => h
  | some i =>
    { h with reading := some ⟨xpAt i, e.elapsed + 1000⟩, surveyNext := nextPlace i,
             driveSent := driveFrame (xpAt i) 3 }

/-- A survey read has ended with a position, or with MID (R121). -/
def applyRead (e : Env) (x : Xp) (p : Option Pos) (h : Hall) : Hall :=
  let h := { h with reading := none }
  match p with
  | some p => h.setPos x p
  | none => makeStuck e x (h.setPos x .unknown)

/-- The crosspoints of a list that are CLOSED. -/
def Hall.closedOf (h : Hall) (l : List Xp) : List Xp := l.filter fun x => (h.xp x).pos == .closed

/-- Every crosspoint that stands CLOSED beside another of its row or column (R122). -/
def crowded (h : Hall) : List Xp :=
  ((allFin 416).map xpAt).filter fun x =>
    (h.xp x).pos == .closed && (otherXps x).any fun y => (h.xp y).pos == .closed

/-- The reservation a row has after the survey (R122): that of every row is built anew from the positions, also the row of
an exercise that is still under way (log 26, DEDUCED). -/
def surveyedAs (h : Hall) (r : Row) : Reservation :=
  match h.closedOf (rowXps r) with
  | [x] => if (h.closedOf (columnXps x.tx)).length = 1 then .parked x.tx else .free
  | _ => .free

/-- The survey builds the matrix from the positions it has read (R122). -/
def endSurvey (e : Env) (h : Hall) : Hall :=
  let h := (crowded h).foldl (fun h x => makeStuck e x h) h
  let h := { h with rows := Tab.build 26 fun r => { res := surveyedAs h r, waiting := [] } }
  raiseNotice .surveyDone h

end Sys2Proof.Machine
end

