-- ==== Sys2Proof/Machine/Positioners.lean ====
section
/-! DEFINITION. The positioner controller (6.4 to 6.8): requests, polls, replies, failures and the actions on the mode. -/

namespace Sys2Proof.Machine

def Hall.modPos (h : Hall) (a : Ant) (f : PosRec → PosRec) : Hall := { h with pos := h.pos.modify a f }

/-- An antenna has a positioner: it is configured SLEW or ROTATABLE (R132). -/
def Env.steers (e : Env) (a : Ant) : Bool :=
  match (e.tables.ant.get a).map AntCfg.kind with
  | some (.slew _ _ _ _) | some (.rotatable _ _ _) => true
  | some (.fixed _ _) | none => false

/-- The record of an antenna that has just been configured, and after a hall reset (R143). -/
def freshPos (cfg : Option AntCfg) : PosRec :=
  match cfg.map AntCfg.kind with
  | some (.fixed b _) => { PosRec.unknown with state := .idle, azimuth := some b, tilt := some 0 }
  | some (.slew _ _ _ _) | some (.rotatable _ _ _) | none => PosRec.unknown

/-- The target azimuth made concrete (R134): boresight for SLEW, the last reported azimuth for ROTATABLE. -/
def concrete (c : AntCfg) (p : PosRec) (azimuth : Option Nat) : Option Nat :=
  match azimuth, c.kind with
  | some z, _ => some z
  | none, .slew b _ _ _ => some b
  | none, .fixed b _ => some b
  | none, .rotatable _ _ _ => p.azimuth

/-- A requester is told DONE (R136): its position sub-task becomes DONE. -/
def tellPosDone (t : Tx) (h : Hall) : Hall :=
  h.modCtx t fun c =>
    { c with position := if c.state = .preparing ∧ c.position = .pending then .done else c.position }

/-- The request fails at once: it is no longer stored, and its requester is told (R134). -/
def refuseRequest (a : Ant) (q : PosRequest) (h : Hall) : Hall :=
  (h.modPos a fun p => { p with request := none }).report (.posFailed q.tx)

/-- An azimuth is the stop of a ROTATABLE antenna, which no GO commands (R135). -/
def AntCfg.isStop (c : AntCfg) (azimuth : Option Nat) : Bool :=
  match c.kind with
  | .rotatable s _ _ => azimuth == some s
  | .fixed _ _ | .slew _ _ _ _ => false

/-- A request whose target is reached is taken by the state of the positioner (R134). An absent azimuth becomes concrete
in a state with a known position. One that becomes the stop while the antenna is not at its target fails: no GO could
carry it (R135, log 41, DESIGN CHOICE). -/
def placeRequest (c : AntCfg) (a : Ant) (q : PosRequest) (h : Hall) : Hall :=
  let p := h.pos.get a
  let target := concrete c p q.azimuth
  match p.state with
  | .fault => refuseRequest a q h
  | .unknown => h.modPos a fun p => { p with request := some q }
  | .moving => h.modPos a fun p => { p with request := some { q with azimuth := target } }
  | .idle =>
    if atTarget c p q.azimuth q.tilt then tellPosDone q.tx (h.modPos a fun p => { p with request := none })
    else if c.isStop target then refuseRequest a q h
    else h.modPos a fun p => { p with request := some { q with azimuth := target } }

/-- The request on a positioner is taken by the table of R134. -/
def takeRequest (e : Env) (a : Ant) (q : PosRequest) (h : Hall) : Hall :=
  match e.tables.ant.get a with
  | none => refuseRequest a q h
  | some c =>
    if !c.reaches q.azimuth ∨ c.tiltCount ≤ q.tilt then refuseRequest a q h else placeRequest c a q h

/-- A stored request, whose target has been found reached, is taken again when the state has changed and no GO is in
force (R134). -/
def retakeRequest (e : Env) (a : Ant) (h : Hall) : Hall :=
  let p := h.pos.get a
  match p.request, e.tables.ant.get a with
  | none, _ => h
  | some q, none => refuseRequest a q h
  | some q, some c => if p.go.isNone then placeRequest c a q h else h

/-- A context withdraws its positioning request (R138). -/
def withdrawPosition (t : Tx) (h : Hall) : Hall :=
  { h with pos := h.pos.map fun p =>
      { p with request := p.request.filter fun q => q.tx != t
               go := p.go.map fun g => { g with tx := g.tx.filter fun x => x != t } } }

/-- The requester of a GO that failed or ended is told (R136, R137). -/
def tellGoFailed (g : GoRec) (h : Hall) : Hall :=
  match g.tx with
  | some t => h.report (.posFailed t)
  | none => h

/-- The GO in force, its timer and its request end in failure (R136). -/
def failGo (a : Ant) (h : Hall) : Hall :=
  match (h.pos.get a).go with
  | some g => tellGoFailed g (h.modPos a fun p => { p with go := none })
  | none => h

/-- A positioner becomes FAULT (R133, R136): the notice is raised, a GO in force fails, and a stored request with it. -/
def positionerFault (e : Env) (a : Ant) (h : Hall) : Hall :=
  retakeRequest e a (failGo a (raiseNotice .positionerFault (h.modPos a fun p => { p with state := .fault })))

/-! Polls (R133, R135). -/

/-- The antenna cannot be energised (R135): RF clear, and no transmitter with its line high connected to the row. -/
def goAllowed (e : Env) (h : Hall) (a : Ant) : Bool :=
  !e.pins.rf.get (antRow a) &&
  (allFin 16).all fun t => !(h.gates.get t).line || h.connection t != some (antRow a)

/-- The GO a stored request becomes (R130, R131, R135). A request whose azimuth is not known yet, or a ROTATABLE antenna
that has not reported one, waits (log 25). No GO carries the stop (R135). -/
def goOf (e : Env) (c : AntCfg) (p : PosRec) (q : PosRequest) : Option GoRec :=
  let timer := e.elapsed + (c.estimate ⟨p.azimuth, p.tilt⟩ q.azimuth q.tilt + 30) * 1000
  match c.kind, q.azimuth, p.azimuth with
  | .rotatable s _ _, some z, some now =>
    if z = s then none
    else
      some { tx := some q.tx, azimuth := z, tilt := q.tilt, turn := (turnOf s now z).1, outstanding := true,
             expiry := timer }
  | .slew _ _ _ _, some z, _ =>
    some { tx := some q.tx, azimuth := z, tilt := q.tilt, turn := .none, outstanding := true, expiry := timer }
  | _, _, _ => none

/-- The GO that rides the poll of an antenna, with the record after it (R135). -/
def goNow (e : Env) (h : Hall) (a : Ant) : Option PosRec :=
  let p := h.pos.get a
  if !goAllowed e h a then none
  else
    match p.go, p.request, e.tables.ant.get a with
    | some g, _, _ => if g.outstanding then some p else none
    | none, some q, some c =>
      if p.state = .idle then
        (goOf e c p q).map fun g => { p with state := .moving, go := some g, request := none }
      else none
    | none, _, _ => none

/-- The poll of an antenna goes out, carrying a STOP, a GO or nothing (R133, R135, R137). Where a STOP is outstanding and a
stored request meets the conditions for a GO as well, the rules give no precedence: the STOP goes out and the GO waits for
a later poll (log 78, DESIGN CHOICE). -/
def sendPosPoll (e : Env) (a : Ant) (h : Hall) : Hall :=
  let p := h.pos.get a
  if p.stopOutstanding then { h with posSent := withCheck (b1 a.val ++ b1 2) }
  else
    match goNow e h a with
    | some p' =>
      match p'.go with
      | some g =>
        { h.modPos a (fun _ => p') with
          posSent := withCheck (b1 a.val ++ b1 1 ++ b2 g.azimuth ++ b1 g.tilt ++ b1 g.turn.code) }
      | none => { h with posSent := withCheck (b1 a.val ++ b1 0) }
    | none => { h with posSent := withCheck (b1 a.val ++ b1 0) }

/-- The poll of the antenna that is next in the cycle goes out, if one is left; an antenna that has no positioner any more
is passed over (R133). -/
def nextPosPoll (e : Env) (h : Hall) : Hall :=
  match h.posPoll.filter e.steers with
  | [] => { h with posPoll := [] }
  | a :: l => sendPosPoll e a { h with posPoll := a :: l }

/-! Replies (R133, R136). -/

/-- Motion states of a positioner reply (R217). -/
inductive Motion where
  | idle | moving | fault
  deriving DecidableEq, Repr

def motionOf : Nat → Option Motion
  | 0 => some .idle | 1 => some .moving | 2 => some .fault | _ => none

/-- What a positioner reply carries (R217). -/
structure PosReply where
  ant : Ant
  motion : Motion
  azimuth : Nat
  tilt : Nat
  ack : Nat
  deriving DecidableEq, Repr

/-- An azimuth as the record takes it: 0–359, or the free value of log 9. -/
def takenAzimuth (n : Nat) : Nat := if n < 360 then n else (Config.reportedAzimuth n).val

/-- A positioner reply out of its frame; none for a bad check, address or motion state (R218). -/
def posReplyOf (l : List Byte) : Option PosReply :=
  if frameGood 7 l then
    match below 24 (byteAt l 0), motionOf (byteAt l 1) with
    | some a, some m => some ⟨a, m, takenAzimuth (wordAt l 2), byteAt l 4, byteAt l 5⟩
    | _, _ => none
  else none

/-- The poll that is out carries a STOP (R137). -/
def Hall.stopSent (h : Hall) : Bool := byteAt h.posSent 1 == 2

/-- The values of a received reply (R133): missed replies 0, the reported position, the acknowledgement. A STOP rides the
polls until it is acknowledged or a reply reports IDLE; IDLE ends it once a poll has carried it, `sent` (R136, R137). A
tilt at or above the antenna's tilt count is held as reported (log 63, DESIGN CHOICE). -/
def PosRec.report (sent : Bool) (r : PosReply) (p : PosRec) : PosRec :=
  { p with
    missed := 0
    azimuth := some r.azimuth
    tilt := some r.tilt
    go := if r.ack = 1 then p.go.map fun g => { g with outstanding := false } else p.go
    stopOutstanding := p.stopOutstanding && r.ack != 2 && !(sent && r.motion == .idle) }

/-- The GO in force stands at its target (R136). -/
def goReached (c : AntCfg) (p : PosRec) (g : GoRec) : Bool := atTarget c p (some g.azimuth) g.tilt

/-- A GO completes (R136). -/
def completeGo (e : Env) (a : Ant) (g : GoRec) (h : Hall) : Hall :=
  let h := h.modPos a fun p => { p with state := .idle, go := none }
  let h := match g.tx with
    | some t => tellPosDone t h
    | none => h
  retakeRequest e a h

/-- The state a reply gives with no GO in force (R133). A stored request is taken again when the state becomes IDLE or
leaves UNKNOWN (R134), or when its azimuth still had to be made concrete. So is one that was stored in IDLE when the
positioner, moved with no GO, comes to rest again (log 55, DESIGN CHOICE). -/
def plainReply (e : Env) (a : Ant) (m : Motion) (h : Hall) : Hall :=
  let p := h.pos.get a
  if p.state = .fault then h
  else
    match m with
    | .fault => positionerFault e a h
    | .moving =>
      let h := h.modPos a fun p => { p with state := .moving }
      if p.state = .unknown then retakeRequest e a h else h
    | .idle =>
      let h := h.modPos a fun p => { p with state := .idle }
      if p.state ≠ .idle ∨ (p.request.any fun q => q.azimuth.isNone) then retakeRequest e a h else h

/-- A received positioner reply is applied (R133, R136). -/
def applyPosReply (e : Env) (r : PosReply) (h : Hall) : Hall :=
  let h := h.modPos r.ant (PosRec.report h.stopSent r)
  let p := h.pos.get r.ant
  match p.go, r.motion with
  | none, m => plainReply e r.ant m h
  | some _, .fault => positionerFault e r.ant h
  | some _, .moving => h
  | some g, .idle =>
    if g.outstanding then h
    else if (e.tables.ant.get r.ant).any fun c => goReached c p g then completeGo e r.ant g h
    else positionerFault e r.ant h

/-- A missed positioner reply (R133). -/
def missPosReply (e : Env) (a : Ant) (h : Hall) : Hall :=
  let n := min 3 ((h.pos.get a).missed + 1)
  let h := h.modPos a fun p => { p with missed := n }
  if n = 3 ∧ (h.pos.get a).state ≠ .fault then positionerFault e a h else h

/-- The positioner timer runs out (R136): FAULT, and a STOP on the next poll. -/
def posTimeout (e : Env) (a : Ant) (h : Hall) : Hall :=
  positionerFault e a (h.modPos a fun p => { p with stopOutstanding := true })

/-- RF sensed on the row of a positioner that is MOVING under a GO stops it (R137). -/
def rfStop (r : Row) (h : Hall) : Hall :=
  match rowAnt r with
  | none => h
  | some a =>
    match (h.pos.get a).go with
    | some g => tellGoFailed g (h.modPos a fun p => { p with go := none, stopOutstanding := true })
    | none => h

/-! Modes (R140). -/

/-- STOP: moving positioners get a STOP, and every GO and request ends without a report. -/
def stopPositioners (h : Hall) : Hall :=
  { h with pos := h.pos.map fun p =>
      { p with stopOutstanding := p.stopOutstanding || p.state == .moving, go := none, request := none } }

/-- LOCAL: the positioners of SLEW and ROTATABLE antennas become UNKNOWN and the cycle in progress ends. -/
def localPositioners (e : Env) (h : Hall) : Hall :=
  { h with
    pos := Tab.build 24 fun a => if e.steers a then PosRec.unknown else h.pos.get a
    posPoll := [] }

end Sys2Proof.Machine
end

