-- ==== Sys2Proof/Machine/Changeovers.lean ====
section
/-! DEFINITION. The changeover contexts (Chapter 4), without trips and without what Protection decides. -/

namespace Sys2Proof.Machine

/-! Records as the contexts report to them (R21). A RETIRING record keeps its mark. -/

def Record.enter (s : RecState) (r : Record) : Record := if r.state = .retiring then r else { r with state := s }

/-- An occurrence is handed to a context: PREPARING, with the current occurrence written (R21). -/
def Record.begun (start finish : Nat) (row : Row) (r : Record) : Record :=
  { r.enter .preparing with current := some { start := start, finish := finish, row := row, late := 0 } }

/-- The resolved antenna of the current occurrence is replaced (R21). -/
def Record.reRowed (row : Row) (r : Record) : Record :=
  { r with current := r.current.map fun c => { c with row := row } }

/-- The first on-air confirmation (R21, R81). -/
def Record.onAired (late : Nat) (r : Record) : Record :=
  { r.enter .onAir with current := r.current.map fun c => { c with late := late } }

/-! Timers and small changes. -/

/-- A timer of `seconds` starts (R69). -/
def timerOf (e : Env) (k : TimerKind) (seconds : Nat) : Timer :=
  { kind := k, expiry := e.elapsed + seconds * 1000, length := seconds * 1000 }

/-- The mute timer starts (R69). -/
def muteTimer (e : Env) (t : Tx) : Timer := timerOf e .mute (e.muteTime t + 10)

/-- The outcome of the held occurrence is decided (R96); a proving run has none (R97). -/
def decideOutcome (t : Tx) (o : OccOutcome) (r : Option Reason) (ended : Nat) (h : Hall) : Hall :=
  h.modCtx t fun c =>
    if c.occ.isSome then { c with decided := some { outcome := o, reason := r, ended := ended } } else c

/-- COMPLETE, or LATE when the late seconds are above 0 (R71, R83). -/
def Context.completeOr (c : Context) : OccOutcome := if c.lateSeconds = 0 then .complete else .late

/-- The held occurrence finishes with its decided outcome (R84, R96). -/
def finishHeld (e : Env) (t : Tx) (h : Hall) : Hall :=
  let c := h.ctx.get t
  match c.occ, c.decided with
  | some o, some d => finishRecord e t o.handle (outcomeOf d o.start o.finish c.lateSeconds c.wentOnAir) h
  | _, _ => h

/-- A kept occurrence is dropped with an outcome (R85). -/
def dropKept (e : Env) (t : Tx) (o : OccOutcome) (r : Reason) (h : Hall) : Hall :=
  match (h.ctx.get t).kept with
  | none => h
  | some k =>
    (finishRecord e t k.handle { outcome := o, reason := some r, start := k.start, late := 0, early := 0 } h).modCtx t
      fun c => { c with kept := none }

/-- A proving run ends with a result (R177); a run that is not running keeps the result it has. -/
def endRun (t : Tx) (r : RunResult) (h : Hall) : Hall :=
  { h with runs := h.runs.modify t fun w => if w.running then { w with running := false, result := r } else w }

/-- A context that has finished with its path parks its row and gives up the rest (R84, R91). -/
def releasePath (e : Env) (t : Tx) (h : Hall) : Hall := withdrawClaim e t (park t h)

/-! Preparing (R73 to R77). -/

/-- The position sub-task of an occurrence on a row: NOT_NEEDED or PENDING (R77). -/
def positionNeed (e : Env) (h : Hall) (row : Row) (azimuth : Option Nat) (tilt : Nat) : SubTask :=
  match rowAnt row with
  | none => .notNeeded
  | some a =>
    match e.tables.ant.get a with
    | none => .notNeeded
    | some c =>
      match c.kind with
      | .fixed _ _ => .notNeeded
      | .slew _ _ _ _ | .rotatable _ _ _ => if atTarget c (h.pos.get a) azimuth tilt then .notNeeded else .pending

/-- The current frequency at the instant a PRESET is handed for tuning (R69). -/
def tuningFrom (h : Hall) (t : Tx) : Option Nat :=
  let l := h.links.get t
  match l.presetFreq with
  | some f => some f
  | none => l.telemetry.bind Telemetry.freq

/-- The PRESET of the tune sub-task (R74). -/
def tunePreset (h : Hall) (t : Tx) (o : Occ) : Preset :=
  { freq := o.freq, programme := o.programme, power := ((h.power.get t).requested).getD 10, number := none,
    tuning := true }

/-- The tune sub-task begins: its PRESET is handed and the tuning timer starts (R69, R74). -/
def beginTune (e : Env) (t : Tx) (o : Occ) (h : Hall) : Hall :=
  let tm := timerOf e .tuning ((e.txFigures t).tuneTime (tuningFrom h t) o.freq + 60)
  handPreset t (tunePreset h t o) (h.modCtx t fun c => { c with timer := some tm })

/-- The context enters PREPARING for what it has just taken, or for its kept occurrence (R73, R85, R97). -/
def enterPreparing (e : Env) (t : Tx) (h : Hall) : Hall :=
  match (h.ctx.get t).held with
  | .nothing => h
  | .occurrence o =>
    let need := positionNeed e h o.row o.azimuth o.tilt
    let h := h.modCtx t fun c =>
      { c with state := .preparing, tune := .pending, path := .pending, position := need, claimWaiting := false,
               tuneAttempts := 1, posAsked := false, timer := none }
    claim e ⟨t, o.start⟩ o.row (beginTune e t o h)
  | .proving row =>
    let h := h.modCtx t fun c =>
      { c with state := .preparing, tune := .notNeeded, path := .pending, position := .notNeeded, claimWaiting := false,
               posAsked := false, timer := none }
    claim e ⟨t, (h.runs.get t).startedAt⟩ row h

/-- A new row for the held occurrence: it replaces the resolved row in the context and the record, path is claimed anew
and position set anew (R78, R89). Tune is left as the rule concerned gives it. -/
def reRow (e : Env) (t : Tx) (o : Occ) (row : Row) (h : Hall) : Hall :=
  let tilt := ((h.recordOf o.handle).map fun r => tiltFor e row r.sched.tilt).getD o.tilt
  let need := positionNeed e h row o.azimuth tilt
  let h := h.modCtx t fun c =>
    { c with held := .occurrence { o with row := row, tilt := tilt }, state := .preparing, path := .pending,
             position := need, claimWaiting := false, posAsked := false }
  let h := h.modRecord o.handle (Record.reRowed row)
  claim e ⟨t, o.start⟩ row (newAntennaFoldback t (withdrawPosition t h))

/-- The first member of the group that meets R56 at this instant, passing over the antennas left (R78, R89). -/
def otherMember (e : Env) (h : Hall) (t : Tx) (o : Occ) (left : List Ant) : Option Row :=
  match o.target, h.recordOf o.handle with
  | .group g, some r =>
    resolveGroup e h (contextHolders e h ++ e.due.filterMap (entryHolder e h)) t r.sched o.start
      (e.banks.cappedEnd o.bank o.finish) left g
  | _, _ => none

/-! Taking an occurrence (R70, R71, R85). -/

/-- The occurrence a context takes, from its record (R67). -/
def occOf (e : Env) (k : Handle) (r : Record) (start finish : Nat) (row : Row) : Occ :=
  { handle := k, bank := r.sched.bank, start := start, finish := finish, freq := r.sched.freq,
    programme := r.sched.programme, target := r.sched.target, row := row, azimuth := r.sched.azimuth,
    tilt := tiltFor e row r.sched.tilt }

/-- A context stores what it takes: an exercise on its column yields, the foldback starts afresh, and the requested power
is computed (R70, R163 to R166, R192). -/
def store (e : Env) (t : Tx) (held : Held) (deadline : Nat) (h : Hall) : Hall :=
  let h := h.setCtx t { Context.idle with state := (h.ctx.get t).state, held := held }
  ceiling e t (freshFoldback t (yieldColumn ⟨t, deadline⟩ h))

/-- A context stores an occurrence and its record becomes PREPARING (R70). -/
def storeOccurrence (e : Env) (t : Tx) (k : Handle) (start finish : Nat) (row : Row) (h : Hall) : Hall :=
  match h.recordOf k with
  | none => h
  | some r =>
    store e t (.occurrence (occOf e k r start finish row)) start (h.modRecord k (Record.begun start finish row))

/-- The permit is dropped, the mute timer starts and the context enters MUTING (R70, R71). -/
def enterMuting (e : Env) (t : Tx) (h : Hall) : Hall :=
  dropPermit e t (h.modCtx t fun c => { c with state := .muting, timer := some (muteTimer e t) })

/-- An IDLE context goes on with what it has stored (R70). -/
def beginHeld (e : Env) (t : Tx) (h : Hall) : Hall :=
  if h.quiet t then enterPreparing e t h else enterMuting e t h

/-! Ending (R84 to R86). -/

/-- The context enters ENDING (R84). -/
def enterEnding (e : Env) (t : Tx) (h : Hall) : Hall :=
  let h := dropPermit e t h
  let h := match (h.ctx.get t).occ with
    | some o => h.modRecord o.handle (Record.enter .ending)
    | none => h
  h.modCtx t fun c =>
    { c with state := .ending, endingBegan := some e.now, timer := some (muteTimer e t), spellBegan := none }

/-- The context finishes and becomes IDLE (R84, R91). -/
def finishIdle (e : Env) (t : Tx) (h : Hall) : Hall := (finishHeld e t (releasePath e t h)).setCtx t Context.idle

/-- A quiet reply in ENDING finishes it: the kept occurrence is begun, or the context becomes IDLE (R84, R85). -/
def finishEnding (e : Env) (t : Tx) (h : Hall) : Hall :=
  match (h.ctx.get t).kept with
  | none => finishIdle e t h
  | some k =>
    enterPreparing e t (storeOccurrence e t k.handle k.start k.finish k.row (finishIdle e t h))

/-- A claim of the transmitter stands CONNECTED. -/
def Hall.connectedClaim (h : Hall) (t : Tx) : Bool := (h.claims.get t).any fun c => c.status == .connected

/-- An occurrence or proving run is taken back (R91): permit, PRESET, operations, rows and positioning request, then
ENDING from a state in which RF may be on, else IDLE at once. -/
def unwind (e : Env) (t : Tx) (h : Hall) : Hall :=
  let h := withdrawPosition t (withdrawPreset t (dropPermit e t h))
  if (h.ctx.get t).state.rfMayBeOn then
    enterEnding e t (if h.connectedClaim t then withdrawOps e t h else withdrawClaim e t h)
  else finishIdle e t h

/-- A context aborts, or otherwise decides, what it holds and unwinds it (R92); a proving run ends HALTED, as the mode
that takes it back gives (R177). A context that is IDLE, ENDING or HALTED is not touched. -/
def takeBack (e : Env) (t : Tx) (o : OccOutcome) (r : Option Reason) (ended : Nat) (h : Hall) : Hall :=
  if (h.ctx.get t).state.working then
    unwind e t (endRun t .halted (decideOutcome t o r ended h))
  else h

/-- The outcome of a cut (R93). -/
def cutOutcome (r : Reason) (wentOnAir : Bool) : OccOutcome × Reason :=
  if wentOnAir then (.cut, r) else (.missed, if r = .permit then .path else r)

/-- Protection hands a context a cut (R93); a proving run ends FAILED with the reason (R177). -/
def cut (e : Env) (t : Tx) (r : Reason) (h : Hall) : Hall :=
  let c := h.ctx.get t
  if c.state.working then
    let d := cutOutcome r c.wentOnAir
    unwind e t (endRun t (.failed r) (decideOutcome t d.1 (some d.2) e.now h))
  else h

/-- The link has become SILENT or LOCAL (R94). -/
def linkStop (e : Env) (t : Tx) (r : Reason) (h : Hall) : Hall :=
  let c := h.ctx.get t
  match c.state with
  | .idle | .halted => h
  | .muting | .preparing | .standing | .ramping | .onAir | .restrike =>
    let o := if c.wentOnAir then OccOutcome.cut else OccOutcome.missed
    let h := endRun t (.failed r) (decideOutcome t o (some r) e.now h)
    finishIdle e t (withdrawPosition t (dropPermit e t h))
  | .ending => finishIdle e t (dropPermit e t (dropKept e t .missed r h))

/-- The mode has become STOP or LOCAL (R95). -/
def haltContext (e : Env) (t : Tx) (h : Hall) : Hall :=
  match (h.ctx.get t).state with
  | .idle | .halted => h
  | .muting | .preparing | .standing | .ramping | .onAir | .restrike =>
    let h := endRun t .halted (decideOutcome t .halted (some .mode) e.now h)
    (finishIdle e t (withdrawPosition t (dropPermit e t h))).setCtx t { Context.idle with state := .halted }
  | .ending =>
    (finishIdle e t (dropPermit e t (dropKept e t .halted .mode h))).setCtx t
      { Context.idle with state := .halted }

/-- Leaving STOP or LOCAL makes every HALTED context IDLE (R95). -/
def unhalt (h : Hall) : Hall :=
  { h with ctx := h.ctx.map fun c => if c.state = .halted then Context.idle else c }

/-! Failures while preparing (R75, R78). -/

/-- The antenna of a row, as a list. -/
def rowAntList (r : Row) : List Ant := (rowAnt r).toList

/-- A path or position sub-task has failed (R78): another member of a group once, else the occurrence is MISSED, or CUT
after it has been on air. A proving run ends FAILED, PATH (R177), also when a stray latch on its row made the claim fail
(log 66, DESIGN CHOICE). -/
def failPreparation (e : Env) (t : Tx) (r : Reason) (h : Hall) : Hall :=
  let c := h.ctx.get t
  match c.occ with
  | none => unwind e t (endRun t (.failed r) h)
  | some o =>
    let left := c.left ++ rowAntList o.row
    match if c.reResolved then none else otherMember e h t o left with
    | some row => reRow e t o row (h.modCtx t fun c => { c with left := left, reResolved := true })
    | none =>
      if c.wentOnAir then unwind e t (decideOutcome t .cut (some .trips) e.now h)
      else unwind e t (decideOutcome t .missed (some r) e.now h)

/-- The row of what a context holds. -/
def Context.heldRow (c : Context) : Option Row :=
  match c.held with
  | .nothing => none
  | .occurrence o => some o.row
  | .proving row => some row

/-- The path sub-task is told that its claim failed (R76, R78). A claim made since then is another one. -/
def pathFails (e : Env) (t : Tx) (h : Hall) : Hall :=
  let c := h.ctx.get t
  if c.state = .preparing ∧ c.path = .pending ∧ ((h.claims.get t).isNone ∨ c.heldRow.any (claimBarred h t)) then failPreparation e t .path (h.modCtx t fun c => { c with path := .failed })
  else h

/-- The position sub-task is told that its request failed (R77, R78). -/
def positionFails (e : Env) (t : Tx) (h : Hall) : Hall :=
  let c := h.ctx.get t
  if c.state = .preparing ∧ c.position = .pending ∧ c.posAsked
  then failPreparation e t .position (h.modCtx t fun c => { c with position := .failed })
  else h

/-- The position sub-task asks the positioner controller (R77): the claim granted, the row's RF sense clear. -/
def positionReady (e : Env) (h : Hall) (t : Tx) : Bool :=
  let c := h.ctx.get t
  c.state == .preparing && c.position == .pending && !c.posAsked &&
  c.occ.any fun o =>
    !e.pins.rf.get o.row && (h.claims.get t).any fun k => k.row == o.row && k.status != .waiting

/-- The request is made, unless the positioner is FAULT already (R77, R134). -/
def askPosition (e : Env) (t : Tx) (h : Hall) : Hall :=
  let h := h.modCtx t fun c => { c with posAsked := true }
  match (h.ctx.get t).occ with
  | none => h
  | some o =>
    match rowAnt o.row with
    | some a => takeRequest e a { tx := t, azimuth := o.azimuth, tilt := o.tilt } h
    | none => h

/-! Standing, ramping and on air (R79 to R81). -/

/-- A sub-task that holds nothing back. -/
def SubTask.settled : SubTask → Bool
  | .done | .notNeeded => true
  | .pending | .failed => false

/-- The context enters RAMPING (R80). -/
def enterRamping (e : Env) (t : Tx) (h : Hall) : Hall :=
  requestPermit t (h.modCtx t fun c => { c with state := .ramping, timer := some (timerOf e .ramp (e.ramp t + 15)) })

/-- The ramp start of what a context holds has come; a proving run's always has (R79, R97). -/
def rampDue (e : Env) (h : Hall) (t : Tx) : Bool :=
  match (h.ctx.get t).occ with
  | some o => o.start - e.ramp t ≤ e.now
  | none => true

/-- Every sub-task is complete: STANDING, or RAMPING at once (R79). -/
def standingReady (h : Hall) (t : Tx) : Bool :=
  let c := h.ctx.get t
  c.state == .preparing && c.tune.settled && c.path.settled && c.position.settled

def enterStanding (e : Env) (t : Tx) (h : Hall) : Hall :=
  let h := h.modCtx t fun c => { c with state := .standing, timer := none }
  if rampDue e h t then enterRamping e t h else h

/-- At a second boundary a STANDING context whose ramp start has come passes to RAMPING (R79). -/
def rampStart (e : Env) (t : Tx) (h : Hall) : Hall :=
  if (h.ctx.get t).state = .standing ∧ rampDue e h t then enterRamping e t h else h

/-- Forward power is confirmed (R81). -/
def enterOnAir (e : Env) (t : Tx) (h : Hall) : Hall :=
  let c := h.ctx.get t
  let h := h.modCtx t fun c => { c with state := .onAir, timer := none, spellBegan := some e.now }
  match c.occ, c.onAirAt with
  | some o, none =>
    let late := min 65535 (e.now - o.start)
    let h := h.modCtx t fun c => { c with onAirAt := some e.now }
    let h := h.modRecord o.handle (Record.onAired late)
    if 0 < late then raiseNotice .late h else h
  | _, _ => h

/-! The natural end (R83). -/

/-- The reason of an occurrence that its E finds in PREPARING (R83). -/
def Context.pendingReason (c : Context) : Reason :=
  if c.tune = .pending then .tune else if c.path = .pending then .path
  else if c.position = .pending then .position else .path

/-- An occurrence whose E has come (R83). -/
def naturalEnd (e : Env) (t : Tx) (h : Hall) : Hall :=
  let c := h.ctx.get t
  match c.occ with
  | none => h
  | some o =>
    if e.now < o.finish then h
    else
      let complete := decideOutcome t c.completeOr none o.finish h
      let missed (r : Reason) : Hall := decideOutcome t .missed (some r) o.finish h
      match c.state, c.wentOnAir with
      | .onAir, true | .restrike, true | .ramping, true => enterEnding e t complete
      | .preparing, true | .standing, true => unwind e t complete
      | .ramping, false | .restrike, false => enterEnding e t (missed .tune)
      | .muting, _ => unwind e t (missed .mute)
      | .preparing, false => unwind e t (missed c.pendingReason)
      | .standing, false => unwind e t (missed .path)
      | .onAir, false | .idle, _ | .ending, _ | .halted, _ => h

/-! Starting changeovers (R52) and the handover (R11). -/

/-- An ON_AIR context takes a new occurrence; its previous one, or its proving run, finishes in the same event (R71). -/
def takeOnAir (e : Env) (t : Tx) (d : DueEntry) (row : Row) (h : Hall) : Hall :=
  let c := h.ctx.get t
  let h := finishHeld e t (decideOutcome t c.completeOr none e.now h)
  enterMuting e t (storeOccurrence e t d.handle d.start d.finish row (endRun t .yielded h))

/-- The context takes the occurrence of a due entry (R52). A kept occurrence is not the current occurrence of its record
(R18) until it begins (log 44, DESIGN CHOICE). -/
def takeEntry (e : Env) (d : DueEntry) (h : Hall) : Hall :=
  match d.resolved with
  | none => h
  | some row =>
    match (h.ctx.get d.tx).state with
    | .idle => beginHeld e d.tx (storeOccurrence e d.tx d.handle d.start d.finish row h)
    | .onAir => takeOnAir e d.tx d row h
    | .ending => h.modCtx d.tx fun c =>
        { c with kept := some { handle := d.handle, start := d.start, finish := d.finish, row := row } }
    | .muting | .preparing | .standing | .ramping | .restrike | .halted => h

/-- The context takes an occurrence now (R52). -/
def takesEntry (h : Hall) (d : DueEntry) : Bool :=
  let c := h.ctx.get d.tx
  match c.state with
  | .idle | .onAir => true
  | .ending => c.kept.isNone && c.occ.all fun o => o.handle != d.handle
  | .muting | .preparing | .standing | .ramping | .restrike | .halted => false

/-- A proving run yields to an entry that is ready (R52, R177). -/
def yieldsRun (h : Hall) (d : DueEntry) : Bool :=
  let c := h.ctx.get d.tx
  c.run.isSome &&
  match c.state with
  | .muting | .preparing | .standing | .ramping | .restrike => true
  | .idle | .onAir | .ending | .halted => false

/-- A proving run ended YIELDED and unwound (R177). -/
def yieldRun (e : Env) (t : Tx) (h : Hall) : Hall := unwind e t (endRun t .yielded h)

/-- An old-bank occurrence at the handover (R11, R85). -/
def handoverContext (e : Env) (old : Bank) (hh : Nat) (t : Tx) (h : Hall) : Hall :=
  let c := h.ctx.get t
  let h :=
    if c.occ.any fun o => o.bank == old then
      if c.state = .onAir then enterEnding e t (decideOutcome t c.completeOr none hh h)
      else takeBack e t .aborted (some .handover) e.now h
    else h
  if (h.ctx.get t).kept.any fun k => (h.recordOf k.handle).any fun r => r.sched.bank == old
  then dropKept e t .aborted .handover h else h

end Sys2Proof.Machine
end

