-- ==== Sys2Proof/Machine/Protection.lean ====
section
/-! DEFINITION. The protection unit (Chapter 8): scores and barring, trips and their decision, mute failures, clean
minutes, and the stray-RF guard. -/

namespace Sys2Proof.Machine

/-! Barring (R172) and taking out (R174). -/

/-- A context holds an occurrence, or a transmitter's proving run, that a unit concerns. -/
def concernsUnit (h : Hall) (u : HallUnit) (t : Tx) : Bool :=
  match u with
  | .tx v => v == t
  | .ant a => (h.ctx.get t).occ.any fun o => o.row == antRow a

/-- A kept occurrence is on a transmitter, or names an antenna (R85). -/
def keptConcerns (h : Hall) (u : HallUnit) (t : Tx) : Bool :=
  match u with
  | .tx v => v == t
  | .ant a => (h.ctx.get t).kept.any fun k => k.row == antRow a

/-- What a unit's barring or taking out does to the contexts, in transmitter order: those it concerns are cut, but for
`except`, a proving run of the transmitter ends FAILED, and kept occurrences are dropped (R172, R174). -/
def strikeUnit (e : Env) (u : HallUnit) (r : Reason) (except : Option Tx) (h : Hall) : Hall :=
  (allFin 16).foldl (fun h t =>
    let h := if concernsUnit h u t ∧ except ≠ some t then cut e t r h else h
    let h := if u = .tx t then endRun t (.failed r) h else h
    if keptConcerns h u t then dropKept e t .missed r h else h) h

/-- A unit is barred (R172). -/
def bar (e : Env) (u : HallUnit) (except : Option Tx) (h : Hall) : Hall :=
  let h := h.setUnit u { score := 255, service := .barred, provingMinutes := 0 }
  strikeUnit e u .barred except (raiseNotice .barred h)

/-- The state of an unlatched unit by its score (R170). -/
def serviceOf (score : Nat) : Service :=
  if score < 96 then .normal else if score < 128 then .watch else if score < 255 then .reduced else .barred

/-- A unit that is latched keeps its state whatever its score (R170). -/
def Service.latched : Service → Bool
  | .barred | .proving | .out => true
  | .normal | .watch | .reduced => false

/-- An unlatched unit takes its state from its score; NORMAL to WATCH raises WATCH (R170). -/
def restate (u : HallUnit) (h : Hall) : Hall :=
  let r := h.unit u
  if r.service.latched then h
  else
    let s := serviceOf r.score
    let h := h.setUnit u { r with service := s }
    if r.service = .normal ∧ s = .watch then raiseNotice .watch h else h

/-- A score is added to a unit (R168, R170, R172). -/
def addScore (e : Env) (u : HallUnit) (n : Nat) (except : Option Tx) (h : Hall) : Hall :=
  let r := h.unit u
  match r.service with
  | .out | .barred => h
  | .proving => bar e u except h
  | .normal | .watch | .reduced =>
    let score := min 255 (r.score + n)
    if score = 255 then bar e u except h else restate u (h.setUnit u { r with score := score })

/-! Trips (R87 to R90, R168, R171). -/

/-- What a trip adds to the transmitter and to the antenna of the row, by its cause (R168). -/
def tripPoints (cause : TripCause) (antennaRow : Bool) : Nat × Nat :=
  match cause, antennaRow with
  | .vswr, true => (8, 8)
  | .arc, true => (0, 16)
  | _, _ => (8, 0)

/-- The trip is scored, and its notice raised (R168). -/
def scoreTrip (e : Env) (t : Tx) (cause : TripCause) (row : Row) (h : Hall) : Hall :=
  let p := tripPoints cause (rowAnt row).isSome
  let h := raiseNotice .trip h
  let h := if p.1 = 0 then h else addScore e (.tx t) p.1 (some t) h
  match rowAnt row with
  | some a => if p.2 = 0 then h else addScore e (.ant a) p.2 (some t) h
  | none => h

/-- A unit of the occurrence is barred (R171). -/
def unitBarred (h : Hall) (t : Tx) (row : Row) : Bool :=
  (h.txUnit.get t).service == .barred || h.rowService row == .barred

/-- The re-strike limit (R171). -/
def restrikeLimit (h : Hall) (t : Tx) (row : Row) : Nat :=
  if (h.txUnit.get t).service.weak || (h.rowService row).weak then 1 else 3

/-- A cause that points at the antenna (R90, R171). -/
def TripCause.antennaCause : TripCause → Bool
  | .vswr | .arc => true
  | .overload | .cooling | .other => false

/-- A cut decision (R90): the outcome is decided and the context enters ENDING; a proving run ends FAILED (R177). -/
def cutDecision (e : Env) (t : Tx) (barred : Bool) (cause : TripCause) (h : Hall) : Hall :=
  let c := h.ctx.get t
  let d : OccOutcome × Reason :=
    match c.wentOnAir, barred with
    | true, false => (.cut, .trips)
    | true, true => (.cut, .barred)
    | false, true => (.missed, .barred)
    | false, false => (.missed, if cause.antennaCause then .path else .tune)
  let h := endRun t (.failed (if barred then .barred else .trips)) h
  enterEnding e t (decideOutcome t d.1 (some d.2) e.now h)

/-- A re-route decision (R89). -/
def reRoute (e : Env) (t : Tx) (o : Occ) (cause : TripCause) (h : Hall) : Hall :=
  let c := h.ctx.get t
  let left := c.left ++ rowAntList o.row
  let h := h.modCtx t fun c => { c with reRouted := true, left := left }
  match otherMember e h t o left with
  | some row => reRow e t o row (h.modCtx t fun c => { c with tune := .notNeeded, timer := none })
  | none => cutDecision e t false cause h

/-- The decision after a trip (R171), carried out by the context (R88 to R90). -/
def decideTrip (e : Env) (t : Tx) (cause : TripCause) (row : Row) (h : Hall) : Hall :=
  let c := h.ctx.get t
  if unitBarred h t row then cutDecision e t true cause h
  else if c.trips.length ≤ restrikeLimit h t row then
    h.modCtx t fun c => { c with timer := some (timerOf e .pause e.tables.pause) }
  else
    match c.occ with
    | some o =>
      if cause.antennaCause && o.target.isGroup && !c.reRouted then reRoute e t o cause h
      else cutDecision e t false cause h
    | none => cutDecision e t false cause h

/-- A context takes a trip (R87). Trips leave the list of R67 when they are 60 s old at the next trip, and not before
(log 47, DESIGN CHOICE). -/
def takeTrip (e : Env) (t : Tx) (cause : TripCause) (h : Hall) : Hall :=
  match (h.ctx.get t).heldRow with
  | none => h
  | some row =>
    let h := h.modCtx t fun c =>
      { c with timer := none, spellBegan := none, state := .restrike
               trips := (c.trips ++ [e.now]).filter fun i => e.now < i + 60 }
    decideTrip e t cause row (scoreTrip e t cause row (dropPermit e t h))

/-- A tune failure (R75): the PRESET again, or FAILED with a score, and MISSED, TUNE. -/
def tuneFailure (e : Env) (t : Tx) (h : Hall) : Hall :=
  let c := h.ctx.get t
  match c.occ with
  | none => h
  | some o =>
    if c.tuneAttempts < 2 then
      let again := c.timer.map fun m => { m with expiry := e.elapsed + m.length }
      handPreset t (tunePreset h t o) (h.modCtx t fun c => { c with tuneAttempts := 2, timer := again })
    else
      let h := h.modCtx t fun c => { c with tune := .failed, timer := none }
      unwind e t (decideOutcome t .missed (some .tune) e.now (addScore e (.tx t) 8 (some t) h))

/-! Mute failures (R72, R86, R178). -/

/-- The protection unit's part of a mute failure (R178). -/
def barMuted (e : Env) (t : Tx) (h : Hall) : Hall :=
  let h := raiseNotice .muteFail h
  match (h.txUnit.get t).service with
  | .barred | .out => h
  | .normal | .watch | .reduced | .proving => bar e (.tx t) (some t) h

/-- The mute timer has run out in MUTING (R72) or ENDING (R86). -/
def muteFailure (e : Env) (t : Tx) (h : Hall) : Hall :=
  match (h.ctx.get t).state with
  | .muting =>
    let h := endRun t (.failed .mute) (decideOutcome t .missed (some .mute) e.now h)
    barMuted e t (finishIdle e t h)
  | .ending => barMuted e t (finishIdle e t (dropKept e t .missed .mute h))
  | .idle | .preparing | .standing | .ramping | .onAir | .restrike | .halted => h

/-! Clean minutes (R169). -/

/-- A context has a clean minute at the boundary M. -/
def cleanAt (h : Hall) (m : Nat) (t : Tx) : Bool :=
  let c := h.ctx.get t
  c.state == .onAir && c.spellBegan.any fun b => b + 60 ≤ m

/-- A clean minute of a unit. -/
def cleanUnit (u : HallUnit) (h : Hall) : Hall :=
  let r := h.unit u
  match r.service with
  | .barred | .out => h
  | .normal | .watch | .reduced => restate u (h.setUnit u { r with score := r.score - 1 })
  | .proving =>
    if 20 ≤ r.provingMinutes + 1 then
      raiseNotice .proven (h.setUnit u { r with service := .normal, provingMinutes := 0 })
    else h.setUnit u { r with provingMinutes := r.provingMinutes + 1 }

/-- A clean minute of a proving run; the twentieth passes it and the context enters ENDING (R176, R177). -/
def cleanRun (e : Env) (t : Tx) (h : Hall) : Hall :=
  if (h.ctx.get t).run.isSome then
    let h := { h with runs := h.runs.modify t fun w => { w with minutes := w.minutes + 1 } }
    if 20 ≤ (h.runs.get t).minutes then enterEnding e t (endRun t .passed h) else h
  else h

/-- The clean minutes of a minute boundary M, in transmitter order (R169). -/
def cleanMinutes (e : Env) (m : Nat) (h : Hall) : Hall :=
  ((allFin 16).filter (cleanAt h m)).foldl (fun h t =>
    let h' := cleanUnit (.tx t) h
    let h' := match ((h.ctx.get t).heldRow).bind rowAnt with
      | some a => cleanUnit (.ant a) h'
      | none => h'
    cleanRun e t h') h

/-! Stray RF (R180). -/

/-- A context that a stray latch cuts (R180). -/
def CtxState.strayCut : CtxState → Bool
  | .preparing | .standing | .ramping | .onAir | .restrike => true
  | .idle | .muting | .ending | .halted => false

/-- Stray RF latches a row (R180). A run in PREPARING on the row whose crosspoint is still OPEN is not cut: its claim fails
and the run ends FAILED, PATH (log 66, DESIGN CHOICE). -/
def latchStray (e : Env) (r : Row) (h : Hall) : Hall :=
  let inRow := (allFin 16).filter fun t => !h.isOpen ⟨t, r⟩
  let h := raiseNotice .strayRf { h with stray := h.stray.set r true }
  let h := inRow.foldl (fun h t => dropPermit e t h) h
  let h := inRow.foldl (fun h t => if (h.ctx.get t).state.strayCut then cut e t .stray h else h) h
  strayRow e r h

/-- The gate drops a line against a standing request: a PERMIT cut, but for the mode and HALLSTOP (R161). -/
def gateDrop (e : Env) (t : Tx) (h : Hall) : Hall :=
  let stands := (h.gates.get t).request
  let h := lowerLine e t h
  if stands && e.mode == .run && !e.pins.hallstop then cut e t .permit h else h

end Sys2Proof.Machine
end

