-- ==== Sys2Proof/Machine/Settle.lean ====
section
/-! DEFINITION. What follows from an event before it is over (log 5): the reports between blocks, first in, first out,
then the standing rules, until none has anything to do; then the permit lines and the due list. -/

namespace Sys2Proof.Machine

/-- One report between blocks is handled. -/
def handleMsg (e : Env) (m : Msg) (h : Hall) : Hall :=
  match m with
  | .handOn r => handRowOn r h
  | .pathFailed t => pathFails e t h
  | .posFailed t => positionFails e t h

/-- The gate has a line to lower (R160). -/
def shouldFall (e : Env) (h : Hall) (t : Tx) : Bool := (h.gates.get t).line && !permitConditions e h t
/-- The gate has a line to raise (R160). -/
def shouldRise (e : Env) (h : Hall) (t : Tx) : Bool :=
  (h.gates.get t).request && !(h.gates.get t).line && permitConditions e h t
/-- The requested power is no longer what the ceiling gives (R164). -/
def ceilingStale (e : Env) (h : Hall) (t : Tx) : Bool := requestedPower e h t != (h.power.get t).requested
/-- A queued entry stands in a row whose STRAY latch is set (R111, R180). -/
def strayEntry (h : Hall) (n : QEntry) : Bool := !n.inFlight && h.stray.get n.xp.row
/-- A queued entry stands in a row or column that holds a STUCK crosspoint (R111). A commanded move may try a stuck switch
(R118), so an entry that carries one stays (log 40, DEDUCED). -/
def blockedEntry (h : Hall) (n : QEntry) : Bool :=
  !n.inFlight && n.commands == 0 && (h.rowBlocked n.xp.row || h.columnBlocked n.xp.tx)

/-- The first standing rule that has something to do, with its effect: the permit gate, the stray-RF guard, the power
ceiling, held requests, position requests, standing, failing entries, the drive link (log 5, DESIGN CHOICE). R111 gives no
precedence between its reasons: a queued entry that stands both in a latched row and beside a STUCK crosspoint fails with
STRAY, and a held close that either reason meets does not fail with INTERLOCK (log 71, DESIGN CHOICE). R110 examines a
held close anew when a position changes and when an entry joins or leaves the queue: the model examines it in every event,
so also when a telemetry reply or a falling line is what makes it held (log 77, DESIGN CHOICE). -/
def standingRule (e : Env) (h : Hall) : Option Hall :=
  match (allFin 16).find? (shouldFall e h) with
  | some t => some (gateDrop e t h)
  | none =>
  match (allFin 16).find? (shouldRise e h) with
  | some t => some (raiseLine t h)
  | none =>
  match (allFin 26).find? (strayFound e h) with
  | some r => some (latchStray e r h)
  | none =>
  match (allFin 16).find? (ceilingStale e h) with
  | some t => some (ceiling e t h)
  | none =>
  match (allFin 16).find? (deferredReady h) with
  | some t => some (flushDeferred t h)
  | none =>
  match (allFin 16).find? (positionReady e h) with
  | some t => some (askPosition e t h)
  | none =>
  match (allFin 16).find? (standingReady h) with
  | some t => some (enterStanding e t h)
  | none =>
  match h.queue.filter (strayEntry h), h.queue.filter (blockedEntry h) with
  | n :: l, _ => some (failEntries e .stray (n :: l) h)
  | [], n :: l => some (failEntries e .blocked (n :: l) h)
  | [], [] =>
  match h.queue.find? (interlockFails e h) with
  | some n => some (failEntry e .interlock n h)
  | none =>
  if readReady e h then some (sendRead e h)
  else if driveFree e h then (pickEntry e h).map fun n => servePick e n h
  else none

/-- The next report or standing rule, with its effect. -/
def agendaStep (e : Env) (h : Hall) : Option Hall :=
  match h.work with
  | m :: rest => some (handleMsg e m { h with work := rest })
  | [] => standingRule e h

/-- Reports and standing rules are handled until none is left, at most `fuel` of them. -/
def runAgenda (e : Env) : Nat → Hall → Hall
  | 0, h => h
  | n + 1, h =>
    match agendaStep e h with
    | some h' => runAgenda e n h'
    | none => h

/-- The hall after an event has settled. -/
def settle (e : Env) (h : Hall) : Hall := lowerFailed e (runAgenda e Config.settleBound h)

/-- An event ends: the hall settles, and the due list is recomputed when the event is one of R48 or has changed what the
planner reads. -/
def conclude (before : State) (force : Bool) (s : State) : State :=
  let s := { s with hall := settle s.env s.hall }
  if force || plannerView s != plannerView before then recompute s else s

end Sys2Proof.Machine
end

