-- ==== Sys2Proof/Machine/Boundaries.lean ====
section
/-! DEFINITION. Second and minute boundaries (R3): clean minutes, the handover (R11), giving up and starting entries
(R51 to R54), ramp starts, natural ends, standings, and the selection of auto exercise. -/

namespace Sys2Proof.Machine

/-- One part of an event: the hall is changed and settles (log 6). -/
def phase (f : Env → Hall → Hall) (s : State) : State := conclude s false { s with hall := f s.env s.hall }

/-- One part of an event that is over before the list is worked: the hall settles, and the due list stands. -/
def State.settled (s : State) : State := { s with hall := settle s.env s.hall }

/-- A due entry is given up (R54, R11). -/
def giveUp (e : Env) (r : Reason) (d : DueEntry) (h : Hall) : Hall :=
  finishRecord e d.tx d.handle { outcome := .missed, reason := some r, start := d.start, late := 0, early := 0 } h

/-- A due entry belongs to a bank. -/
def entryOfBank (h : Hall) (k : Bank) (d : DueEntry) : Bool := (h.recordOf d.handle).any fun r => r.sched.bank == k

/-- The entries of the due list taken off it. -/
def Env.keepDue (e : Env) (p : DueEntry → Bool) : Env := { e with due := e.due.filter p }

/-- The handover is taken (R11). The recomputation it asks for follows the entries that are given up (log 6). -/
def takeHandover (hh : Nat) (s : State) : State :=
  let old := s.env.banks.live
  let gone := s.env.due.filter (entryOfBank s.hall old)
  let banks := { s.env.banks with live := s.env.banks.standby, handover := none }
  let e := { s.env with banks := banks }.keepDue fun d => !entryOfBank s.hall old d
  let h := raiseNotice .handover s.hall
  let h := (allFin 16).foldl (fun h t => handoverContext e old hh t h) h
  let h := gone.foldl (fun h d => giveUp e .handover d h) h
  State.settled { s with env := e, hall := restandAll e h }

/-- The handover, when its instant has come. -/
def handoverPhase (s : State) : State :=
  match s.env.banks.handover with
  | some hh => if hh ≤ s.env.now then takeHandover hh s else s
  | none => s

/-- The blocked reason of every entry found anew (R51, R53). -/
def refreshBlocked (s : State) : State :=
  let anew (d : DueEntry) : DueEntry :=
    match s.hall.recordOf d.handle with
    | some r => { d with blocked := blockedReason s.env s.hall d.tx r.sched.target d.resolved }
    | none => d
  { s with env := { s.env with due := s.env.due.map anew } }

/-- Entries whose E has come are given up (R54), from the list as it stood: no recomputation has passed over them. -/
def giveUpPhase (s : State) : State :=
  let gone := s.env.due.filter fun d => d.finish ≤ s.env.now
  if gone.isEmpty then s
  else
    let e := s.env.keepDue fun d => s.env.now < d.finish
    State.settled { s with
      env := e, hall := gone.foldl (fun h d => giveUp e (d.blocked.getD .path) d h) s.hall }

/-- An entry whose C′ has come and that is not blocked (R51). -/
def dueNow (e : Env) (d : DueEntry) : Bool := d.beginAt ≤ e.now && d.blocked.isNone

/-- Changeovers are started, and proving runs that stand in the way yield (R51, R52). Each start is an event of R48, whatever
becomes of it in the same event. The manual gives no order among entries that start at one boundary: they are handed to
their contexts in due-list order, so the earlier one's claim on a FREE row comes first, and proving runs yield after all
starts (log 68, DESIGN CHOICE). -/
def startPhase (s : State) : State :=
  let ready := s.env.due.filter (dueNow s.env)
  let started := ready.filter (takesEntry s.hall)
  let yielding := ready.filter (yieldsRun s.hall)
  let e := s.env.keepDue fun d => !started.contains d
  let h := started.foldl (fun h d => takeEntry e d h) s.hall
  let h := yielding.foldl (fun h d => yieldRun e d.tx h) h
  conclude s (!started.isEmpty) { s with env := e, hall := h }

/-- The first part of a second boundary: clean minutes, the handover, and the entries given up (R169, R11, R54). The list
is not recomputed within it, so an entry whose E is this instant is still there to be given up. -/
def beforeStarts (minute : Option Nat) (s : State) : State :=
  let s := match minute with
    | some m => State.settled { s with hall := cleanMinutes s.env m s.hall }
    | none => s
  giveUpPhase (refreshBlocked (handoverPhase s))

/-- What an entry is known by (R47). -/
def DueEntry.key (d : DueEntry) : Handle × Nat := (d.handle, d.start)

/-- The starts of a second boundary (R51). The list is recomputed first when the first part changed what the planner reads,
and afterwards when entries were given up or started (R48, log 6). -/
def startsOf (before s : State) : State :=
  let s := if plannerView s = plannerView before then s else refreshBlocked (recompute s)
  let t := startPhase s
  if t.env.due.map DueEntry.key = before.env.due.map DueEntry.key then t else recompute t

/-- The last part of a second boundary: ramp starts (R79), then natural ends (R83). -/
def rampsAndEnds (s : State) : State :=
  let s := phase (fun e h => (allFin 16).foldl (fun h t => rampStart e t h) h) s
  phase (fun e h => (allFin 16).foldl (fun h t => naturalEnd e t h) h) s

/-- The work of a second boundary that is also the minute boundary `minute`, if one is crossed (R3, log 6). The due list
is recomputed at each minute boundary too, after the standings (R48). -/
def secondBoundary (minute : Option Nat) (s : State) : State :=
  let s := rampsAndEnds (startsOf s (beforeStarts minute s))
  match minute with
  | some m =>
    let s := recompute { s with hall := restandAll s.env s.hall }
    phase (selectExercise m) s
  | none => s

/-- The boundaries of a count that has moved (R3). One that passes several multiples of 60 gives one minute boundary,
for the latest of them (log 39, DESIGN CHOICE). -/
def boundaries (s : State) : State :=
  let c := s.env.clock
  if c.valid ∧ c.lastBoundary < c.now then
    let m := c.now - c.now % 60
    let minute := if c.lastBoundary < m then some m else none
    secondBoundary minute { s with env := { s.env with clock := { c with lastBoundary := c.now } } }
  else s

/-- The count advances by one second (R2); at its last instant it holds and the valid flag is cleared. -/
def Clock.advance (c : Clock) : Clock :=
  if c.day = 65535 ∧ c.second = 86399 then { c with valid := false, phase := 0 }
  else if c.second = 86399 then { c with day := c.day + 1, second := 0, phase := 0 }
  else { c with second := c.second + 1, phase := 0 }

/-- The count advances, with its boundaries (R2, R3). A cleared valid flag empties the due list (R50). While RESETn is
held the count goes on and gives no boundary (R2, R200). -/
def advanceCount (s : State) : State :=
  let c := s.env.clock.advance
  let s := { s with env := { s.env with clock := c, due := if c.valid then s.env.due else [] } }
  if s.env.pins.resetHeld then s else boundaries s

end Sys2Proof.Machine
end

