-- ==== Sys2Proof/Machine/Port.lean ====
section
/-! DEFINITION. The command port (10.1, 10.2): how a request is checked, carried out and answered. -/

namespace Sys2Proof.Machine

/-- What a request's own rule gives: a refusal, or the state after it with the payload of its OK reply (R199). -/
abbrev Verdict := Except Status (State × List Byte)

/-- An accepted request. -/
def accept (s : State) (payload : List Byte) : Verdict := .ok (s, payload)
/-- A refused request. -/
def refuse (st : Status) : Verdict := .error st

/-- A reply fills the buffer at the release of chip-select; the reply that was shifted out has left it (R198). -/
def Port.fill (r : Option Reply) (p : Port) : Port := { p with buffer := r, selected := false, shifting := none }

/-- A frame ends while RESETn is held, or began before it: it is discarded (R198). -/
def dropsFrame (s : State) : Bool := s.env.pins.resetHeld || s.port.discard

/-- The port after a discarded frame. -/
def discardFrame (s : State) : State :=
  { s with port := { s.port with selected := false, shifting := none, discard := false } }

/-- The reply of a request. -/
def replyOf (v : Verdict) : Reply :=
  match v with
  | .ok (_, payload) => { status := .ok, payload := payload }
  | .error st => { status := st, payload := [] }

/-- The state a request leaves: a refused one changes nothing (R199). -/
def stateOf (s : State) (v : Verdict) : State :=
  match v with
  | .ok (s', _) => s'
  | .error _ => s

/-- A verdict as the port carries it out: the state it leaves, with its reply in the buffer (R199). -/
def carryOut (s : State) (v : Verdict) : State :=
  let s' := stateOf s v
  { s' with port := s'.port.fill (some (replyOf v)) }

/-- A request (R199): a length its layout does not allow is refused with FIELD, a mode that does not take it with MODE,
then its own rule decides. -/
def request (lengthOk : Bool) (modeOk : Mode → Bool) (rule : State → Verdict) (s : State) : State :=
  if dropsFrame s then discardFrame s
  else
    carryOut s (if !lengthOk then refuse .field else if !modeOk s.env.mode then refuse .mode else rule s)

/-- Taken in every mode (10.3). -/
def anyMode : Mode → Bool := fun _ => true
/-- Taken in CONFIG only (10.3). -/
def configMode : Mode → Bool := fun m => m == .config

/-- A request of the hall's work ends as an event: the hall settles and the due list is recomputed if need be. -/
def acceptEvent (before : State) (force : Bool) (s : State) (payload : State → List Byte) : Verdict :=
  let s := conclude before force s
  accept s (payload s)

/-- NOP (R198): a good frame that places no reply. -/
def execNop (s : State) : Host.Outcome State Fault Refusal :=
  .next (if dropsFrame s then discardFrame s else { s with port := s.port.fill none })

/-- FRAME_ERROR (R197): the frame is discarded, the reply is FRAME, the notice is raised. -/
def execFrameError (s : State) : Host.Outcome State Fault Refusal :=
  .next (if dropsFrame s then discardFrame s
    else { s with port := s.port.fill (some { status := .frame, payload := [] })
                  hall := raiseNotice .frameError s.hall })

/-- EMPTY_PERIOD (R197, R198): no bit was shifted in; the reply that was shifted out has left the buffer. -/
def execEmptyPeriod (s : State) : Host.Outcome State Fault Refusal :=
  .next (if dropsFrame s then discardFrame s else { s with port := s.port.fill none })

/-- UNKNOWN_COMMAND (R199, R213): the code names no request. -/
def execUnknownCommand (_code : Byte) (_payload : List Byte) (s : State) : Host.Outcome State Fault Refusal :=
  .next (if dropsFrame s then discardFrame s else carryOut s (refuse .unknownCommand))

/-- The byte that follows a reply or the empty indication, again and again, while the period lasts (R198, R211). -/
def fillByte : Byte := 0xFF

/-- The bytes the port shifts out first: the reply of the buffer, or the empty indication (R198, R211). -/
def shiftedOut : Option Reply → List Byte
  | some r => b1 r.status.code ++ b1 r.payload.length ++ r.payload
  | none => b1 0xFF ++ b1 0

/-- Byte `n` of what the port shifts out in the period in progress: the reply or the empty indication, then fill bytes (R198,
R211); none when no period is in progress. The count begins at 0 with the period, and again with a hall reset taken in it
(log 75, DESIGN CHOICE). -/
def Port.outByte (n : Nat) (p : Port) : Option Byte := p.shifting.map fun l => l.getD n fillByte

/-- CHIP_SELECT_ASSERT (R198): the port begins to shift out the contents of the buffer. A period that began earlier goes
on. -/
def execChipSelectAssert (s : State) : Host.Outcome State Fault Refusal :=
  .next (if s.port.selected then s
    else { s with port := { s.port with selected := true, shifting := some (shiftedOut s.port.buffer) } })

end Sys2Proof.Machine
end

