-- ==== Sys2Proof/Machine/Time.lean ====
section
/-! DEFINITION. The commands of the station clock (Chapter 1) and of the minute count (R185). -/

namespace Sys2Proof.Machine

/-- The elapsed-time base passes on to an expiry (log 2). -/
def State.passTo (at' : Nat) (s : State) : State := { s with env := Machine.passTo at' s.env }

/-- The clock of a state changed. -/
def State.modClock (s : State) (f : Clock → Clock) : State := { s with env := { s.env with clock := f s.env.clock } }

/-- SECOND_ADVANCE (R2): the sub-second phase reaches 1 s and the count advances. -/
def execSecondAdvance (s : State) : Host.Outcome State Fault Refusal :=
  .next (advanceCount { s with env := passTime (1000 - s.env.clock.phase) s.env })

/-- The time-mark state after a mark (R5). -/
def Clock.marked (elapsed : Nat) (c : Clock) : Clock := { c with markState := .locked, markWatch := some (elapsed + 3000) }

/-- TIME_MARK (R5, R6): it fixes the second boundary at the mark. Marks are ignored in OFF, and while RESETn is held
(log 23). -/
def execTimeMark (s : State) : Host.Outcome State Fault Refusal :=
  .next (
    if s.env.pins.resetHeld ∨ !s.env.clock.marksEnabled then s
    else
      let s := s.modClock (Clock.marked s.env.elapsed)
      if s.env.clock.phase < 500 then s.modClock fun c => { c with phase := 0 }
      else advanceCount s)

/-- MARK_WATCH_EXPIRY (R5): the watch runs out. A watch that is not running, or held by RESETn, has no expiry. -/
def execMarkWatchExpiry (s : State) : Host.Outcome State Fault Refusal :=
  .next (
    match s.env.clock.markWatch with
    | none => s
    | some w =>
      if s.env.pins.resetHeld then s
      else
        let s := (s.passTo w).modClock fun c => { c with markWatch := none }
        match s.env.clock.markState with
        | .waiting | .locked =>
          { s.modClock (fun c => { c with markState := .lost }) with hall := raiseNotice .markLost s.hall }
        | .off | .lost => s)

/-- AGE_MINUTE (R185): a minute of the count ends. -/
def execAgeMinute (s : State) : Host.Outcome State Fault Refusal :=
  let due := s.env.minuteBegan + 60000
  let e := passTo due s.env
  .next { s with env := { e with minuteBegan := due }, hall := ageAll s.hall }

/-- The size of a step of the clock, in either direction (R4). -/
def stepSize (a c : Nat) : Nat := (a - c) + (c - a)

/-- The clock takes a day and a second of day (R4). -/
def Clock.setTo (day second : Nat) (c : Clock) : Clock := { c with day := day, second := second, phase := 0 }

/-- The clock taken freely: valid, with no boundary for the new instant (R4). -/
def Clock.setFreely (day second : Nat) (c : Clock) : Clock :=
  { c.setTo day second with valid := true, lastBoundary := day * 86400 + second }

/-- The time a clock shows, as a reply carries it. -/
def Clock.bytes (c : Clock) : List Byte := b2 c.day ++ b3 c.second

/-- SET_TIME (R4). Where it finds the valid flag clear, the standings of the records are found before the list is
rebuilt, as after a reset (R43, R47, log 37). -/
def setTimeRule (p : List Byte) (s : State) : Verdict :=
  let day := wordAt p 0
  let second := tripleAt p 2
  if 86399 < second then refuse .field
  else if s.env.mode = .run ∧ s.env.clock.valid then
    if 2 < stepSize (day * 86400 + second) s.env.now then refuse .timeStep
    else
      let s := boundaries (s.modClock (Clock.setTo day second))
      accept s s.env.clock.bytes
  else
    let u := s.modClock (Clock.setFreely day second)
    let u := rebuildDue (if s.env.clock.valid then u else { u with hall := restandAll u.env u.hall })
    accept u u.env.clock.bytes

def execSetTime (p : List Byte) (s : State) : Host.Outcome State Fault Refusal :=
  .next (request (p.length == 5) anyMode (setTimeRule p) s)

/-- The clock after SET_CLOCK (R5). -/
def Clock.enableMarks (elapsed : Nat) (enable : Bool) (c : Clock) : Clock :=
  match enable, c.markState with
  | true, .off => { c with markState := .waiting, markWatch := some (elapsed + 3000) }
  | true, .waiting | true, .locked | true, .lost => c
  | false, _ => { c with markState := .off, markWatch := none }

/-- SET_CLOCK (R5). A byte that is neither yes nor no is FIELD (log 61, DESIGN CHOICE). -/
def setClockRule (p : List Byte) (s : State) : Verdict :=
  match yesNoAt p 0 with
  | none => refuse .field
  | some b =>
    let s := s.modClock (Clock.enableMarks s.env.elapsed b)
    accept s (b1 s.env.clock.markState.code)

def execSetClock (p : List Byte) (s : State) : Host.Outcome State Fault Refusal :=
  .next (request (p.length == 1) anyMode (setClockRule p) s)

/-- READ_TIME (R8). -/
def readTimeRule (s : State) : Verdict :=
  let c := s.env.clock
  accept s (c.bytes ++ b1 (c.weekday c.day) ++ bBool c.valid ++ b1 c.weekdayBase ++ bBool c.marksEnabled ++
    b1 c.markState.code)

def execReadTime (p : List Byte) (s : State) : Host.Outcome State Fault Refusal :=
  .next (request (p.length == 0) anyMode readTimeRule s)

/-- SET_PLANNING (R7): it is a time-set event. -/
def setPlanningRule (p : List Byte) (s : State) : Verdict :=
  let base := byteAt p 0
  let guard := byteAt p 1
  if 6 < base then refuse .field
  else
    let s := s.modClock fun c => { c with weekdayBase := base }
    let s := { s with env := { s.env with tables := { s.env.tables with guard := min guard 60 } } }
    accept (rebuildDue s) (b1 (bitSet [60 < guard]))

def execSetPlanning (p : List Byte) (s : State) : Host.Outcome State Fault Refusal :=
  .next (request (p.length == 2) configMode (setPlanningRule p) s)

end Sys2Proof.Machine
end

