-- ==== Sys2Proof/Machine/SeasonBanks.lean ====
section
/-! DEFINITION. The commands of the season banks (1.5 to 1.7). -/

namespace Sys2Proof.Machine

/-- The banks of a state changed. -/
def State.modBanks (s : State) (f : Banks → Banks) : State := { s with env := { s.env with banks := f s.env.banks } }

/-- Every resting record takes its standing anew (R20). -/
def State.restanding (s : State) : State := { s with hall := restandAll s.env s.hall }

/-- SET_HANDOVER (R10). -/
def setHandoverRule (p : List Byte) (s : State) : Verdict :=
  let hh := wordAt p 0 * 86400 + wordAt p 2 * 60
  if 1439 < wordAt p 2 then refuse .field
  else if !s.env.clock.valid then refuse .notReady
  else if s.env.banks.handover.isSome then refuse .busy
  else if hh ≤ s.env.now then refuse .field
  else acceptEvent s true (s.modBanks fun b => { b with handover := some hh }).restanding fun _ => bInstant hh

def execSetHandover (p : List Byte) (s : State) : Host.Outcome State Fault Refusal :=
  .next (request (p.length == 4) anyMode (setHandoverRule p) s)

/-- A context that holds or keeps an occurrence of the STANDBY bank, at a cancelled handover (R12, R85). -/
def cancelContext (e : Env) (t : Tx) (h : Hall) : Hall :=
  let k := e.banks.standby
  let h := if (h.ctx.get t).occ.any fun o => o.bank == k then takeBack e t .aborted (some .handover) e.now h else h
  if (h.ctx.get t).kept.any fun x => (h.recordOf x.handle).any fun r => r.sched.bank == k
  then dropKept e t .aborted .handover h else h

/-- CANCEL_HANDOVER (R12). -/
def cancelHandoverRule (s : State) : Verdict :=
  match s.env.banks.handover with
  | none => accept s (b1 Indication.noneSet.code)
  | some _ =>
    let e := { s.env with banks := { s.env.banks with handover := none } }.keepDue fun d =>
      !entryOfBank s.hall s.env.banks.standby d
    let h := (allFin 16).foldl (fun h t => cancelContext e t h) s.hall
    acceptEvent s true { s with env := e, hall := restandAll e h } fun _ => b1 Indication.cancelled.code

def execCancelHandover (p : List Byte) (s : State) : Host.Outcome State Fault Refusal :=
  .next (request (p.length == 0) anyMode cancelHandoverRule s)

/-- A bank's lock flag set or cleared. -/
def Banks.setLock (k : Bank) (v : Bool) (b : Banks) : Banks :=
  match k with
  | .a => { b with lockA := v }
  | .b => { b with lockB := v }

/-- Both lock flags, as a reply carries them (R13). -/
def Banks.lockBytes (b : Banks) : List Byte := bBool b.lockA ++ bBool b.lockB

/-- LOCK_BANK and UNLOCK_BANK (R13). A code that is no bank is FIELD also while the freeze flag is set (log 42, DESIGN
CHOICE). -/
def lockRule (v : Bool) (p : List Byte) (s : State) : Verdict :=
  match bankOf (byteAt p 0) with
  | none => refuse .field
  | some k =>
    if s.env.banks.freeze then refuse .locked
    else
      let s := s.modBanks (Banks.setLock k v)
      accept s s.env.banks.lockBytes

def execLockBank (p : List Byte) (s : State) : Host.Outcome State Fault Refusal :=
  .next (request (p.length == 1) anyMode (lockRule true p) s)

def execUnlockBank (p : List Byte) (s : State) : Host.Outcome State Fault Refusal :=
  .next (request (p.length == 1) anyMode (lockRule false p) s)

/-- FREEZE_BANKS (R13). -/
def freezeRule (s : State) : Verdict :=
  accept (s.modBanks fun b => { b with freeze := true }) s.env.banks.lockBytes

def execFreezeBanks (p : List Byte) (s : State) : Host.Outcome State Fault Refusal :=
  .next (request (p.length == 0) anyMode freezeRule s)

/-- The records of a bank, with their handles. -/
def Hall.bankRecords (h : Hall) (k : Bank) : List (Handle × Record) :=
  h.occupied.filter fun x => x.2.sched.bank == k

/-- The count of a bank's records in flight (R14, R40). -/
def Hall.bankInFlight (h : Hall) (k : Bank) : Nat := (h.bankRecords k).countP fun x => h.inFlight x.1 x.2

/-- READ_BANKS (R14). The STANDBY count of records in flight, to which R14 gives no range, has two bytes like the two
counts beside it (log 7, DESIGN CHOICE). -/
def readBanksRule (s : State) : Verdict :=
  let b := s.env.banks
  accept s (b1 b.live.code ++ b.lockBytes ++ bBool b.freeze ++ bOpt 5 (b.handover.map bInstant) ++
    b2 (s.hall.bankRecords .a).length ++ b2 (s.hall.bankRecords .b).length ++ b2 (s.hall.bankInFlight b.standby))

def execReadBanks (p : List Byte) (s : State) : Host.Outcome State Fault Refusal :=
  .next (request (p.length == 0) anyMode readBanksRule s)

end Sys2Proof.Machine
end

