-- ==== Sys2Proof/Machine/Slots.lean ====
section
/-! DEFINITION. The commands of the slot table (Chapter 2): validation, clamps, the weekly conflict check, and the edits. -/

namespace Sys2Proof.Machine

/-! Validation (2.4). -/

/-- The FIELD conditions of R24 that a decoded schedule part can still fail. -/
def Schedule.fieldsOk (s : Schedule) : Bool :=
  s.startMinute ≤ 1439 && 5 ≤ s.duration && s.duration ≤ 1440 && s.days != 0 &&
  (match s.firstDay, s.lastDay with
    | some f, some l => f ≤ l
    | _, _ => true) &&
  2300 ≤ s.freq && s.freq ≤ 26100 && (s.azimuth.all fun z => z ≤ 359) && s.tilt ≤ 3 && 10 ≤ s.power &&
  s.power ≤ 600 && s.programme ≤ 31

/-- The transmitter, and a target antenna, are configured (R24). -/
def configuredFor (e : Env) (s : Schedule) : Bool :=
  e.txConfigured s.tx &&
  match s.target with
  | .antenna a => (e.tables.ant.get a).isSome
  | .load _ | .group _ => true

/-- The configured members of a group. -/
def groupAntennas (e : Env) (g : GroupNo) : List AntCfg := (e.tables.group.get g).filterMap e.tables.ant.get

/-- The band check (R25). -/
def bandOk (e : Env) (s : Schedule) : Bool :=
  ((e.tables.tx.get s.tx).any fun c => c.bandLow ≤ s.freq && s.freq ≤ c.bandHigh) &&
  match s.target with
  | .antenna a => (e.tables.ant.get a).any fun c => c.holds s.freq
  | .load _ => true
  | .group g => (groupAntennas e g).any fun c => c.holds s.freq

/-- The azimuth check (R26). -/
def azimuthOk (e : Env) (s : Schedule) : Bool :=
  match s.azimuth, s.target with
  | none, _ => true
  | some _, .antenna a => (e.tables.ant.get a).any fun c => c.reaches s.azimuth
  | some _, .load _ => false
  | some _, .group g => (groupAntennas e g).any fun c => c.holds s.freq && c.reaches s.azimuth

/-- The power of R27: the least of the requested power, the rating and the target's maximum power. -/
def clampedPower (e : Env) (s : Schedule) : Nat :=
  let p := min s.power (e.txFigures s.tx).rating
  match s.target with
  | .antenna a => min p (e.rowPower (antRow a))
  | .load l => min p (e.rowPower (loadRow l))
  | .group _ => p

/-- The tilt of R27. -/
def clampedTilt (e : Env) (s : Schedule) : Nat :=
  match s.target with
  | .antenna a => (((e.tables.ant.get a).map fun c => c.clampTilt s.tilt)).getD s.tilt
  | .load _ => 0
  | .group _ => s.tilt

/-- The clamps of R27. -/
def clampSchedule (e : Env) (s : Schedule) : Schedule :=
  { s with power := clampedPower e s, tilt := clampedTilt e s, cut := min s.cut 180 }

/-- The fields that clamping changed (R27). -/
def adjustedBy (s c : Schedule) : Adjusted :=
  { power := s.power != c.power, tilt := s.tilt != c.tilt, cut := s.cut != c.cut }

/-! The weekly conflict check (2.5). -/

/-- The starts of a record's weekly arcs (R28). -/
def Schedule.arcs (s : Schedule) : List Nat :=
  ((List.range 7).filter s.onWeekday).map fun w => w * 1440 + s.startMinute

/-- Two arcs overlap on the circle of 10 080 minutes (R28). -/
def arcsOverlap (a d1 b d2 : Nat) : Bool :=
  (b + 10080 - a % 10080) % 10080 < d1 || (a + 10080 - b % 10080) % 10080 < d2

/-- Some arc of one record overlaps some arc of the other. -/
def Schedule.overlaps (s o : Schedule) : Bool :=
  s.arcs.any fun a => o.arcs.any fun b => arcsOverlap a s.duration b o.duration

/-- The validity range of one ends before that of the other begins (R29). -/
def Schedule.endsBefore (s o : Schedule) : Bool :=
  match s.lastDay, o.firstDay with
  | some l, some f => l < f
  | _, _ => false

/-- Two records could meet: their validity ranges are not disjoint and some arcs overlap (R29). -/
def Schedule.meets (s o : Schedule) : Bool := !s.endsBefore o && !o.endsBefore s && s.overlaps o

/-- Both targets are the same antenna, or the same load (R29). -/
def Target.clashes (a o : Target) : Bool := a == o && !a.isGroup

/-- The conflict check against the other records of the bank (R29). -/
def conflictOf (h : Hall) (self : Option PlaceNo) (s : Schedule) : Option Status :=
  let others := (h.bankRecords s.bank).filter fun x => self != some x.1.place && s.meets x.2.sched
  if others.any fun x => x.2.sched.tx == s.tx then some .conflictTx
  else if others.any fun x => s.target.clashes x.2.sched.target then some .conflictAnt
  else none

/-- The BAND and AZIMUTH checks, in their order. -/
def reachCheck (e : Env) (s : Schedule) : Option Status :=
  if !bandOk e s then some .band else if !azimuthOk e s then some .azimuth else none

/-! ADD_SLOT (R30). -/

/-- The lowest free place (R30). -/
def Hall.lowestFree (h : Hall) : Option PlaceNo := (allFin 1024).find? fun p => (h.recordAt p).isNone

/-- A new record (R18). -/
def newRecord (s : Schedule) (a : Adjusted) : Record :=
  { sched := s, state := .dormant, suspendPending := false, retire := none, served := none, current := none,
    last := none, adjusted := a }

/-- The handle of a place as it stands. -/
def Hall.handleOf (h : Hall) (p : PlaceNo) : Handle := { place := p, gen := (h.slots.get p).gen }

/-- A checked record is stored (R30). -/
def storeNew (s : State) (p : PlaceNo) (raw : Schedule) : Verdict :=
  let c := clampSchedule s.env raw
  match conflictOf s.hall none c with
  | some st => refuse st
  | none =>
    let a := adjustedBy raw c
    let r := restand s.env (newRecord c a)
    acceptEvent s true { s with hall := s.hall.setRecord p (some r) } fun s =>
      (s.hall.handleOf p).bytes ++ b1 r.state.code ++ b1 a.bits

/-- ADD_SLOT (R30, R215). -/
def addSlotRule (p : List Byte) (s : State) : Verdict :=
  match if addLayout p then addImage p else none with
  | none => refuse .field
  | some raw =>
    if !raw.fieldsOk then refuse .field
    else if !configuredFor s.env raw then refuse .notReady
    else if s.env.banks.locked raw.bank then refuse .locked
    else
      match reachCheck s.env raw, s.hall.lowestFree with
      | some st, _ => refuse st
      | none, none => refuse .tableFull
      | none, some place => storeNew s place raw

def execAddSlot (p : List Byte) (s : State) : Host.Outcome State Fault Refusal :=
  .next (request (p.length == 28) anyMode (addSlotRule p) s)

/-! The handle check (R16, R214). -/

/-- The record a request's handle names, with the refusals of R16. -/
def namedRecord (h : Hall) (w : Nat) : Except Status (Handle × Record) :=
  match handlePlace w with
  | none => .error .field
  | some p =>
    match h.recordAt p with
    | none => .error .staleHandle
    | some r => if (h.slots.get p).gen.val = handleGen w then .ok (h.handleOf p, r) else .error .staleHandle

/-- A request that names a record by the handle at the front of its payload: the handle, then the bank's lock (R13). -/
def editRule (p : List Byte) (rule : Handle → Record → State → Verdict) (s : State) : Verdict :=
  match namedRecord s.hall (wordAt p 0) with
  | .error st => refuse st
  | .ok (k, r) => if s.env.banks.locked r.sched.bank then refuse .locked else rule k r s

/-! AMEND_SLOT (R32 to R34). -/

/-- The occurrence in flight is on the air path: the record is PREPARING or ON_AIR. -/
def RecState.started (s : RecState) : Bool := s == .preparing || s == .onAir

/-- AMEND_SLOT is refused with BUSY (R32). -/
def amendBusy (h : Hall) (p : List Byte) (k : Handle) (r : Record) : Bool :=
  r.state == .retiring || r.state == .ending || r.suspendPending || (h.keptBy k).isSome ||
  (r.state.started && slotFields.any fun f => amends p f && f != .duration && f != .power)

/-- The E of the occurrence in flight follows an amended duration, or the occurrence ends or is aborted (R34, R92). -/
def amendEnd (e : Env) (k : Handle) (r : Record) (duration : Nat) (h : Hall) : Hall :=
  match h.heldBy k with
  | none => h
  | some t =>
    match (h.ctx.get t).occ with
    | none => h
    | some o =>
      let finish := o.start + duration * 60
      let h := h.modCtx t fun c => { c with held := .occurrence { o with finish := finish } }
      let h := h.modRecord k fun r => { r with current := r.current.map fun c => { c with finish := finish } }
      if e.now < finish then h
      else if r.state = .onAir then takeBack e t (h.ctx.get t).completeOr none finish h
      else takeBack e t .aborted (some .command) e.now h

/-- A checked amendment is stored (R33, R34). -/
def storeAmended (p : List Byte) (k : Handle) (r : Record) (raw : Schedule) (s : State) : Verdict :=
  let c := clampSchedule s.env raw
  match conflictOf s.hall (some k.place) c with
  | some st => refuse st
  | none =>
    let a := adjustedBy raw c
    let r' := restand s.env { r with sched := c, adjusted := a }
    let h := s.hall.setRecord k.place (some r')
    let h := if r.state.started ∧ amends p .duration then amendEnd s.env k r c.duration h else h
    acceptEvent s true { s with hall := h } fun s =>
      b1 ((s.hall.recordOf k).elim r'.state Record.state).code ++ b1 a.bits

/-- AMEND_SLOT (R32, R215). -/
def amendSlotRule (p : List Byte) (k : Handle) (r : Record) (s : State) : Verdict :=
  if !amendLayout p then refuse .field
  else if amendBusy s.hall p k r then refuse .busy
  else
    match amendImage p r.sched with
    | none => refuse .field
    | some raw =>
      if !raw.fieldsOk then refuse .field
      else if !configuredFor s.env raw then refuse .notReady
      else
        match reachCheck s.env raw with
        | some st => refuse st
        | none => storeAmended p k r raw s

def execAmendSlot (p : List Byte) (s : State) : Host.Outcome State Fault Refusal :=
  .next (request (p.length == 28) anyMode (editRule p (amendSlotRule p)) s)

/-! RETIRE_SLOT (R35, R36). -/

/-- What a request that takes a record out of planning does to its occurrence in flight (R36, R38, R92): PREPARING is
aborted, ON_AIR is cut when `now` says so, a kept occurrence is dropped. -/
def takeOutOfFlight (e : Env) (k : Handle) (r : Record) (now : Bool) (h : Hall) : Hall :=
  match h.keptBy k with
  | some t => dropKept e t .aborted .command h
  | none =>
    match r.state, h.heldBy k with
    | .preparing, some t => takeBack e t .aborted (some .command) e.now h
    | .onAir, some t => if now then takeBack e t .cut (some .command) e.now h else h
    | .retiring, some t =>
      if now ∧ r.retire = some .atEnd then takeBack e t .cut (some .command) e.now h else h
    | _, _ => h

/-- The option a retirement stores (R36): NOW replaces AT_END while the occurrence is not yet in ENDING. -/
def retireOption (h : Hall) (k : Handle) (r : Record) (o : RetireOpt) : RetireOpt :=
  match r.retire, h.heldBy k with
  | none, _ => o
  | some .atEnd, some t => if (h.ctx.get t).state = .ending then .atEnd else o
  | some old, _ => old

/-- RETIRE_SLOT (R35, R36). -/
def retireSlotRule (p : List Byte) (k : Handle) (r : Record) (s : State) : Verdict :=
  match retireOptOf (byteAt p 2) with
  | none => refuse .field
  | some o =>
    if s.hall.inFlight k r then
      let h := s.hall.setRecord k.place
        (some { r with state := .retiring, retire := some (retireOption s.hall k r o) })
      let h := takeOutOfFlight s.env k r (o == .now) h
      acceptEvent s true { s with hall := h } fun _ => b1 Indication.pending.code
    else
      acceptEvent s true { s with hall := retirePlace k.place s.hall } fun _ => b1 Indication.retired.code

def execRetireSlot (p : List Byte) (s : State) : Host.Outcome State Fault Refusal :=
  .next (request (p.length == 3) anyMode (editRule p (retireSlotRule p)) s)

/-! SUSPEND_SLOT and RESUME_SLOT (R38, R39). -/

/-- The record after SUSPEND_SLOT, before its occurrence is taken back (R38). -/
def Record.suspend (inFlight : Bool) (r : Record) : Record :=
  if r.state = .suspended ∨ r.suspendPending then r
  else if inFlight then { r with suspendPending := true }
  else { r with state := .suspended }

/-- The state of a record and the PENDING indication, as the reply carries them (R38). -/
def suspendReply (s : State) (k : Handle) : List Byte :=
  match s.hall.recordOf k with
  | some r => b1 r.state.code ++ b1 (if r.suspendPending then Indication.pending else .noIndication).code
  | none => b1 0 ++ b1 0

/-- SUSPEND_SLOT (R38). -/
def suspendSlotRule (k : Handle) (r : Record) (s : State) : Verdict :=
  if r.state = .retiring then refuse .busy
  else
    let flying := s.hall.inFlight k r
    let h := s.hall.setRecord k.place (some (r.suspend flying))
    let h := if flying ∧ !r.suspendPending ∧ r.state ≠ .suspended then takeOutOfFlight s.env k r true h else h
    acceptEvent s true { s with hall := h } fun s => suspendReply s k

def execSuspendSlot (p : List Byte) (s : State) : Host.Outcome State Fault Refusal :=
  .next (request (p.length == 2) anyMode (editRule p suspendSlotRule) s)

/-- The record after RESUME_SLOT (R39). -/
def Record.resume (e : Env) (r : Record) : Record :=
  if r.suspendPending then { r with suspendPending := false }
  else if r.state = .suspended then restand e { r with state := .waiting }
  else r

/-- RESUME_SLOT (R39). -/
def resumeSlotRule (k : Handle) (r : Record) (s : State) : Verdict :=
  if r.state = .retiring then refuse .busy
  else
    let r' := r.resume s.env
    acceptEvent s true { s with hall := s.hall.setRecord k.place (some r') } fun _ => b1 r'.state.code

def execResumeSlot (p : List Byte) (s : State) : Host.Outcome State Fault Refusal :=
  .next (request (p.length == 2) anyMode (editRule p resumeSlotRule) s)

/-! CLEAR_BANK (R40). -/

/-- CLEAR_BANK (R40). -/
def clearBankRule (p : List Byte) (s : State) : Verdict :=
  match bankOf (byteAt p 0) with
  | none => refuse .field
  | some k =>
    if k = s.env.banks.live then refuse .field
    else if s.env.banks.locked k then refuse .locked
    else if s.hall.bankInFlight k ≠ 0 then refuse .busy
    else
      let gone := s.hall.bankRecords k
      let h := gone.foldl (fun h x => retirePlace x.1.place h) s.hall
      acceptEvent s true { s with hall := h } fun _ => b2 gone.length

def execClearBank (p : List Byte) (s : State) : Host.Outcome State Fault Refusal :=
  .next (request (p.length == 1) anyMode (clearBankRule p) s)

/-! READ_SLOT and FIND_SLOTS (R41, R42). -/

/-- The retirement option of a record, 0 when it is absent (R212); the state RETIRING stands for its presence byte
(log 7). -/
def retireByte : Option RetireOpt → List Byte
  | some o => b1 o.code
  | none => b1 0

/-- The current occurrence of a record, as a reply carries it. -/
def Current.bytes (c : Current) : List Byte := bInstant c.start ++ bInstant c.finish ++ b1 c.row.val ++ b2 c.late

/-- The last outcome of a record with its companions. With NONE the companions are absent: they read 0 and have no
presence byte, for which the 64 bytes of a payload leave no room (R18, R41, R212, log 7, DESIGN CHOICE). -/
def lastBytes : Option LastOutcome → List Byte
  | some o => b1 o.outcome.code ++ b1 (reasonCode o.reason) ++ bInstant o.start ++ b2 o.late ++ b3 o.early
  | none => List.replicate 12 0

/-- The run-time part of a record (R18, R41). -/
def Record.runBytes (r : Record) : List Byte :=
  b1 r.state.code ++ bBool r.suspendPending ++ retireByte r.retire ++ bOpt 5 (r.served.map bInstant) ++
  bOpt 13 (r.current.map Current.bytes) ++ lastBytes r.last ++ b1 r.adjusted.bits

/-- READ_SLOT (R41). -/
def readSlotRule (p : List Byte) (s : State) : Verdict :=
  match namedRecord s.hall (wordAt p 0) with
  | .error st => refuse st
  | .ok (k, r) => accept s (imageBytes k r.sched ++ r.runBytes)

def execReadSlot (p : List Byte) (s : State) : Host.Outcome State Fault Refusal :=
  .next (request (p.length == 2) anyMode (readSlotRule p) s)

/-- A filter out of a request: 0xFF is ANY, else a value, else nothing (R42, R212). -/
def filterOf {α : Type} (v : Nat) (read : Nat → Option α) : Option (Option α) :=
  if v = 0xFF then some none else (read v).map some

/-- The filters and the resume point of FIND_SLOTS. -/
structure Find where
  bank : Option Bank
  tx : Option Tx
  target : Option Target
  after : Option PlaceNo
  deriving DecidableEq, Repr

/-- FIND_SLOTS' payload; none when a value is out of its range (R42). With target kind ANY the number beside it is ignored
(log 52, DESIGN CHOICE). -/
def findOf (p : List Byte) : Option Find := do
  let bank ← filterOf (byteAt p 0) bankOf
  let tx ← filterOf (byteAt p 1) (below 16)
  let target ← filterOf (byteAt p 2) fun k => targetOf k (byteAt p 3)
  let after ← if wordAt p 4 = 0xFFFF then some none else (below 1024 (wordAt p 4)).map some
  pure { bank := bank, tx := tx, target := target, after := after }

/-- A record passes the filters of FIND_SLOTS (R42). -/
def Find.passes (f : Find) (x : Handle × Record) : Bool :=
  (f.bank.all fun k => x.2.sched.bank == k) && (f.tx.all fun t => x.2.sched.tx == t) &&
  (f.target.all fun g => x.2.sched.target == g) && f.after.all fun p => p < x.1.place

/-- The next resume point after the handles collected (R42). -/
def nextResume (found : List Handle) : Nat :=
  match found.drop 15 with
  | k :: _ => if k.place.val < 1023 then k.place.val else 0xFFFF
  | [] => 0xFFFF

/-- FIND_SLOTS (R42). -/
def findSlotsRule (p : List Byte) (s : State) : Verdict :=
  match findOf p with
  | none => refuse .field
  | some f =>
    let found := ((s.hall.occupied.filter f.passes).take 16).map Prod.fst
    accept s (found.flatMap Handle.bytes ++ b2 (nextResume found))

def execFindSlots (p : List Byte) (s : State) : Host.Outcome State Fault Refusal :=
  .next (request (p.length == 6) anyMode (findSlotsRule p) s)

end Sys2Proof.Machine
end

