-- ==== Sys2Proof/Machine/PlanReads.lean ====
section
/-! DEFINITION. Reading the due list, a transmitter's plan and a context (R64 to R66, R98), and the timers of the contexts
(R69). -/

namespace Sys2Proof.Machine

/-- A due entry with every field of R47 but the notice field (R64). -/
def DueEntry.bytes (d : DueEntry) : List Byte :=
  b1 d.tx.val ++ d.handle.bytes ++ bInstant d.start ++ bInstant d.finish ++ bOrOnes (d.resolved.map Fin.val) ++
  b2 d.lead ++ bBool d.long ++ bInstant d.beginAt ++ b2 d.expectedLate ++ b1 (reasonCode d.blocked)

/-- READ_DUE_LIST (R64). -/
def readDueListRule (p : List Byte) (s : State) : Verdict :=
  let start := byteAt p 0
  if 15 < start then refuse .field
  else accept s (b1 s.env.due.length ++ ((s.env.due.drop start).take 2).flatMap DueEntry.bytes)

def execReadDueList (p : List Byte) (s : State) : Host.Outcome State Fault Refusal :=
  .next (request (p.length == 1) anyMode (readDueListRule p) s)

/-- A last-outcome field; NO_CHANGE is outcome 0xFF with zeros beside it (R65, R219, log 7). -/
def planOutcomeBytes : Option PlanOutcome → List Byte
  | some o =>
    o.handle.bytes ++ bInstant o.last.start ++ b1 o.last.outcome.code ++ b1 (reasonCode o.last.reason) ++
    b2 o.last.late ++ b3 o.last.early
  | none => List.replicate 7 0 ++ b1 0xFF ++ List.replicate 6 0

/-- READ_PLAN (R66): the last-outcome field becomes NO_CHANGE. -/
def readPlanRule (p : List Byte) (s : State) : Verdict :=
  match below 16 (byteAt p 0) with
  | none => refuse .field
  | some t =>
    let entry := s.env.due.find? fun d => d.tx == t
    accept { s with hall := { s.hall with lastOutcome := s.hall.lastOutcome.set t none } }
      (planOutcomeBytes (s.hall.lastOutcome.get t) ++ b1 (s.hall.ctx.get t).state.code ++
        bOpt 25 (entry.map DueEntry.bytes))

def execReadPlan (p : List Byte) (s : State) : Host.Outcome State Fault Refusal :=
  .next (request (p.length == 1) anyMode (readPlanRule p) s)

/-- An occurrence, as READ_CHANGEOVER carries it. -/
def Occ.bytes (o : Occ) : List Byte := o.handle.bytes ++ bInstant o.start ++ bInstant o.finish ++ b1 o.row.val

/-- What a context holds: the occurrence and the proving run's load row, each an item that may be absent (R98, R212). -/
def Held.bytes : Held → List Byte
  | .nothing => bOpt 13 none ++ bOpt 1 none
  | .occurrence o => bOpt 13 (some o.bytes) ++ bOpt 1 none
  | .proving row => bOpt 13 none ++ bOpt 1 (some (b1 row.val))

/-- The decided outcome and its reason, an item that may be absent. -/
def Decided.bytes (d : Decided) : List Byte := b1 d.outcome.code ++ b1 (reasonCode d.reason)

/-- The running timer, or the code for none, with the seconds left before its expiry (R98, R212, R219). -/
def timerBytes (e : Env) (m : Option Timer) : List Byte :=
  b1 ((m.map fun m => m.kind.code).getD 0) ++ bOpt 2 (m.map fun m => b2 (secondsLeft e m.expiry))

/-- The sub-tasks and the attempts are present: from the first PREPARING until the finish (R67). Path is NOT_NEEDED before
it and at no time after it (R73, R76). -/
def Context.prepared (c : Context) : Bool := c.path != .notNeeded

/-- An item that is present with the sub-tasks (R67). -/
def Context.withTasks (c : Context) (l : List Byte) : Option (List Byte) := if c.prepared then some l else none

/-- READ_CHANGEOVER (R98). The sub-tasks with claim-waiting are one item that may be absent, the attempts another, as R67
lists them; the flags are no without an occurrence (R67). The antennas already left are a list of one byte each, in the
order they were left and as many as there are, not a bit set (R78, R89, R212). All of this is the model's layout (log 7,
DESIGN CHOICE). -/
def Context.bytes (e : Env) (c : Context) : List Byte :=
  b1 c.state.code ++ c.held.bytes ++
  bOpt 4 (c.withTasks (b1 c.tune.code ++ b1 c.path.code ++ b1 c.position.code ++ bBool c.claimWaiting)) ++
  bOpt 1 (c.withTasks (b1 c.tuneAttempts)) ++
  bBool c.wentOnAir ++ bOpt 5 (c.onAirAt.map bInstant) ++ bBool c.reResolved ++ bBool c.reRouted ++
  c.left.flatMap (fun a => b1 a.val) ++ b1 c.trips.length ++ bOpt 2 (c.decided.map Decided.bytes) ++
  bOpt 7 (c.kept.map fun k => k.handle.bytes ++ bInstant k.start) ++ timerBytes e c.timer

/-- READ_CHANGEOVER (R98). -/
def readChangeoverRule (p : List Byte) (s : State) : Verdict :=
  match below 16 (byteAt p 0) with
  | none => refuse .field
  | some t => accept s ((s.hall.ctx.get t).bytes s.env)

def execReadChangeover (p : List Byte) (s : State) : Host.Outcome State Fault Refusal :=
  .next (request (p.length == 1) anyMode (readChangeoverRule p) s)

/-- A timer of a context runs out: the elapsed base passes to its expiry, the timer stops, and `f` follows. A timer that
does not run has no effect (R69). -/
def timerExpiry (t : Tx) (k : TimerKind) (f : Env → Hall → Hall) (s : State) : State :=
  match (s.hall.ctx.get t).timer with
  | none => s
  | some m =>
    if m.kind = k then
      let s' := s.passTo m.expiry
      let h := s'.hall.modCtx t fun c => { c with timer := none }
      conclude s false { s' with hall := f s'.env h }
    else s

/-- MUTE_TIMER_EXPIRY (R72, R86, R178). -/
def execMuteTimerExpiry (t : Tx) (s : State) : Host.Outcome State Fault Refusal :=
  .next (timerExpiry t .mute (fun e h => muteFailure e t h) s)

/-- The tuning timer has run out (R75); its length is taken again for a second attempt. -/
def tuningExpired (t : Tx) (m : Option Timer) (e : Env) (h : Hall) : Hall :=
  let c := h.ctx.get t
  if c.state = .preparing ∧ c.tune = .pending then tuneFailure e t (h.modCtx t fun c => { c with timer := m }) else h

/-- TUNING_TIMER_EXPIRY (R75). -/
def execTuningTimerExpiry (t : Tx) (s : State) : Host.Outcome State Fault Refusal :=
  .next (timerExpiry t .tuning (tuningExpired t (s.hall.ctx.get t).timer) s)

/-- The ramp timer has run out: a trip of cause OTHER (R80, R87). -/
def rampExpired (t : Tx) (e : Env) (h : Hall) : Hall :=
  if (h.ctx.get t).state = .ramping then takeTrip e t .other h else h

/-- RAMP_TIMER_EXPIRY (R80, R87). -/
def execRampTimerExpiry (t : Tx) (s : State) : Host.Outcome State Fault Refusal :=
  .next (timerExpiry t .ramp (rampExpired t) s)

/-- The re-strike pause is over: RAMPING again (R88). -/
def pauseExpired (t : Tx) (e : Env) (h : Hall) : Hall :=
  if (h.ctx.get t).state = .restrike then enterRamping e t h else h

/-- PAUSE_TIMER_EXPIRY (R88). -/
def execPauseTimerExpiry (t : Tx) (s : State) : Host.Outcome State Fault Refusal :=
  .next (timerExpiry t .pause (pauseExpired t) s)

end Sys2Proof.Machine
end

