-- ==== Sys2Proof/Machine/HallLink.lean ====
section
/-! DEFINITION. The commands of the hall link (Chapter 7): poll cycles, replies, misses, the transmitter table. -/

namespace Sys2Proof.Machine

/-! Poll cycles (R147). -/

/-- The configured transmitters, rising. -/
def configuredTx (e : Env) : List Tx := (allFin 16).filter e.txConfigured

/-- A cycle begins: every configured transmitter is to be polled, and the first poll goes out (R147). -/
def beginHallCycle (s : State) : State :=
  { s with hall := nextHallPoll { s.hall with hallPoll := configuredTx s.env, hallCycle := some s.env.elapsed } }

/-- HALL_POLL_CYCLE (R147): 1 s after the cycle before began, the first one at once. A cycle still under way, and the
hold of RESETn, keep it from beginning. -/
def execHallPollCycle (s : State) : Host.Outcome State Fault Refusal :=
  .next (
    if s.env.pins.resetHeld ∨ !s.hall.hallPoll.isEmpty then s
    else
      match s.hall.hallCycle with
      | some b => beginHallCycle (s.passTo (b + 1000))
      | none => beginHallCycle s)

/-- The poll in progress has ended and the next one goes out (R147). -/
def endHallPoll (s : State) : State :=
  { s with hall := nextHallPoll { s.hall with hallPoll := s.hall.hallPoll.tail } }

/-! Replies (R148, R149, R216, R218). -/

/-- What a telemetry reply carries. -/
structure TelemetryFrame where
  tx : Tx
  report : TxReport
  freq : Nat
  forward : Nat
  reflected : Nat
  cause : Option TripCause
  ack : Option Nat
  deriving DecidableEq, Repr

/-- A telemetry reply out of its frame; none for a bad check, address or reported state (R148, R218). -/
def telemetryOf (l : List Byte) : Option TelemetryFrame :=
  if frameGood 12 l then
    match below 16 (byteAt l 0), txReportOf (byteAt l 1) with
    | some t, some r =>
      some { tx := t, report := r, freq := wordAt l 2, forward := wordAt l 4, reflected := wordAt l 6,
             cause := tripCauseOf (byteAt l 8), ack := if byteAt l 9 = 1 then some (byteAt l 10) else none }
    | _, _ => none
  else none

/-- The tuned frequency after a reply: kept when the reply gives none in 2300–26100 kHz (R149). -/
def tunedAfter (old : Option Telemetry) (freq : Nat) : Option Nat :=
  if 2300 ≤ freq ∧ freq ≤ 26100 then some freq else old.bind Telemetry.freq

/-- The latest telemetry after a reply (R149). -/
def telemetryAfter (e : Env) (old : Option Telemetry) (f : TelemetryFrame) : Telemetry :=
  { report := f.report
    freq := tunedAfter old f.freq
    forward := min f.forward 6000
    reflected := min f.reflected 6000
    cause := if f.report = .tripped then some (f.cause.getD .other) else none
    ack := f.ack
    takenAt := e.elapsed }

/-- A reply acknowledges: the pending PRESET when the numbers are equal, and the tune PRESET when its own number or one
handed after it is meant (R153). -/
def Link.acknowledge (ack : Option Nat) (l : Link) : Link :=
  { l with
    pending := l.pending.filter fun p => !(p.number.isSome && p.number == ack)
    told := l.told || ack.any fun n => l.ackNumbers.contains n }

/-- The link record after a reply, but for the link state (R149, R153). -/
def Link.receive (e : Env) (f : TelemetryFrame) (l : Link) : Link :=
  { l.acknowledge f.ack with telemetry := some (telemetryAfter e l.telemetry f), missed := 0 }

/-- The link state after a reply (R155, R156), with what leaving ACTIVE does. -/
def moveLink (e : Env) (t : Tx) (r : TxReport) (h : Hall) : Hall :=
  let before := (h.links.get t).state
  if r = .localCtl then
    if before = .localCtl then h
    else
      let h := raiseNotice .txLocal (h.modLink t fun l => { l with state := .localCtl, pending := none })
      if before = .active then linkStop e t .localCtl h else h
  else h.modLink t fun l => { l with state := .active }

/-- Forward power is confirmed against the requested power that stands (R69, R80). -/
def confirmed (h : Hall) (t : Tx) (m : Telemetry) : Bool :=
  (h.power.get t).requested.any fun p => 9 * p ≤ m.forward

/-- The reply counts as a TRIPPED report in this context state: its cause (R150). -/
def tripReport (s : CtxState) (m : Telemetry) : Option TripCause :=
  match m.report, s with
  | .tripped, .ramping | .tripped, .onAir => some (m.cause.getD .other)
  | .fault, .ramping | .fault, .onAir => some .other
  | .off, .onAir | .ready, .onAir => some .other
  | _, _ => none

/-- The tune sub-task reads a reply (R74): FAULT fails it; READY at the frequency, once acknowledged, completes it. -/
def tuneReply (e : Env) (t : Tx) (m : Telemetry) (h : Hall) : Hall :=
  let c := h.ctx.get t
  match c.tune, c.occ with
  | .pending, some o =>
    if m.report = .fault then tuneFailure e t h
    else if (h.links.get t).told && m.report == .ready && m.freq == some o.freq then
      h.modCtx t fun c => { c with tune := .done, timer := none }
    else h
  | _, _ => h

/-- The changeover context reads a reply by its state (R72, R74, R80, R82, R84). -/
def contextReply (e : Env) (t : Tx) (m : Telemetry) (h : Hall) : Hall :=
  let c := h.ctx.get t
  match c.state, tripReport c.state m with
  | .muting, _ => if m.quiet then enterPreparing e t h else h
  | .preparing, _ => tuneReply e t m h
  | .ramping, some cause => takeTrip e t cause h
  | .ramping, none => if confirmed h t m then enterOnAir e t h else h
  | .onAir, some cause => takeTrip e t cause h
  | .ending, _ => if m.quiet then finishEnding e t h else h
  | .onAir, none | .idle, _ | .standing, _ | .restrike, _ | .halted, _ => h

/-- The stray-RF guard sees a quiet reply after a drop (R179). -/
def noteQuiet (t : Tx) (m : Telemetry) (h : Hall) : Hall :=
  if m.quiet then h.modGate t fun g => { g with quietSince := true } else h

/-- A received reply is applied and handed on (R149, R151, R156). The stray-RF guard notes a quiet reply before the context
reads it, so a reply at which the context drops its permit is none since that drop (log 58, DESIGN CHOICE). The protection unit takes
the reflection ratio of R165 after the context has read the reply, by the state the context is in then: the reply that
confirms forward power gives one, and one that is a trip in ON_AIR gives none (log 73, DESIGN CHOICE). -/
def applyTelemetry (e : Env) (f : TelemetryFrame) (h : Hall) : Hall :=
  let h := h.modLink f.tx (Link.receive e f)
  let m := telemetryAfter e (h.links.get f.tx).telemetry f
  let h := moveLink e f.tx f.report (noteQuiet f.tx m h)
  let h := if (h.links.get f.tx).state = .active then contextReply e f.tx m h else h
  reflect e f.tx m h

/-- TELEMETRY_REPLY (R148, R149, R151). A reply with no poll out, or that fails its check, is not received. -/
def execTelemetryReply (frame : List Byte) (s : State) : Host.Outcome State Fault Refusal :=
  .next (
    match s.hall.hallPoll, telemetryOf frame with
    | t :: _, some f =>
      if f.tx = t then endHallPoll (conclude s false { s with hall := applyTelemetry s.env f s.hall }) else s
    | _, _ => s)

/-- A missed reply is counted; the third in a row makes the link SILENT (R154). -/
def missTelemetry (e : Env) (t : Tx) (h : Hall) : Hall :=
  let before := (h.links.get t).state
  let n := min 3 ((h.links.get t).missed + 1)
  let h := h.modLink t fun l => { l with missed := n }
  if n = 3 ∧ before ≠ .silent then
    let h := raiseNotice .txSilent (h.modLink t fun l => { l with state := .silent, pending := none })
    if before = .active then linkStop e t .silent h else h
  else h

/-- TELEMETRY_MISSED (R154). -/
def execTelemetryMissed (s : State) : Host.Outcome State Fault Refusal :=
  .next (
    match s.hall.hallPoll with
    | t :: _ => endHallPoll (conclude s false { s with hall := missTelemetry s.env t s.hall })
    | [] => s)

/-! The transmitter table (R144, R145). -/

/-- A value clamped to the nearer limit. -/
def clampTo (lo hi v : Nat) : Nat := max lo (min v hi)

/-- A transmitter's fields as a request carries them, before their clamps (R145). -/
def txFields (p : List Byte) : TxCfg :=
  { rating := wordAt p 2, bandLow := wordAt p 4, bandHigh := wordAt p 6, muteTime := byteAt p 8, tuneBase := byteAt p 9,
    tuneRate := byteAt p 10, ramp := byteAt p 11 }

/-- The fields clamped to their ranges (R144, R145). -/
def TxCfg.clamp (c : TxCfg) : TxCfg :=
  { rating := clampTo 40 600 c.rating, bandLow := clampTo 2300 26100 c.bandLow, bandHigh := clampTo 2300 26100 c.bandHigh,
    muteTime := clampTo 1 30 c.muteTime, tuneBase := clampTo 0 240 c.tuneBase, tuneRate := clampTo 0 100 c.tuneRate,
    ramp := clampTo 0 60 c.ramp }

/-- The clamped fields, in the order of R144 (log 8). -/
def TxCfg.clamped (c : TxCfg) : Nat :=
  let d := c.clamp
  bitSet [c.rating != d.rating, c.bandLow != d.bandLow, c.bandHigh != d.bandHigh, c.muteTime != d.muteTime,
          c.tuneBase != d.tuneBase, c.tuneRate != d.tuneRate, c.ramp != d.ramp]

/-- The link record when a configured transmitter becomes unconfigured (R145). -/
def Link.unconfigured (l : Link) : Link :=
  { l with state := .active, missed := 0, telemetry := none, pending := none, presetFreq := none, presetProgramme := 0 }

/-- The transmitter entry replaced, with the link record (R145). The list of a running cycle stays as the cycle took it
(R147): a transmitter made unconfigured and configured anew before its poll is polled in that cycle, where R145 says from
the next cycle (log 79, DESIGN CHOICE). -/
def storeTx (t : Tx) (cfg : Option TxCfg) (s : State) : State :=
  let link : Link → Link :=
    match s.env.tables.tx.get t, cfg with
    | none, some _ => fun _ => Link.powerUp
    | some _, none => Link.unconfigured
    | some _, some _ => id
    | none, none => id
  { s with
    env := { s.env with tables := { s.env.tables with tx := s.env.tables.tx.set t cfg } }
    hall := s.hall.modLink t link }

/-- SET_TRANSMITTER (R145). An entry code that is neither NONE nor the fields is refused with FIELD (R212) beside the first
check of R145, so after MODE and before BUSY (log 57, DESIGN CHOICE). -/
def setTransmitterRule (p : List Byte) (s : State) : Verdict :=
  match below 16 (byteAt p 0) with
  | none => refuse .field
  | some t =>
    if 1 < byteAt p 1 then refuse .field
    else if (s.hall.ctx.get t).state ≠ .idle then refuse .busy
    else if byteAt p 1 = 0 then acceptEvent s true (storeTx t none s) fun _ => b1 0
    else
      let raw := txFields p
      if raw.clamp.bandHigh < raw.clamp.bandLow then refuse .field
      else acceptEvent s true (storeTx t (some raw.clamp) s) fun _ => b1 raw.clamped

/-- The length of SET_TRANSMITTER: 2 with NONE, 12 with the fields, and 12 for an entry code that is assigned to neither
(log 7, DESIGN CHOICE). -/
def setTransmitterLength (p : List Byte) : Bool := p.length == if byteAt p 1 = 0 then 2 else 12

def execSetTransmitter (p : List Byte) (s : State) : Host.Outcome State Fault Refusal :=
  .next (request (setTransmitterLength p) configMode (setTransmitterRule p) s)

/-- A transmitter table entry, as a reply carries it. -/
def TxCfg.bytes (c : TxCfg) : List Byte :=
  b2 c.rating ++ b2 c.bandLow ++ b2 c.bandHigh ++ b1 c.muteTime ++ b1 c.tuneBase ++ b1 c.tuneRate ++ b1 c.ramp

/-- The latest telemetry with its age, as a reply carries them (R158). -/
def Telemetry.bytes (e : Env) (m : Telemetry) : List Byte :=
  b1 m.report.code ++ bOpt 2 (m.freq.map b2) ++ b2 m.forward ++ b2 m.reflected ++ b1 ((m.cause.map TripCause.code).getD 0) ++
  bOpt 1 (m.ack.map b1) ++ b2 (secondsSince e m.takenAt)

/-- A pending PRESET, as a reply carries it (R158). -/
def Preset.bytes (p : Preset) : List Byte := b2 p.freq ++ b1 p.programme ++ b2 p.power ++ bOpt 1 (p.number.map b1)

/-- READ_TRANSMITTER (R158). -/
def readTransmitterRule (p : List Byte) (s : State) : Verdict :=
  match below 16 (byteAt p 0) with
  | none => refuse .field
  | some t =>
    let l := s.hall.links.get t
    accept s (bOpt 10 ((s.env.tables.tx.get t).map TxCfg.bytes) ++ b1 l.state.code ++ b1 l.missed ++
      bOpt 13 (l.telemetry.map (Telemetry.bytes s.env)) ++ bOpt 7 (l.pending.map Preset.bytes) ++
      bOpt 3 (l.presetFreq.map fun f => b2 f ++ b1 l.presetProgramme) ++ bOpt 1 (l.tuneNumber.map b1) ++
      bOpt 1 (l.lastCarried.map b1))

def execReadTransmitter (p : List Byte) (s : State) : Host.Outcome State Fault Refusal :=
  .next (request (p.length == 1) anyMode (readTransmitterRule p) s)

end Sys2Proof.Machine
end

