-- ==== Sys2Proof/Machine/DriveLink.lean ====
section
/-! DEFINITION. The commands of the drive link and the matrix (Chapter 5). -/

namespace Sys2Proof.Machine

/-! Replies of the drive link (R114, R115, R121, R217, R218). -/

/-- What a drive reply reports. -/
inductive DriveResult where
  | opened | closed | mid | fault
  deriving DecidableEq, Repr

/-- A result code; one above 3 counts as FAULT (R218). -/
def driveResultOf : Nat → DriveResult
  | 0 => .opened | 1 => .closed | 2 => .mid | _ => .fault

/-- A good drive reply's crosspoint and result (R217, R218). -/
def driveReplyOf (l : List Byte) : Option (Xp × DriveResult) :=
  if frameGood 4 l then
    match below 16 (byteAt l 0), below 26 (byteAt l 1) with
    | some t, some r => some (⟨t, r⟩, driveResultOf (byteAt l 2))
    | _, _ => none
  else none

/-- The position a reply reports, none for MID and FAULT. -/
def DriveResult.position : DriveResult → Option Pos
  | .opened => some .opened
  | .closed => some .closed
  | .mid | .fault => none

/-- The move in flight ends with a reply (R114, R115). -/
def endMove (e : Env) (n : QEntry) (r : DriveResult) (h : Hall) : Hall :=
  if r.position = some n.dir.position then confirmMove e n h else failMove e .fault n h

/-- DRIVE_REPLY (R114, R115). A reply that fails its check or names another crosspoint is discarded (R218). -/
def execDriveReply (frame : List Byte) (s : State) : Host.Outcome State Fault Refusal :=
  .next (
    match s.hall.flying, driveReplyOf frame with
    | some n, some (x, r) =>
      if x = n.xp then conclude s false { s with hall := endMove s.env n r s.hall } else s
    | _, _ => s)

/-- TRAVEL_TIMEOUT (R115). -/
def execTravelTimeout (s : State) : Host.Outcome State Fault Refusal :=
  .next (
    match s.hall.flying with
    | some n =>
      let s' := s.passTo n.timeoutAt
      conclude s false { s' with hall := failMove s'.env .timeout n s'.hall }
    | none => s)

/-- A survey read has ended; the last one ends the survey and RUN is entered (R121, R122). -/
def endRead (x : Xp) (p : Option Pos) (before s : State) : State :=
  let h := applyRead s.env x p s.hall
  if s.env.mode = .survey ∧ h.surveyNext.isNone then
    let e := { s.env with mode := .run }
    conclude before true { s with env := e, hall := endSurvey e h }
  else conclude before false { s with hall := h }

/-- SURVEY_READ_REPLY (R121). -/
def execSurveyReadReply (frame : List Byte) (s : State) : Host.Outcome State Fault Refusal :=
  .next (
    match s.hall.reading, driveReplyOf frame with
    | some g, some (x, r) => if x = g.xp then endRead g.xp r.position s s else s
    | _, _ => s)

/-- SURVEY_READ_TIMEOUT (R121): no reply within 1 s counts as MID. -/
def execSurveyReadTimeout (s : State) : Host.Outcome State Fault Refusal :=
  .next (
    match s.hall.reading with
    | some g => endRead g.xp none s (s.passTo g.expiry)
    | none => s)

/-! Requests (R102, R117 to R120). -/

/-- The travel timeout after its clamps (R102). -/
def clampTimeout (travel timeout : Nat) : Nat := max (clampTo 2 60 timeout) (travel + 1)

/-- SET_MATRIX (R102). A travel timeout that is only raised over the expected travel is in the list of fields clamped
(log 48, DESIGN CHOICE). -/
def setMatrixRule (p : List Byte) (s : State) : Verdict :=
  let travel := clampTo 1 20 (byteAt p 0)
  let timeout := clampTimeout travel (byteAt p 1)
  let tables := { s.env.tables with expectedTravel := travel, travelTimeout := timeout }
  acceptEvent s false { s with env := { s.env with tables := tables } } fun _ =>
    b1 (bitSet [travel != byteAt p 0, timeout != byteAt p 1])

def execSetMatrix (p : List Byte) (s : State) : Host.Outcome State Fault Refusal :=
  .next (request (p.length == 2) configMode (setMatrixRule p) s)

/-- A crosspoint out of a column and a row byte. -/
def xpOf (column row : Nat) : Option Xp :=
  match below 16 column, below 26 row with
  | some t, some r => some ⟨t, r⟩
  | _, _ => none

/-- MOVE_CROSSPOINT (R118). -/
def moveCrosspointRule (p : List Byte) (s : State) : Verdict :=
  match xpOf (byteAt p 0) (byteAt p 1), dirOf (byteAt p 2) with
  | some x, some d =>
    if 4 ≤ s.hall.commanded then refuse .busy
    else if s.hall.res x.row = .exercise then refuse .busy
    else acceptEvent s false { s with hall := queueOp x d .command s.hall } fun s => b1 s.hall.commanded
  | _, _ => refuse .field

def execMoveCrosspoint (p : List Byte) (s : State) : Host.Outcome State Fault Refusal :=
  .next (request (p.length == 3) configMode (moveCrosspointRule p) s)

/-- A declared position (R219). -/
def declaredOf : Nat → Option Pos
  | 0 => some .opened
  | 1 => some .closed
  | _ => none

/-- The row stands in the way of a declared CLOSED (R117). -/
def Reservation.barsClosed (t : Tx) : Reservation → Bool
  | .free => false
  | .parked u => u != t
  | .claimed _ | .connected _ | .releasing | .exercise => true

/-- The BUSY conditions of a declaration (R117). -/
def clearBusy (e : Env) (h : Hall) (x : Xp) (closed : Bool) : Bool :=
  !rfOff e h x.tx || h.busyXp x ||
  (if closed then
    (otherXps x).any (fun y => (h.xp y).pos == .closed) || (h.res x.row).barsClosed x.tx
  else h.res x.row == .claimed x.tx || h.res x.row == .connected x.tx)

/-- A declared position is taken (R117). -/
def declarePos (x : Xp) (p : Pos) (h : Hall) : Hall :=
  let h := h.modXp x fun w => { w with pos := p, stuck := false, last := .none }
  match p with
  | .closed => reportRow x.row (h.setRes x.row (.parked x.tx))
  | .opened | .movingOpen | .movingClosed | .unknown =>
    if h.res x.row = .parked x.tx then settleRow x.row h else h

/-- CLEAR_CROSSPOINT (R117). -/
def clearCrosspointRule (p : List Byte) (s : State) : Verdict :=
  match xpOf (byteAt p 0) (byteAt p 1), declaredOf (byteAt p 2) with
  | some x, some pos =>
    if clearBusy s.env s.hall x (pos == .closed) then refuse .busy
    else acceptEvent s false { s with hall := declarePos x pos s.hall } fun s =>
      b1 (s.hall.xp x).pos.code ++ bBool (s.hall.rowBlocked x.row) ++ bBool (s.hall.columnBlocked x.tx)
  | _, _ => refuse .field

def execClearCrosspoint (p : List Byte) (s : State) : Host.Outcome State Fault Refusal :=
  .next (request (p.length == 3) anyMode (clearCrosspointRule p) s)

/-- The waiting list of a row, the earliest deadline first (R119). R119 gives no order for claims of equal deadline: the
claim of the lower transmitter stands first, as R106 orders them when a row is handed on (log 76, DESIGN CHOICE). -/
def Hall.waitingInOrder (h : Hall) (r : Row) : List Req :=
  sortBy (fun a b => a.deadline < b.deadline || (a.deadline == b.deadline && a.tx ≤ b.tx)) (h.rows.get r).waiting

/-- A waiting claim, as a reply carries it. -/
def Req.bytes (q : Req) : List Byte := b1 q.tx.val ++ bInstant q.deadline

/-- A crosspoint with the direction of an operation on it, as a reply carries them (R119): of two opposite ones (log 21)
the earlier arrival is shown (DESIGN CHOICE). -/
def xpBytes (h : Hall) (x : Xp) : List Byte :=
  let w := h.xp x
  b1 w.pos.code ++ bBool w.stuck ++ b2 (h.age x) ++ b1 w.last.code ++
  b1 (((h.queue.find? fun n => n.xp == x).map fun n => n.dir.code).getD 0)

/-- The items of a part of READ_ROW (R119). A row's owner and a column's connection are one byte, 0xFF with none, and have
no presence byte (log 7, DESIGN CHOICE). -/
def rowPart (e : Env) (h : Hall) (r : Row) : Nat → List Byte
  | 0 =>
    b1 (h.res r).code ++ bOrOnes ((h.res r).owner.map Fin.val) ++ bBool (h.rowBlocked r) ++ bBool (h.stray.get r) ++
    bBool (e.pins.rf.get r) ++ b1 (h.rows.get r).waiting.length ++ ((h.waitingInOrder r).take 8).flatMap Req.bytes
  | 1 => (((h.waitingInOrder r).drop 8).take 7).flatMap Req.bytes
  | 2 => ((rowXps r).take 8).flatMap (xpBytes h)
  | 3 => ((rowXps r).drop 8).flatMap (xpBytes h)
  | _ => (allFin 16).flatMap fun t => bOrOnes ((h.connection t).map Fin.val) ++ bBool (h.columnBlocked t)

/-- READ_ROW (R119). -/
def readRowRule (p : List Byte) (s : State) : Verdict :=
  match below 26 (byteAt p 0) with
  | none => refuse .field
  | some r =>
    if 4 < byteAt p 1 then refuse .field
    else accept s (b1 r.val ++ b1 (byteAt p 1) ++ rowPart s.env s.hall r (byteAt p 1))

def execReadRow (p : List Byte) (s : State) : Host.Outcome State Fault Refusal :=
  .next (request (p.length == 2) anyMode (readRowRule p) s)

/-- The requesters of an entry as a bit set: transmitters at bits 0 to 15, EXERCISE at 16, COMMAND at 17 (log 7). -/
def QEntry.requesters (n : QEntry) : Nat :=
  ((allFin 16).map fun t => (n.asks t).toNat * 2 ^ t.val).sum + n.exercise.toNat * 65536 +
  (n.commands != 0).toNat * 131072

/-- A work queue entry as a reply carries it (R109, R120). Its arrival is its place in the present queue, counted from 0
(log 7, DESIGN CHOICE). -/
def QEntry.bytes (n : QEntry) (order : Nat) : List Byte :=
  b1 n.xp.tx.val ++ b1 n.xp.row.val ++ b1 n.dir.code ++ b3 n.requesters ++ bOpt 5 (n.deadline.map bInstant) ++
  b1 order ++ bBool n.inFlight

/-- The survey progress, as a reply carries it: the next crosspoint to be read, or none. -/
def surveyBytes (h : Hall) : List Byte :=
  bOpt 2 (h.surveyNext.map fun i => b1 (xpAt i).tx.val ++ b1 (xpAt i).row.val)

/-- READ_QUEUE (R120). -/
def readQueueRule (p : List Byte) (s : State) : Verdict :=
  let start := byteAt p 0
  if 63 < start then refuse .field
  else
    accept s (b1 s.hall.queue.length ++ b1 s.hall.commanded ++
      ((s.hall.queue.zipIdx.drop start).take 4).flatMap (fun x => x.1.bytes x.2) ++ surveyBytes s.hall)

def execReadQueue (p : List Byte) (s : State) : Host.Outcome State Fault Refusal :=
  .next (request (p.length == 1) anyMode (readQueueRule p) s)

end Sys2Proof.Machine
end

