-- ==== Sys2Proof/Machine/PositionerLink.lean ====
section
/-! DEFINITION. The commands of the positioner link and of the antenna, load and group tables (Chapter 6). -/

namespace Sys2Proof.Machine

/-! The link (R133, R136). -/

/-- A cycle begins: every configured SLEW or ROTATABLE antenna is to be polled, and the first poll goes out (R133). One
that is made so in the course of the cycle is polled from the next cycle on (log 34, DESIGN CHOICE). -/
def beginPosCycle (s : State) : State :=
  let h := { s.hall with posPoll := (allFin 24).filter s.env.steers, posCycle := some s.env.elapsed }
  conclude s false { s with hall := nextPosPoll s.env h }

/-- POSITIONER_POLL_CYCLE (R133): 1 s after the cycle before began, or when that one has completed. While the link is
silent, while a cycle is under way, and while RESETn is held, none begins. -/
def execPositionerPollCycle (s : State) : Host.Outcome State Fault Refusal :=
  .next (
    if s.env.pins.resetHeld ∨ s.env.linksSilent ∨ !s.hall.posPoll.isEmpty then s
    else
      match s.hall.posCycle with
      | some b => beginPosCycle (s.passTo (b + 1000))
      | none => beginPosCycle s)

/-- The poll in progress has ended and the next one goes out (R133); a GO it carries makes its positioner MOVING (R135). -/
def endPosPoll (s : State) : State :=
  conclude s false { s with hall := nextPosPoll s.env { s.hall with posPoll := s.hall.posPoll.tail } }

/-- POSITIONER_REPLY (R133, R136). A reply with no poll out, or that fails its check, is not received. -/
def execPositionerReply (frame : List Byte) (s : State) : Host.Outcome State Fault Refusal :=
  .next (
    match s.hall.posPoll, posReplyOf frame with
    | a :: _, some r =>
      if r.ant = a ∧ s.env.steers a then
        endPosPoll (conclude s false { s with hall := applyPosReply s.env r s.hall })
      else s
    | _, _ => s)

/-- POSITIONER_REPLY_MISSED (R133). -/
def execPositionerReplyMissed (s : State) : Host.Outcome State Fault Refusal :=
  .next (
    match s.hall.posPoll with
    | a :: _ =>
      let h := if s.env.steers a then missPosReply s.env a s.hall else s.hall
      endPosPoll (conclude s false { s with hall := h })
    | [] => s)

/-- POSITIONER_TIMER_EXPIRY (R136): the timer runs while a GO is in force. -/
def execPositionerTimerExpiry (a : Ant) (s : State) : Host.Outcome State Fault Refusal :=
  .next (
    match (s.hall.pos.get a).go with
    | some g =>
      let s' := s.passTo g.expiry
      conclude s false { s' with hall := posTimeout s'.env a s'.hall }
    | none => s)

/-! SET_ANTENNA (R126, R127). -/

/-- The antenna types of a request (R219). -/
inductive AntType where
  | fixed | slew | rotatable
  deriving DecidableEq, Repr

def antTypeOf : Nat → Option AntType
  | 1 => some .fixed | 2 => some .slew | 3 => some .rotatable | _ => none

/-- The fields of a type as a request carries them, in the order of R126. -/
def antFields (p : List Byte) (k : AntType) : AntCfg :=
  { kind := match k with
      | .fixed => .fixed (wordAt p 9) (byteAt p 11)
      | .slew => .slew (wordAt p 9) (byteAt p 11) (byteAt p 12) (byteAt p 13)
      | .rotatable => .rotatable (wordAt p 9) (byteAt p 11) (byteAt p 12)
    bandLow := wordAt p 2, bandHigh := wordAt p 4, maxPower := wordAt p 6, tiltCount := byteAt p 8 }

/-- The boresight or stop azimuth of a kind. -/
def AntKind.bearing : AntKind → Nat
  | .fixed b _ => b
  | .slew b _ _ _ => b
  | .rotatable s _ _ => s

/-- The fields of a kind clamped to their ranges (R126, R127). -/
def AntKind.clamp : AntKind → AntKind
  | .fixed b d => .fixed b (clampTo 0 30 d)
  | .slew b w st tt => .slew b (clampTo 5 45 w) (clampTo 1 30 st) (clampTo 1 60 tt)
  | .rotatable s r tt => .rotatable s (clampTo 1 50 r) (clampTo 1 60 tt)

/-- The tilt count as stored: 1 for FIXED, else clamped (R127). -/
def AntKind.tiltCount (n : Nat) : AntKind → Nat
  | .fixed _ _ => 1
  | .slew _ _ _ _ | .rotatable _ _ _ => clampTo 1 4 n

/-- An entry clamped (R127). -/
def AntCfg.clamp (c : AntCfg) : AntCfg :=
  { kind := c.kind.clamp, bandLow := clampTo 2300 26100 c.bandLow, bandHigh := clampTo 2300 26100 c.bandHigh,
    maxPower := clampTo 10 600 c.maxPower, tiltCount := c.kind.tiltCount c.tiltCount }

/-- The fields of a kind that clamping changed, at the bits of R126's rows (log 8). -/
def AntKind.clamped : AntKind → Nat
  | .fixed _ d => (clampTo 0 30 d != d).toNat * 32
  | .slew _ w st tt =>
    (clampTo 5 45 w != w).toNat * 64 + (clampTo 1 30 st != st).toNat * 128 + (clampTo 1 60 tt != tt).toNat * 1024
  | .rotatable _ r tt => (clampTo 1 50 r != r).toNat * 512 + (clampTo 1 60 tt != tt).toNat * 1024

/-- The fields whose stored value differs from the requested one (R127). -/
def AntCfg.clamped (c : AntCfg) : Nat :=
  let d := c.clamp
  bitSet [c.bandLow != d.bandLow, c.bandHigh != d.bandHigh, c.maxPower != d.maxPower, c.tiltCount != d.tiltCount] +
  c.kind.clamped

/-- The antenna entry replaced, with a positioner record of its type (R127, R143). -/
def storeAnt (a : Ant) (cfg : Option AntCfg) (s : State) : State :=
  { s with
    env := { s.env with tables := { s.env.tables with ant := s.env.tables.ant.set a cfg } }
    hall := s.hall.modPos a fun _ => freshPos cfg }

/-- SET_ANTENNA (R127). -/
def setAntennaRule (p : List Byte) (s : State) : Verdict :=
  match below 24 (byteAt p 0), antTypeOf (byteAt p 1) with
  | none, _ => refuse .field
  | some a, none =>
    if byteAt p 1 ≠ 0 then refuse .field
    else if (s.hall.pos.get a).state = .moving then refuse .busy
    else acceptEvent s true (storeAnt a none s) fun _ => b2 0
  | some a, some k =>
    let raw := antFields p k
    if 359 < raw.kind.bearing then refuse .field
    else if (s.hall.pos.get a).state = .moving then refuse .busy
    else if raw.clamp.bandHigh < raw.clamp.bandLow then refuse .field
    else acceptEvent s true (storeAnt a (some raw.clamp) s) fun _ => b2 raw.clamped

/-- The length of SET_ANTENNA by its type; 2 for a type code that is assigned to none, as with NONE (log 7, DESIGN
CHOICE). -/
def setAntennaLength (p : List Byte) : Bool :=
  p.length == match antTypeOf (byteAt p 1) with
    | some .fixed => 12
    | some .slew => 14
    | some .rotatable => 13
    | none => 2

def execSetAntenna (p : List Byte) (s : State) : Host.Outcome State Fault Refusal :=
  .next (request (setAntennaLength p) configMode (setAntennaRule p) s)

/-! Loads, clearing, groups (R128, R139, R141). -/

/-- SET_LOAD (R128). -/
def setLoadRule (p : List Byte) (s : State) : Verdict :=
  match (below 26 (byteAt p 0)).bind rowLoad with
  | none => refuse .field
  | some l =>
    let power := clampTo 10 600 (wordAt p 1)
    let tables := { s.env.tables with load := s.env.tables.load.set l power }
    acceptEvent s true { s with env := { s.env with tables := tables } } fun _ => b1 (bitSet [power != wordAt p 1])

def execSetLoad (p : List Byte) (s : State) : Host.Outcome State Fault Refusal :=
  .next (request (p.length == 3) configMode (setLoadRule p) s)

/-- A positioner's state and last reported position, as a reply carries them (R139, R142): azimuth and tilt are two items
that may be absent (log 7, DESIGN CHOICE). -/
def PosRec.bytes (p : PosRec) : List Byte := b1 p.state.code ++ bOpt 2 (p.azimuth.map b2) ++ bOpt 1 (p.tilt.map b1)

/-- A positioner fault is cleared (R139). -/
def clearPos (p : PosRec) : PosRec := if p.state = .fault then { p with state := .idle, missed := 0 } else p

/-- CLEAR_POSITIONER (R139). -/
def clearPositionerRule (p : List Byte) (s : State) : Verdict :=
  match below 24 (byteAt p 0) with
  | none => refuse .field
  | some a => acceptEvent s false { s with hall := s.hall.modPos a clearPos } fun s => (s.hall.pos.get a).bytes

def execClearPositioner (p : List Byte) (s : State) : Host.Outcome State Fault Refusal :=
  .next (request (p.length == 1) anyMode (clearPositionerRule p) s)

/-- The antennas of a list of bytes; none when one of them is no antenna (R141). -/
def antList : List Byte → Option (List Ant)
  | [] => some []
  | v :: l =>
    match below 24 v.toNat, antList l with
    | some a, some r => some (a :: r)
    | _, _ => none

/-- No antenna appears twice (R141). -/
def distinct : List Ant → Bool
  | [] => true
  | a :: l => !l.contains a && distinct l

/-- SET_GROUP (R141). -/
def setGroupRule (p : List Byte) (s : State) : Verdict :=
  match below 8 (byteAt p 0), antList (p.drop 1) with
  | some g, some l =>
    if distinct l then
      let tables := { s.env.tables with group := s.env.tables.group.set g l }
      acceptEvent s true { s with env := { s.env with tables := tables } } fun _ => []
    else refuse .field
  | _, _ => refuse .field

def execSetGroup (p : List Byte) (s : State) : Host.Outcome State Fault Refusal :=
  .next (request (2 ≤ p.length && p.length ≤ 7) anyMode (setGroupRule p) s)

/-! Reading (R142). -/

/-- Bytes filled up with zeros to a length. -/
def padTo (n : Nat) (l : List Byte) : List Byte := l ++ List.replicate (n - l.length) 0

/-- An antenna entry: its type and its fields as SET_ANTENNA carries them, filled up with zeros (R142, log 7). -/
def antEntryBytes : Option AntCfg → List Byte
  | none => padTo 13 []
  | some c =>
    let common := b2 c.bandLow ++ b2 c.bandHigh ++ b2 c.maxPower ++ b1 c.tiltCount
    padTo 13 (match c.kind with
      | .fixed b d => b1 1 ++ common ++ b2 b ++ b1 d
      | .slew b w st tt => b1 2 ++ common ++ b2 b ++ b1 w ++ b1 st ++ b1 tt
      | .rotatable s r tt => b1 3 ++ common ++ b2 s ++ b1 r ++ b1 tt)

/-- The requester and target of a stored request, else of a GO in force (R142). A GO that has lost its requester (R138) is
written with requester byte 0xFF and its target (log 7, DESIGN CHOICE). -/
def PosRec.requestBytes (p : PosRec) : List Byte :=
  bOpt 5 (match p.request, p.go with
    | some q, _ => some (b1 q.tx.val ++ bOpt 2 (q.azimuth.map b2) ++ b1 q.tilt)
    | none, some g => some (bOrOnes (g.tx.map Fin.val) ++ bOpt 2 (some (b2 g.azimuth)) ++ b1 g.tilt)
    | none, none => none)

/-- READ_ANTENNA of an antenna (R142); the seconds left are absent while no timer runs (R132, R212). -/
def antennaBytes (e : Env) (h : Hall) (a : Ant) : List Byte :=
  let p := h.pos.get a
  antEntryBytes (e.tables.ant.get a) ++ p.bytes ++ p.requestBytes ++ bBool (p.go.any GoRec.outstanding) ++
  bBool p.stopOutstanding ++ bOpt 2 (p.go.map fun g => b2 (secondsLeft e g.expiry))

/-- READ_ANTENNA (R142). -/
def readAntennaRule (p : List Byte) (s : State) : Verdict :=
  match below 26 (byteAt p 0) with
  | none => refuse .field
  | some r =>
    match rowAnt r, rowLoad r with
    | some a, _ => accept s (antennaBytes s.env s.hall a)
    | none, some l => accept s (b2 (s.env.tables.load.get l))
    | none, none => refuse .field

def execReadAntenna (p : List Byte) (s : State) : Host.Outcome State Fault Refusal :=
  .next (request (p.length == 1) anyMode (readAntennaRule p) s)

/-- A group's members in six places, 0xFF where there is none (log 7). -/
def groupBytes (l : List Ant) : List Byte :=
  (l.map fun a => BitVec.ofNat 8 a.val) ++ List.replicate (6 - l.length) 0xFF

/-- READ_GROUPS (R142). -/
def readGroupsRule (s : State) : Verdict := accept s (s.env.tables.group.cells.flatMap groupBytes)

def execReadGroups (p : List Byte) (s : State) : Host.Outcome State Fault Refusal :=
  .next (request (p.length == 0) anyMode readGroupsRule s)

end Sys2Proof.Machine
end

