-- ==== Sys2Proof/Machine/ProtectionCommands.lean ====
section
/-! DEFINITION. The commands of the protection unit (Chapter 8) and the RF sense inputs. -/

namespace Sys2Proof.Machine

/-! RF sense (R113, R137, R179). -/

/-- RF sensed on the row of the move in flight is noted (R113). -/
def noteRf (r : Row) (h : Hall) : Hall :=
  match h.flying with
  | some n => if n.xp.row = r then h.modXp n.xp fun w => { w with rfSeen := true } else h
  | none => h

/-- The level of a row's RF sense input. -/
def State.setRf (s : State) (r : Row) (sensed : Bool) : State :=
  { s with env := { s.env with pins := { s.env.pins with rf := s.env.pins.rf.set r sensed } } }

/-- RF_SENSE_CHANGE (R113, R137, R179). While RESETn is held only the level follows. -/
def execRfSenseChange (r : Row) (sensed : Bool) (s : State) : Host.Outcome State Fault Refusal :=
  let s' := s.setRf r sensed
  .next (
    if s.env.pins.resetHeld then s'
    else
      let h := if sensed ∧ !s.env.pins.rf.get r then rfStop r (noteRf r s.hall) else s.hall
      conclude s false { s' with hall := h })

/-- The instant at which a transmitter's cover after a drop ends, 0 when it covers nothing (R179). -/
def coverEnds (e : Env) (h : Hall) (t : Tx) : Nat :=
  match (h.gates.get t).lastDrop with
  | some d => d + (e.muteTime t + 10) * 1000
  | none => 0

/-- The transmitters that cover a row. -/
def coverers (e : Env) (h : Hall) (r : Row) : List Tx :=
  (allFin 16).filter fun t => !h.isOpen ⟨t, r⟩ && covers e h t

/-- COVER_END (R179): the elapsed base passes to the end of the row's cover, and the guard examines the row. A cover that
time has brought to its end already leaves the examination; a cover by a high line does not end so. -/
def execCoverEnd (r : Row) (s : State) : Host.Outcome State Fault Refusal :=
  let l := coverers s.env s.hall r
  .next (
    if s.env.pins.resetHeld ∨ l.any fun t => (s.hall.gates.get t).line then s
    else
      let ends := (l.map (coverEnds s.env s.hall)).foldl max 0
      conclude s false (s.passTo ends))

/-! SET_PROTECTION (R167). -/

/-- SET_PROTECTION (R167). -/
def setProtectionRule (p : List Byte) (s : State) : Verdict :=
  let fold := clampTo 10 300 (wordAt p 1)
  let warn := min (clampTo 5 200 (byteAt p 0)) fold
  let pause := clampTo 2 30 (byteAt p 3)
  let tables := { s.env.tables with warnLevel := warn, foldStart := fold, pause := pause }
  acceptEvent s false { s with env := { s.env with tables := tables } } fun _ =>
    b1 (bitSet [warn != byteAt p 0, fold != wordAt p 1, pause != byteAt p 3])

def execSetProtection (p : List Byte) (s : State) : Host.Outcome State Fault Refusal :=
  .next (request (p.length == 4) configMode (setProtectionRule p) s)

/-! Units (R173 to R175). -/

/-- A request on a unit that is in a given service state, else BUSY; any other value is FIELD. -/
def unitRule (p : List Byte) (wanted : Service) (f : UnitRec → UnitRec) (s : State) : Verdict :=
  match unitOf (byteAt p 0) with
  | none => refuse .field
  | some u =>
    if (s.hall.unit u).service ≠ wanted then refuse .busy
    else
      let r := f (s.hall.unit u)
      acceptEvent s true { s with hall := s.hall.setUnit u r } fun _ => b1 r.service.code

/-- RESTORE (R173). -/
def execRestore (p : List Byte) (s : State) : Host.Outcome State Fault Refusal :=
  .next (request (p.length == 1) anyMode
    (unitRule p .barred fun _ => { score := 0, service := .proving, provingMinutes := 0 }) s)

/-- A unit is taken out (R174). -/
def takeOutUnit (e : Env) (u : HallUnit) (h : Hall) : Hall :=
  if (h.unit u).service = .out then h
  else strikeUnit e u .out none (h.setUnit u { h.unit u with service := .out, provingMinutes := 0 })

/-- TAKE_OUT (R174). -/
def takeOutRule (p : List Byte) (s : State) : Verdict :=
  match unitOf (byteAt p 0) with
  | none => refuse .field
  | some u => acceptEvent s false { s with hall := takeOutUnit s.env u s.hall } fun _ => []

def execTakeOut (p : List Byte) (s : State) : Host.Outcome State Fault Refusal :=
  .next (request (p.length == 1) anyMode (takeOutRule p) s)

/-- RETURN (R175). -/
def execReturn (p : List Byte) (s : State) : Host.Outcome State Fault Refusal :=
  .next (request (p.length == 1) anyMode (unitRule p .out fun r => { r with service := serviceOf r.score }) s)

/-! Proving runs (R176, R177). -/

/-- The BUSY conditions of PROVE (R176). -/
def proveBusy (e : Env) (h : Hall) (t : Tx) (row : Row) : Bool :=
  !(h.txUnit.get t).service.permits || (h.links.get t).state != .active || (h.ctx.get t).state != .idle ||
  h.res row != .free || h.rowBlocked row || h.stray.get row ||
  e.due.any fun d => d.tx == t && d.beginAt < e.now + 1500

/-- A proving run starts (R97, R176). Its record shows the result NONE until the run ends, whatever an earlier run left
there (log 67, DESIGN CHOICE). -/
def startRun (e : Env) (t : Tx) (row : Row) (h : Hall) : Hall :=
  let run : RunRec := { running := true, load := some row, minutes := 0, startedAt := e.now, result := .none }
  beginHeld e t (store e t (.proving row) e.now { h with runs := h.runs.set t run })

/-- PROVE (R176): the fields are checked before the mode. The reply gives the power computed as the run is taken, whatever
becomes of the run in the same event. -/
def proveRule (p : List Byte) (s : State) : Verdict :=
  match below 16 (byteAt p 0), (below 26 (byteAt p 1)).bind rowLoad with
  | some t, some l =>
    if s.env.mode ≠ .run then refuse .mode
    else if !s.env.txConfigured t then refuse .notReady
    else if proveBusy s.env s.hall t (loadRow l) then refuse .busy
    else
      let h := startRun s.env t (loadRow l) s.hall
      acceptEvent s true { s with hall := h } fun _ => b2 ((h.power.get t).requested.getD 0)
  | _, _ => refuse .field

def execProve (p : List Byte) (s : State) : Host.Outcome State Fault Refusal :=
  .next (request (p.length == 2) anyMode (proveRule p) s)

/-- STOP_PROVE (R177). -/
def stopProveRule (p : List Byte) (s : State) : Verdict :=
  match below 16 (byteAt p 0) with
  | none => refuse .field
  | some t =>
    let c := s.hall.ctx.get t
    if c.run.isSome && c.state.working then
      acceptEvent s false { s with hall := enterEnding s.env t (endRun t .stopped s.hall) } fun _ =>
        b1 Indication.noIndication.code
    else accept s (b1 Indication.none.code)

def execStopProve (p : List Byte) (s : State) : Host.Outcome State Fault Refusal :=
  .next (request (p.length == 1) anyMode (stopProveRule p) s)

/-! CLEAR_STRAY and READ_PROTECTION (R181, R183). -/

/-- CLEAR_STRAY (R181). -/
def clearStrayRule (p : List Byte) (s : State) : Verdict :=
  match below 26 (byteAt p 0) with
  | none => refuse .field
  | some r =>
    if s.env.pins.rf.get r then refuse .busy
    else acceptEvent s false { s with hall := { s.hall with stray := s.hall.stray.set r false } } fun _ => []

def execClearStray (p : List Byte) (s : State) : Host.Outcome State Fault Refusal :=
  .next (request (p.length == 1) anyMode (clearStrayRule p) s)

/-- A unit's protection record, as a reply carries it. -/
def UnitRec.bytes (r : UnitRec) : List Byte := b1 r.score ++ b1 r.service.code ++ b1 r.provingMinutes

/-- A proving run record, as a reply carries it. The load is one byte, 0xFF when there is none, with no presence byte
(log 7, DESIGN CHOICE). -/
def RunRec.bytes (r : RunRec) : List Byte :=
  bBool r.running ++ bOrOnes (r.load.map Fin.val) ++ b1 r.minutes ++ r.result.bytes

/-- What READ_PROTECTION holds of a transmitter (R183). P1 and P2 are two items: each is absent behind a presence byte of
its own when the context holds nothing (log 7, DESIGN CHOICE). -/
def txProtectionBytes (e : Env) (h : Hall) (t : Tx) : List Byte :=
  let g := h.gates.get t
  let w := h.power.get t
  (h.txUnit.get t).bytes ++ bBool g.request ++ bBool g.line ++ bOpt 2 (g.lastDrop.map fun d => b2 (secondsSince e d)) ++
  bOpt 2 (w.requested.map b2) ++ bOpt 2 ((plainLimit e h t).map b2) ++ bOpt 2 ((serviceLimit e h t).map b2) ++
  bOpt 2 (w.level.map b2) ++ bOpt 5 (w.returnStart.map bInstant) ++ bOpt 2 (w.lastRatio.map b2) ++ (h.runs.get t).bytes

/-- READ_PROTECTION (R183); ANY reads the settings of R167. -/
def readProtectionRule (p : List Byte) (s : State) : Verdict :=
  if byteAt p 0 = 0xFF then
    accept s (b1 s.env.tables.warnLevel ++ b2 s.env.tables.foldStart ++ b1 s.env.tables.pause)
  else
    match unitOf (byteAt p 0) with
    | none => refuse .field
    | some (.ant a) => accept s (s.hall.antUnit.get a).bytes
    | some (.tx t) => accept s (txProtectionBytes s.env s.hall t)

def execReadProtection (p : List Byte) (s : State) : Host.Outcome State Fault Refusal :=
  .next (request (p.length == 1) anyMode (readProtectionRule p) s)

end Sys2Proof.Machine
end

