-- ==== Sys2Proof/Machine/Modes.lean ====
section
/-! DEFINITION. The exercise requests (Chapter 9), the resets and mode lines, the mode requests (10.4), the notice
requests and READ_STATUS (10.5, 10.6). -/

namespace Sys2Proof.Machine

/-! The exercise unit's requests (R186, R193, R195, R196). -/

/-- SET_EXERCISE (R186). -/
def setExerciseRule (p : List Byte) (s : State) : Verdict :=
  let v := wordAt p 0
  accept { s with env := { s.env with tables := { s.env.tables with interval := min v 720 } } } (b1 (bitSet [720 < v]))

def execSetExercise (p : List Byte) (s : State) : Host.Outcome State Fault Refusal :=
  .next (request (p.length == 2) anyMode (setExerciseRule p) s)

/-- The sweep record when a sweep starts (R193). -/
def Sweep.started : Sweep :=
  { state := .running, next := some 0, exercised := 0, newlyStuck := 0, skipped := 0, result := .none }

/-- START_SWEEP (R193). -/
def startSweepRule (s : State) : Verdict :=
  if s.hall.sweep.state ≠ .idle ∨ s.hall.exercise.phase ≠ .idle then refuse .busy
  else acceptEvent s false { s with hall := sweepReach s.env { s.hall with sweep := Sweep.started } } fun _ => []

def execStartSweep (p : List Byte) (s : State) : Host.Outcome State Fault Refusal :=
  .next (request (p.length == 0) configMode (startSweepRule) s)

/-- The exercise's close that has not been sent yet. -/
def Hall.unsentClose (h : Hall) : Option QEntry := h.queue.find? fun n => n.exercise && n.dir == .close && !n.inFlight

/-- The exercise of a sweep is withdrawn before its close is sent: the crosspoint is counted as skipped and the sweep
ends STOPPED (R195). No exercise result is written (log 14). -/
def withdrawExercise (n : QEntry) (h : Hall) : Hall :=
  let m := { n with exercise := false }
  let h := if m.wanted then h.modEntry n.arrival fun _ => m else (h.dropEntry n.arrival).setLast n.xp .withdrawn
  let h := { h with exercise := { h.exercise with phase := .idle }
                    sweep := { h.sweep with skipped := h.sweep.skipped + 1 } }
  endSweep .stopped (settleRow n.xp.row (h.setRes n.xp.row .free))

/-- STOP_SWEEP (R195). -/
def stopSweepRule (s : State) : Verdict :=
  match s.hall.sweep.state, s.hall.unsentClose with
  | .running, some n =>
    acceptEvent s false { s with hall := withdrawExercise n s.hall } fun _ => b1 Indication.noIndication.code
  | .running, none =>
    accept { s with hall := { s.hall with sweep := { s.hall.sweep with state := .stopping } } }
      (b1 Indication.noIndication.code)
  | .stopping, _ | .idle, _ => accept s (b1 Indication.none.code)

def execStopSweep (p : List Byte) (s : State) : Host.Outcome State Fault Refusal :=
  .next (request (p.length == 0) anyMode stopSweepRule s)

/-- A crosspoint, as a reply carries it. -/
def xpPair (x : Xp) : List Byte := b1 x.tx.val ++ b1 x.row.val

/-- The exercise record, as a reply carries it; crosspoint and origin are absent while the phase is IDLE (R187, R212). -/
def Exercise.bytes (x : Exercise) : List Byte :=
  b1 x.phase.code ++ bOpt 3 (if x.phase = .idle then none else some (xpPair x.xp ++ b1 x.origin.code)) ++ bOpt 5 (x.last.map fun l => xpPair l.xp ++ b1 l.origin.code ++ l.result.bytes)

/-- The sweep record, as a reply carries it. -/
def Sweep.bytes (w : Sweep) : List Byte :=
  b1 w.state.code ++ bOpt 2 (w.next.map fun i => xpPair (xpAt i)) ++ b2 w.exercised ++ b2 w.newlyStuck ++ b2 w.skipped ++
  b1 w.result.code

/-- READ_SWEEP (R196). -/
def readSweepRule (s : State) : Verdict :=
  accept s (b2 s.env.tables.interval ++ s.hall.exercise.bytes ++ s.hall.sweep.bytes)

def execReadSweep (p : List Byte) (s : State) : Host.Outcome State Fault Refusal :=
  .next (request (p.length == 0) anyMode readSweepRule s)

/-! What a change of mode does to the hall (R95, R123, R124, R140, R195, R201). -/

/-- A sweep is aborted (R195). The exercise in progress is counted when it ends. -/
def abortSweep (h : Hall) : Hall := if h.sweep.state = .idle then h else endSweep .aborted h

/-- The survey is aborted: no further read is sent (R123). -/
def abortSurvey (h : Hall) : Hall := { h with surveyNext := none }

/-- Every waiting list is emptied (R124). -/
def emptyWaiting (h : Hall) : Hall := { h with rows := h.rows.map fun w => { w with waiting := [] } }

/-- The matrix controller's STOP: every queued entry fails with MODE, the operation in flight completes (R124). -/
def stopMatrix (e : Env) (h : Hall) : Hall :=
  let gone := h.queue.filter fun n => !n.inFlight
  emptyWaiting (failEntries e .mode gone { h with queue := h.queue.filter fun n => n.inFlight })

/-- Every crosspoint takes position UNKNOWN, keeping STUCK (R124). -/
def forgetPositions (h : Hall) : Hall := { h with xps := h.xps.map fun w => w.map fun x => { x with pos := .unknown } }

/-- The matrix controller's LOCAL: the operation in flight is abandoned with the rest of the queue (R124). Its last result
is MODE like that of the queued ones, which R124 gives for the queued alone (log 56, DESIGN CHOICE). -/
def localMatrix (e : Env) (h : Hall) : Hall :=
  emptyWaiting (failEntries e .mode h.queue (forgetPositions { h with queue := [] }))

/-- Every context is halted (R95). -/
def haltAll (e : Env) (h : Hall) : Hall := (allFin 16).foldl (fun h t => haltContext e t h) h

/-- The hall when STOP is entered (R202). -/
def stopHall (e : Env) (h : Hall) : Hall :=
  stopPositioners (haltAll e (stopMatrix e (abortSurvey (abortSweep (lowerAll e h)))))

/-- The hall when LOCAL is entered, or the key is turned in STOP (R203). -/
def localHall (e : Env) (h : Hall) : Hall :=
  localPositioners e (haltAll e (localMatrix e (abortSurvey (abortSweep (lowerAll e h)))))

/-- A state in another mode. -/
def State.inMode (s : State) (m : Mode) : State := { s with env := { s.env with mode := m } }

/-- The end of a mode line's event. While RESETn is held the part keeps the values of the reset (R200), and no line is
high. -/
def concludeLine (before s : State) : State :=
  if s.env.pins.resetHeld then { s with hall := lowerFailed s.env s.hall } else conclude before false s

/-- HALLSTOP is asserted (R162, R202): STOP is entered from any other mode; the notice is raised each time. -/
def takeHallstop (s : State) : State :=
  let s := { s with hall := raiseNotice .hallStop (lowerAll s.env s.hall) }
  if s.env.mode = .stop then s
  else
    let s' := s.inMode .stop
    { s' with hall := stopHall s'.env s'.hall }

/-- LOCAL is asserted (R203). -/
def takeLocal (s : State) : State :=
  match s.env.mode with
  | .localKey => s
  | .stop => { s with hall := localHall s.env s.hall }
  | .config | .survey | .run =>
    let s' := s.inMode .localKey
    { s' with hall := localHall s'.env s'.hall }

/-- The pins of a state changed. -/
def State.modPins (s : State) (f : Pins → Pins) : State := { s with env := { s.env with pins := f s.env.pins } }

/-- HALLSTOP_ASSERT (R162, R202). -/
def execHallstopAssert (s : State) : Host.Outcome State Fault Refusal :=
  .next (concludeLine s (takeHallstop (s.modPins fun p => { p with hallstop := true })))

/-- HALLSTOP_RELEASE (R202): it changes no mode. -/
def execHallstopRelease (s : State) : Host.Outcome State Fault Refusal :=
  .next (s.modPins fun p => { p with hallstop := false })

/-- LOCAL_ASSERT (R203). -/
def execLocalAssert (s : State) : Host.Outcome State Fault Refusal :=
  .next (concludeLine s (takeLocal (s.modPins fun p => { p with localKey := true })))

/-- LOCAL_RELEASE (R203): it changes no mode. -/
def execLocalRelease (s : State) : Host.Outcome State Fault Refusal :=
  .next (s.modPins fun p => { p with localKey := false })

/-! Resets (R200 and the reset rule of each block). -/

/-- HALLSTOP and LOCAL are examined after a reset (R200). -/
def examineLines (s : State) : State :=
  if s.env.pins.hallstop then takeHallstop s else if s.env.pins.localKey then takeLocal s else s

/-- POWER_UP (R200): every block at its power-up value, the inputs as the hall holds them (log 3). -/
def execPowerUp (s : State) : Host.Outcome State Fault Refusal :=
  let fresh : State := { env := Env.powerUp s.env.pins, port := Port.powerUp, hall := Hall.powerUp, pending := s.pending }
  .next (conclude fresh false (examineLines fresh))

/-- The clock after a hall reset (R2). -/
def Clock.hallReset (elapsed : Nat) (c : Clock) : Clock :=
  match c.markState with
  | .off => c
  | .waiting | .locked | .lost => { c with markState := .waiting, markWatch := some (elapsed + 3000) }

/-- Time, banks, mode and inputs after a hall reset (R2, R9, R200); the due list is emptied without outcomes (R50). -/
def Env.hallReset (e : Env) : Env :=
  { e with clock := e.clock.hallReset e.elapsed, banks := { e.banks with freeze := false }, mode := .config,
           pins := { e.pins with resetHeld := true }, due := [] }

/-- The sweep record after a hall reset (R193, R195): a crosspoint whose exercise is abandoned counts as skipped. The counts
of a sweep that has ended already stand, also when an exercise it left under way is abandoned now (log 59, DESIGN
CHOICE). A sweep that is STOPPING is taken as a running one: it ends ABORTED, not STOPPED (log 74, DESIGN CHOICE). -/
def Sweep.hallReset (x : Exercise) (w : Sweep) : Sweep :=
  match w.state with
  | .idle => { w with next := none }
  | .running | .stopping =>
    { w with state := .idle, next := none, result := .aborted
             skipped := if x.phase ≠ .idle ∧ x.origin = .sweep then w.skipped + 1 else w.skipped }

/-- A proving run record after a hall reset (R184). -/
def RunRec.hallReset (r : RunRec) : RunRec := if r.running then { r with running := false, result := .halted } else r

/-- A crosspoint after a hall reset (R125). Its table names no value for RF seen: it is no again (log 70, DESIGN CHOICE). -/
def XpRec.hallReset (x : XpRec) : XpRec := { XpRec.powerUp with stuck := x.stuck }

/-- Every occurrence in flight is finished (R43), then every block takes its hall-reset values (R43, R65, R67, R125,
R143, R159, R184, R185, R187, R193, R206). The notices that the outcomes raise are events of the reset: they
come after the clearing of the flags and stand (R96, R206). -/
def Hall.hallReset (e : Env) (h : Hall) : Hall :=
  let done := haltAll e { h with flags := 0 }
  { Hall.powerUp with
    flags := done.flags
    slots := done.slots
    lastOutcome := done.lastOutcome
    xps := h.xps.map fun w => w.map XpRec.hallReset
    ages := h.ages
    sweep := h.sweep.hallReset h.exercise
    pos := Tab.build 24 fun a => freshPos (e.tables.ant.get a)
    txUnit := h.txUnit
    antUnit := h.antUnit
    runs := h.runs.map RunRec.hallReset
    stray := h.stray
    enables := h.enables
    routes := h.routes }

/-- The port after a hall reset: the buffer is empty and a frame in progress will be discarded (R198). What remains of a
period is the empty indication from its first byte on, counted from the first whole byte after the reset (log 75, DESIGN
CHOICE). -/
def Port.hallReset (p : Port) : Port :=
  { buffer := none, selected := p.selected, shifting := if p.selected then some (b1 0xFF ++ b1 0) else none,
    discard := p.selected }

/-- The due list is rebuilt at once when the valid flag is found set, after the records' standings (R43, R50). -/
def rebuildAfterReset (s : State) : State :=
  if s.env.clock.valid then rebuildDue { s with hall := restandAll s.env s.hall } else s

/-- HALL_RESET (R200). -/
def execHallReset (s : State) : Host.Outcome State Fault Refusal :=
  let e := s.env.hallReset
  let fresh : State := { env := e, port := s.port.hallReset, hall := s.hall.hallReset e, pending := s.pending }
  let s' := examineLines (rebuildAfterReset fresh)
  .next (conclude fresh false s')

/-- HALL_RESET_RELEASE (R198): RESETn is released and the part goes on from the values of the reset. -/
def execHallResetRelease (s : State) : Host.Outcome State Fault Refusal :=
  .next (conclude s false (s.modPins fun p => { p with resetHeld := false }))

/-! GO RUN and GO CONFIG (R204, R205). -/

/-- STOP and LOCAL are not left while a mode line is asserted (R204, R205). -/
def lineHolds (e : Env) : Bool :=
  (e.mode == .stop || e.mode == .localKey) && (e.pins.hallstop || e.pins.localKey)

/-- Some crosspoint is UNKNOWN and not STUCK (R204). -/
def Hall.unread (h : Hall) : Bool := ((allFin 416).map xpAt).any fun x => (h.xp x).pos == .unknown && !(h.xp x).stuck

/-- The mode GO RUN enters (R204). -/
def runEntry (m : Mode) (h : Hall) : Mode := if m = .localKey ∨ h.unread then .survey else .run

/-- A queued COMMAND entry not in flight fails with MODE; one that others ask for too loses its commands (R124, log 15). -/
def failCommand (e : Env) (h : Hall) (n : QEntry) : Hall :=
  let m := { n with commands := 0 }
  if m.wanted then h.modEntry n.arrival fun _ => m else failEntry e .mode n h

/-- The mode leaves CONFIG (R124). -/
def leaveConfig (e : Env) (h : Hall) : Hall :=
  (h.queue.filter fun n => !n.inFlight && n.commands != 0).foldl (failCommand e) h

/-- What GO RUN leaves behind in the hall, by the mode left and the mode entered (R95, R121, R124, R204). -/
def leaveFor (left : Mode) (e : Env) (h : Hall) : Hall :=
  let h := match left with
    | .config => leaveConfig e h
    | .stop | .localKey => unhalt h
    | .survey | .run => h
  if e.mode = .survey then { h with surveyNext := some 0 } else h

/-- GO_RUN (R204). -/
def goRunRule (s : State) : Verdict :=
  if lineHolds s.env then refuse .mode
  else if !s.env.clock.valid || !(allFin 16).any s.env.txConfigured then refuse .notReady
  else if s.hall.sweep.state ≠ .idle then refuse .busy
  else
    let s' := s.inMode (runEntry s.env.mode s.hall)
    acceptEvent s true { s' with hall := leaveFor s.env.mode s'.env s'.hall } fun s => b1 s.env.mode.code

/-- The modes GO RUN is taken in (10.3). -/
def goRunMode : Mode → Bool
  | .config | .localKey | .stop => true
  | .survey | .run => false

def execGoRun (p : List Byte) (s : State) : Host.Outcome State Fault Refusal :=
  .next (request (p.length == 0) goRunMode goRunRule s)

/-- The contexts that GO CONFIG with force aborts (R205). -/
def Hall.workingCount (h : Hall) : Nat := h.ctx.cells.countP fun c => c.state.working

/-- One context when GO CONFIG with force is taken in RUN (R205). -/
def forceContext (e : Env) (h : Hall) (t : Tx) : Hall :=
  dropKept e t .aborted .mode (takeBack e t .aborted (some .mode) e.now h)

/-- What GO CONFIG leaves behind in the hall, by the mode left (R95, R123, R160, R205). -/
def configFrom (left : Mode) (e : Env) (h : Hall) : Hall :=
  match left with
  | .run => (allFin 16).foldl (forceContext e) (lowerAll e h)
  | .survey => abortSurvey h
  | .stop | .localKey => unhalt h
  | .config => h

/-- GO_CONFIG (R205). A force byte that is neither yes nor no is refused with FIELD after the MODE of a mode that does not
take the request, and before the MODE of a mode line that is asserted (logs 16, 61). -/
def goConfigRule (p : List Byte) (s : State) : Verdict :=
  match yesNoAt p 0 with
  | none => refuse .field
  | some force =>
    if lineHolds s.env then refuse .mode
    else if s.env.mode = .run ∧ !force ∧ s.hall.ctx.cells.any fun c => c.state != .idle then refuse .busy
    else
      let s' := s.inMode .config
      let aborted := if s.env.mode = .run then s.hall.workingCount else 0
      acceptEvent s true { s' with hall := configFrom s.env.mode s'.env s'.hall } fun _ => b1 aborted

/-- The modes GO CONFIG is taken in (10.3). -/
def goConfigMode : Mode → Bool
  | .survey | .run | .localKey | .stop => true
  | .config => false

def execGoConfig (p : List Byte) (s : State) : Host.Outcome State Fault Refusal :=
  .next (request (p.length == 1) goConfigMode (goConfigRule p) s)

/-! Notices and status (R208 to R210). -/

/-- A flag set names only the 22 flags (R212). -/
def flagSetOk (v : Nat) : Bool := decide (v < 2 ^ 22)

/-- SET_NOTICES (R208). -/
def setNoticesRule (p : List Byte) (s : State) : Verdict :=
  if flagSetOk (tripleAt p 0) && flagSetOk (tripleAt p 3) then
    let h := { s.hall with enables := BitVec.ofNat 22 (tripleAt p 0), routes := BitVec.ofNat 22 (tripleAt p 3) }
    accept { s with hall := h } (lineLevels h)
  else refuse .field

def execSetNotices (p : List Byte) (s : State) : Host.Outcome State Fault Refusal :=
  .next (request (p.length == 6) anyMode (setNoticesRule p) s)

/-- CLEAR_NOTICES (R209). -/
def clearNoticesRule (p : List Byte) (s : State) : Verdict :=
  if flagSetOk (tripleAt p 0) then
    let h := { s.hall with flags := s.hall.flags &&& ~~~(BitVec.ofNat 22 (tripleAt p 0)) }
    accept { s with hall := h } (b3 h.flags.toNat ++ lineLevels h)
  else refuse .field

def execClearNotices (p : List Byte) (s : State) : Host.Outcome State Fault Refusal :=
  .next (request (p.length == 3) anyMode (clearNoticesRule p) s)

/-- READ_STATUS (R210). -/
def readStatusRule (s : State) : Verdict :=
  let h := s.hall
  accept s (b1 s.env.mode.code ++ bBool s.env.pins.hallstop ++ bBool s.env.pins.localKey ++ b3 h.flags.toNat ++
    b3 h.enables.toNat ++ b3 h.routes.toNat ++ lineLevels h ++ b2 h.freeCount ++ b1 s.env.due.length ++
    b1 h.queue.length ++ b1 h.commanded ++ bBool s.env.clock.valid ++ b1 s.env.clock.markState.code ++
    s.env.clock.bytes ++ b1 h.sweep.state.code ++ surveyBytes h)

def execReadStatus (p : List Byte) (s : State) : Host.Outcome State Fault Refusal :=
  .next (request (p.length == 0) anyMode readStatusRule s)

end Sys2Proof.Machine
end

