-- ==== Sys2Proof/Machine/Dispatch.lean ====
section
/-! DEFINITION. One arm per command, each a direct call of its meaning. -/

namespace Sys2Proof.Machine

/-- The effect of a command on everything but the queue. -/
def exec (i : Instr) (s : State) : Host.Outcome State Fault Refusal :=
  match i with
  | .powerUp => Sys2Proof.Machine.execPowerUp s
  | .hallReset => Sys2Proof.Machine.execHallReset s
  | .hallResetRelease => Sys2Proof.Machine.execHallResetRelease s
  | .hallstopAssert => Sys2Proof.Machine.execHallstopAssert s
  | .hallstopRelease => Sys2Proof.Machine.execHallstopRelease s
  | .localAssert => Sys2Proof.Machine.execLocalAssert s
  | .localRelease => Sys2Proof.Machine.execLocalRelease s
  | .secondAdvance => Sys2Proof.Machine.execSecondAdvance s
  | .timeMark => Sys2Proof.Machine.execTimeMark s
  | .markWatchExpiry => Sys2Proof.Machine.execMarkWatchExpiry s
  | .nop => Sys2Proof.Machine.execNop s
  | .frameError => Sys2Proof.Machine.execFrameError s
  | .emptyPeriod => Sys2Proof.Machine.execEmptyPeriod s
  | .unknownCommand code payload => Sys2Proof.Machine.execUnknownCommand code payload s
  | .setTime payload => Sys2Proof.Machine.execSetTime payload s
  | .setClock payload => Sys2Proof.Machine.execSetClock payload s
  | .readTime payload => Sys2Proof.Machine.execReadTime payload s
  | .setPlanning payload => Sys2Proof.Machine.execSetPlanning payload s
  | .setHandover payload => Sys2Proof.Machine.execSetHandover payload s
  | .cancelHandover payload => Sys2Proof.Machine.execCancelHandover payload s
  | .lockBank payload => Sys2Proof.Machine.execLockBank payload s
  | .unlockBank payload => Sys2Proof.Machine.execUnlockBank payload s
  | .freezeBanks payload => Sys2Proof.Machine.execFreezeBanks payload s
  | .readBanks payload => Sys2Proof.Machine.execReadBanks payload s
  | .addSlot payload => Sys2Proof.Machine.execAddSlot payload s
  | .amendSlot payload => Sys2Proof.Machine.execAmendSlot payload s
  | .retireSlot payload => Sys2Proof.Machine.execRetireSlot payload s
  | .suspendSlot payload => Sys2Proof.Machine.execSuspendSlot payload s
  | .resumeSlot payload => Sys2Proof.Machine.execResumeSlot payload s
  | .clearBank payload => Sys2Proof.Machine.execClearBank payload s
  | .readSlot payload => Sys2Proof.Machine.execReadSlot payload s
  | .findSlots payload => Sys2Proof.Machine.execFindSlots payload s
  | .readDueList payload => Sys2Proof.Machine.execReadDueList payload s
  | .readPlan payload => Sys2Proof.Machine.execReadPlan payload s
  | .readChangeover payload => Sys2Proof.Machine.execReadChangeover payload s
  | .muteTimerExpiry t => Sys2Proof.Machine.execMuteTimerExpiry t s
  | .tuningTimerExpiry t => Sys2Proof.Machine.execTuningTimerExpiry t s
  | .rampTimerExpiry t => Sys2Proof.Machine.execRampTimerExpiry t s
  | .pauseTimerExpiry t => Sys2Proof.Machine.execPauseTimerExpiry t s
  | .hallPollCycle => Sys2Proof.Machine.execHallPollCycle s
  | .telemetryReply frame => Sys2Proof.Machine.execTelemetryReply frame s
  | .telemetryMissed => Sys2Proof.Machine.execTelemetryMissed s
  | .setTransmitter payload => Sys2Proof.Machine.execSetTransmitter payload s
  | .readTransmitter payload => Sys2Proof.Machine.execReadTransmitter payload s
  | .driveReply frame => Sys2Proof.Machine.execDriveReply frame s
  | .travelTimeout => Sys2Proof.Machine.execTravelTimeout s
  | .setMatrix payload => Sys2Proof.Machine.execSetMatrix payload s
  | .moveCrosspoint payload => Sys2Proof.Machine.execMoveCrosspoint payload s
  | .clearCrosspoint payload => Sys2Proof.Machine.execClearCrosspoint payload s
  | .readRow payload => Sys2Proof.Machine.execReadRow payload s
  | .readQueue payload => Sys2Proof.Machine.execReadQueue payload s
  | .surveyReadReply frame => Sys2Proof.Machine.execSurveyReadReply frame s
  | .surveyReadTimeout => Sys2Proof.Machine.execSurveyReadTimeout s
  | .setAntenna payload => Sys2Proof.Machine.execSetAntenna payload s
  | .setLoad payload => Sys2Proof.Machine.execSetLoad payload s
  | .clearPositioner payload => Sys2Proof.Machine.execClearPositioner payload s
  | .setGroup payload => Sys2Proof.Machine.execSetGroup payload s
  | .readAntenna payload => Sys2Proof.Machine.execReadAntenna payload s
  | .readGroups payload => Sys2Proof.Machine.execReadGroups payload s
  | .positionerPollCycle => Sys2Proof.Machine.execPositionerPollCycle s
  | .positionerReply frame => Sys2Proof.Machine.execPositionerReply frame s
  | .positionerReplyMissed => Sys2Proof.Machine.execPositionerReplyMissed s
  | .positionerTimerExpiry a => Sys2Proof.Machine.execPositionerTimerExpiry a s
  | .rfSenseChange r sensed => Sys2Proof.Machine.execRfSenseChange r sensed s
  | .coverEnd r => Sys2Proof.Machine.execCoverEnd r s
  | .setProtection payload => Sys2Proof.Machine.execSetProtection payload s
  | .restore payload => Sys2Proof.Machine.execRestore payload s
  | .takeOut payload => Sys2Proof.Machine.execTakeOut payload s
  | .returnUnit payload => Sys2Proof.Machine.execReturn payload s
  | .prove payload => Sys2Proof.Machine.execProve payload s
  | .stopProve payload => Sys2Proof.Machine.execStopProve payload s
  | .clearStray payload => Sys2Proof.Machine.execClearStray payload s
  | .readProtection payload => Sys2Proof.Machine.execReadProtection payload s
  | .ageMinute => Sys2Proof.Machine.execAgeMinute s
  | .setExercise payload => Sys2Proof.Machine.execSetExercise payload s
  | .startSweep payload => Sys2Proof.Machine.execStartSweep payload s
  | .stopSweep payload => Sys2Proof.Machine.execStopSweep payload s
  | .readSweep payload => Sys2Proof.Machine.execReadSweep payload s
  | .goRun payload => Sys2Proof.Machine.execGoRun payload s
  | .goConfig payload => Sys2Proof.Machine.execGoConfig payload s
  | .setNotices payload => Sys2Proof.Machine.execSetNotices payload s
  | .clearNotices payload => Sys2Proof.Machine.execClearNotices payload s
  | .readStatus payload => Sys2Proof.Machine.execReadStatus payload s
  | .chipSelectAssert => Sys2Proof.Machine.execChipSelectAssert s

end Sys2Proof.Machine
end

