-- ==== Sys2Proof/Safety.lean ====
section
/-! DEFINITION. What counts as a safe run of the part, and the terms in which the statements speak of commands and of
what a settling leaves alone. -/

namespace Sys2Proof.Machine

/-- No PERMIT line is high while a condition of the permit gate fails (R160): no transmitter is let on air into a path
that is not its own, closed, still and in service. -/
def PermitsGuarded (s : State) : Prop :=
  ∀ t : Tx, (s.hall.gates.get t).line = true → permitConditions s.env s.hall t = true

/-- A transmitter's fields lie in the ranges of R144. -/
structure TxCfg.InRange (c : TxCfg) : Prop where
  rating : 40 ≤ c.rating ∧ c.rating ≤ 600
  band : 2300 ≤ c.bandLow ∧ c.bandLow ≤ c.bandHigh ∧ c.bandHigh ≤ 26100
  muteTime : 1 ≤ c.muteTime ∧ c.muteTime ≤ 30
  tuneBase : c.tuneBase ≤ 240
  tuneRate : c.tuneRate ≤ 100
  ramp : c.ramp ≤ 60

/-- The fields of an antenna's type lie in the ranges of R126. -/
def AntKind.InRange : AntKind → Prop
  | .fixed boresight deviation => boresight ≤ 359 ∧ deviation ≤ 30
  | .slew boresight halfWidth slewTime tiltTime =>
    boresight ≤ 359 ∧ (5 ≤ halfWidth ∧ halfWidth ≤ 45) ∧ (1 ≤ slewTime ∧ slewTime ≤ 30) ∧ 1 ≤ tiltTime ∧ tiltTime ≤ 60
  | .rotatable stop rate tiltTime => stop ≤ 359 ∧ (1 ≤ rate ∧ rate ≤ 50) ∧ 1 ≤ tiltTime ∧ tiltTime ≤ 60

/-- An antenna's fields lie in the ranges of R126; a FIXED antenna's tilt count is 1. -/
structure AntCfg.InRange (c : AntCfg) : Prop where
  kind : c.kind.InRange
  band : 2300 ≤ c.bandLow ∧ c.bandLow ≤ c.bandHigh ∧ c.bandHigh ≤ 26100
  maxPower : 10 ≤ c.maxPower ∧ c.maxPower ≤ 600
  tiltCount : 1 ≤ c.tiltCount ∧ c.tiltCount ≤ 4
  fixedTilt : ∀ b d, c.kind = .fixed b d → c.tiltCount = 1

/-- Every setting, every table entry and the station clock lie in the ranges their rules give (R2, R4, R7, R102, R126, R128,
R141, R144, R167, R186). -/
structure SettingsInRange (e : Env) : Prop where
  day : e.clock.day ≤ 65535
  second : e.clock.second ≤ 86399
  weekdayBase : e.clock.weekdayBase ≤ 6
  guard : e.tables.guard ≤ 60
  expectedTravel : 1 ≤ e.tables.expectedTravel ∧ e.tables.expectedTravel ≤ 20
  travelTimeout : e.tables.expectedTravel < e.tables.travelTimeout ∧ e.tables.travelTimeout ≤ 60
  warnLevel : 5 ≤ e.tables.warnLevel ∧ e.tables.warnLevel ≤ 200 ∧ e.tables.warnLevel ≤ e.tables.foldStart
  foldStart : 10 ≤ e.tables.foldStart ∧ e.tables.foldStart ≤ 300
  pause : 2 ≤ e.tables.pause ∧ e.tables.pause ≤ 30
  interval : e.tables.interval ≤ 720
  load : ∀ l, 10 ≤ e.tables.load.get l ∧ e.tables.load.get l ≤ 600
  tx : ∀ t c, e.tables.tx.get t = some c → c.InRange
  ant : ∀ a c, e.tables.ant.get a = some c → c.InRange
  group : ∀ g, (e.tables.group.get g).length ≤ 6 ∧ (e.tables.group.get g).Nodup

/-- A frame that ends now is received: RESETn is not held, and the frame did not begin before it was (R198). -/
def Received (s : State) : Prop := dropsFrame s = false

/-- The command is answered with a refusal, and nothing but the reply buffer changes (R198, R199). -/
def RefusedWith (c : Instr) (st : Status) (s : State) : Prop :=
  exec c s = .next { s with port := s.port.fill (some { status := st, payload := [] }) }

/-- The state answers OK with a payload where `s` stood before the frame (R198, R199). -/
def AnswersOk (s t : State) (payload : List Byte) : Prop :=
  t.port = s.port.fill (some { status := .ok, payload := payload }) ∧ t.pending = s.pending

/-- The command is answered OK with a payload and changes nothing else. -/
def OnlyAnswers (c : Instr) (payload : List Byte) (s : State) : Prop :=
  exec c s = .next { s with port := s.port.fill (some { status := .ok, payload := payload }) }

/-- What no settling of an event changes: the ages, the enables and routes, the service records, the two poll cycles. -/
structure Base where
  ages : Tab (Tab Nat 16) 26
  enables : BitVec 22
  routes : BitVec 22
  txUnit : Tab UnitRec 16
  antUnit : Tab UnitRec 24
  hallPoll : List Tx
  hallCycle : Option Nat
  hallSent : List Byte
  posPoll : List Ant
  posCycle : Option Nat
  posSent : List Byte
  deriving DecidableEq, Repr

/-- The part of the hall that no settling changes. -/
def Hall.base (h : Hall) : Base :=
  { ages := h.ages, enables := h.enables, routes := h.routes, txUnit := h.txUnit, antUnit := h.antUnit,
    hallPoll := h.hallPoll, hallCycle := h.hallCycle, hallSent := h.hallSent, posPoll := h.posPoll,
    posCycle := h.posCycle, posSent := h.posSent }

/-- No context holds or keeps an occurrence of the record at a place. -/
def Hall.uninvolved (h : Hall) (p : PlaceNo) : Prop :=
  ∀ t : Tx, (∀ o ∈ (h.ctx.get t).occ, o.handle.place ≠ p) ∧ (∀ k ∈ (h.ctx.get t).kept, k.handle.place ≠ p)

/-- Time, banks, mode, inputs and tables are as they were: only the due list may differ. -/
def OnlyDue (s t : State) : Prop := t.env = { s.env with due := t.env.due }

/-- A context works on nothing: it is IDLE or HALTED. -/
def Hall.resting (h : Hall) (t : Tx) : Prop := (h.ctx.get t).state = .idle ∨ (h.ctx.get t).state = .halted

/-- Only time has passed, the elapsed base and the sub-second phase; the due list may differ. -/
def OnlyTime (s t : State) : Prop :=
  t.env = { s.env with
    elapsed := t.env.elapsed, due := t.env.due, clock := { s.env.clock with phase := t.env.clock.phase } }

/-- Time, banks, mode and inputs are as they were, and the tables are those given: only the due list may differ else. -/
def OnlyTables (s t : State) (tables : Tables) : Prop := t.env = { s.env with due := t.env.due, tables := tables }

/-- A link record holds the same telemetry, missed replies and link state. -/
def LinkKept (l l' : Link) : Prop := l'.telemetry = l.telemetry ∧ l'.missed = l.missed ∧ l'.state = l.state

/-- A positioner record holds the same state, reported position and missed replies. -/
def PosKept (p p' : PosRec) : Prop :=
  p'.state = p.state ∧ p'.azimuth = p.azimuth ∧ p'.tilt = p.tilt ∧ p'.missed = p.missed

/-- No STUCK flag has changed. -/
def StuckKept (h h' : Hall) : Prop := ∀ x : Xp, (h'.xp x).stuck = (h.xp x).stuck

/-- `t` is what the end of an event leaves of its direct effect `d` (log 5): the hall settled, the due list found anew
when the event gives reason to. -/
def Concludes (before d t : State) : Prop :=
  ∃ force, t.hall = (conclude before force d).hall ∧ t.env = (conclude before force d).env

/-- What is left of a context `u` that worked on the occurrence `o` when it is taken back with the outcome `d` (R91): its
permit is dropped; while RF may be on it is ENDING with the outcome decided, else it is IDLE with the outcome written. -/
def TakenBack (before : Hall) (u : Tx) (o : Occ) (d : Decided) (after : Hall) : Prop :=
  let c := before.ctx.get u
  (after.gates.get u).request = false ∧ (after.gates.get u).line = false ∧
  if c.state.rfMayBeOn then
    (after.ctx.get u).state = .ending ∧ (after.ctx.get u).held = .occurrence o ∧ (after.ctx.get u).decided = some d
  else
    after.ctx.get u = Context.idle ∧ after.lastOutcome.get u =
      some { handle := o.handle, last := outcomeOf d o.start o.finish c.lateSeconds c.wentOnAir }

/-- A context is taken back (R91) and no other context changes. -/
def Unwound (before : Hall) (u : Tx) (o : Occ) (d : Decided) (after : Hall) : Prop :=
  TakenBack before u o d after ∧ ∀ v : Tx, v ≠ u → after.ctx.get v = before.ctx.get v

/-- What is left of a proving run record that ends with a result (R177): one that is not running is as it was. -/
def RunRec.ended (w : RunRec) (result : RunResult) : RunRec :=
  if w.running then { w with running := false, result := result } else w

/-- What is left of a context `u` that worked on a proving run when the run ends with `result` and is unwound (R91, R177):
as for an occurrence, but that no outcome is written. -/
def RunTakenBack (before : Hall) (u : Tx) (row : Row) (result : RunResult) (after : Hall) : Prop :=
  (after.gates.get u).request = false ∧ (after.gates.get u).line = false ∧
  after.lastOutcome.get u = before.lastOutcome.get u ∧ after.runs.get u = (before.runs.get u).ended result ∧
  if (before.ctx.get u).state.rfMayBeOn then
    (after.ctx.get u).state = .ending ∧ (after.ctx.get u).held = .proving row
  else after.ctx.get u = Context.idle

/-- What is left of a context `u` whose kept occurrence `k` is dropped (R85): the context is as it was but for that, and the
outcome is written. -/
def KeptDropped (before : Hall) (u : Tx) (k : Kept) (o : OccOutcome) (r : Reason) (after : Hall) : Prop :=
  after.ctx.get u = { before.ctx.get u with kept := none } ∧
  after.lastOutcome.get u =
    some { handle := k.handle, last := { outcome := o, reason := some r, start := k.start, late := 0, early := 0 } }

/-- What a cause that stops occurrences before their time leaves of a context `u` (R11, R12, R92, R93): `occ` gives the
outcome of the occurrence it works on, `run` the result of its proving run, `kept` the outcome of its kept occurrence, and
none where the cause does not concern it, which leaves the context as it was. It says nothing of a context that works on
nothing or keeps an occurrence while it works: no run reaches one. -/
def Stopped (before : Hall) (u : Tx) (occ : Occ → Option Decided) (run : Option RunResult)
    (kept : Kept → Option (OccOutcome × Reason)) (after : Hall) : Prop :=
  let c := before.ctx.get u
  let asItWas := after.ctx.get u = c ∧ after.lastOutcome.get u = before.lastOutcome.get u
  match c.state.working, c.held, c.kept with
  | true, .occurrence o, none =>
    match occ o with
    | some d => TakenBack before u o d after
    | none => asItWas
  | true, .proving row, none =>
    match run with
    | some result => RunTakenBack before u row result after
    | none => asItWas
  | true, .nothing, _ | true, _, some _ => True
  | false, _, some k =>
    match kept k with
    | some (o, r) => KeptDropped before u k o r after
    | none => asItWas
  | false, _, none => asItWas

/-- No other context holds or keeps an occurrence of the record of the occurrence that `u` keeps. -/
def Hall.keepsAlone (h : Hall) (u : Tx) : Prop :=
  ∀ k ∈ (h.ctx.get u).kept, ∀ v : Tx, v ≠ u →
    (∀ o ∈ (h.ctx.get v).occ, o.handle.place ≠ k.handle.place) ∧
    (∀ x ∈ (h.ctx.get v).kept, x.handle.place ≠ k.handle.place)

/-- The latest telemetry of a column's transmitter shows RF off, or the transmitter is not configured (R69, R110). -/
def ShowsRfOff (e : Env) (h : Hall) (t : Tx) : Prop :=
  e.tables.tx.get t = none ∨
  ∃ m, (h.links.get t).telemetry = some m ∧ m.forward < 10 ∧ (m.report = .off ∨ m.report = .ready ∨ m.report = .tuning)

/-- A queued entry meets the conditions of R110: its column's PERMIT line low, RF off, and for a close every other
crosspoint of its row and of its column OPEN. -/
def QEntry.Ready (e : Env) (h : Hall) (n : QEntry) : Prop :=
  n.inFlight = false ∧ (h.gates.get n.xp.tx).line = false ∧ ShowsRfOff e h n.xp.tx ∧
  (n.dir = .close → ∀ y : Xp, y ≠ n.xp → y.row = n.xp.row ∨ y.tx = n.xp.tx → (h.xp y).pos = .opened)

/-- The place of an entry in the order of the pick (R112), to be compared item by item: entries with a deadline, by the
earliest deadline, the lowest transmitter, opens before closes and the arrival; then commanded ones, then the exercise. -/
def QEntry.pickKey (n : QEntry) : List Nat :=
  if n.reqs ≠ [] then
    [0, ((n.reqs.map Req.deadline).min?).getD 0, ((n.reqs.map fun q => q.tx.val).min?).getD 0,
      if n.dir = .close then 1 else 0, n.arrival]
  else if n.commands ≠ 0 then [1, n.arrival]
  else [2, n.arrival]

/-- What points added to a unit's score leave of its record (R168, R170, R172): nothing of a unit that is OUT or BARRED
changes, a PROVING one is barred, and any other takes its state from the new score. -/
def UnitRec.scored (u : UnitRec) (points : Nat) : UnitRec :=
  let score := min 255 (u.score + points)
  match u.service with
  | .out | .barred => u
  | .proving => { score := 255, service := .barred, provingMinutes := 0 }
  | .normal | .watch | .reduced =>
    if score < 96 then { u with score := score, service := .normal }
    else if score < 128 then { u with score := score, service := .watch }
    else if score < 255 then { u with score := score, service := .reduced }
    else { score := 255, service := .barred, provingMinutes := 0 }

/-- What comes before every other check of a request that names a record by the handle in its first two bytes (R16), with
the LOCKED of the record's bank behind it. -/
def HandleRefusals (c : Instr) (p : List Byte) (s : State) : Prop :=
  (1023 < wordAt p 0 % 4096 → RefusedWith c .field s) ∧
  ∀ place : PlaceNo, place.val = wordAt p 0 % 4096 →
    (s.hall.recordAt place = none → RefusedWith c .staleHandle s) ∧
    ∀ r : Record, s.hall.recordAt place = some r →
      ((s.hall.slots.get place).gen.val ≠ wordAt p 0 / 4096 → RefusedWith c .staleHandle s) ∧
      ((s.hall.slots.get place).gen.val = wordAt p 0 / 4096 → s.env.banks.locked r.sched.bank = true →
        RefusedWith c .locked s)

/-- A configured antenna reaches an azimuth that is present (R129), by the angular difference of 6.2. -/
def AntCfg.Points (c : AntCfg) (z : Nat) : Prop :=
  let within (b d : Nat) : Prop := ((z : Int) - b) % 360 ≤ d ∨ ((b : Int) - z) % 360 ≤ d
  match c.kind with
  | .fixed b d => within b d
  | .slew b w _ _ => within b w
  | .rotatable stop _ _ => z ≠ stop

/-- Two schedules could need one thing at once: neither validity range ends before the other begins (R29), and some weekly
arc of the one overlaps some weekly arc of the other on the circle of 10 080 minutes (R28). -/
def CouldMeet (c r : Schedule) : Prop :=
  (∀ l f : Nat, c.lastDay = some l → r.firstDay = some f → f ≤ l) ∧
  (∀ l f : Nat, r.lastDay = some l → c.firstDay = some f → f ≤ l) ∧
  ∃ v w : Fin 7, c.days.getLsbD v = true ∧ r.days.getLsbD w = true ∧
    let a : Int := v.val * 1440 + c.startMinute
    let b : Int := w.val * 1440 + r.startMinute
    (b - a) % 10080 < c.duration ∨ (a - b) % 10080 < r.duration

/-- The PERMIT line of a transmitter is low. -/
def Hall.lineLow (h : Hall) (t : Tx) : Prop := (h.gates.get t).line = false

/-- RF is sensed on no row. -/
def Env.noRf (e : Env) : Prop := ∀ r, e.pins.rf.get r = false

/-- The payload of a request that has one layout length, with that length (R212 and the rule of each request). -/
def oneLayout : Instr → Option (List Byte × Nat)
  | .readTime p | .cancelHandover p | .freezeBanks p | .readBanks p | .readGroups p | .startSweep p | .stopSweep p
  | .readSweep p | .goRun p | .readStatus p => some (p, 0)
  | .setClock p | .lockBank p | .unlockBank p | .clearBank p | .readDueList p | .readPlan p | .readChangeover p
  | .readTransmitter p | .readQueue p | .clearPositioner p | .readAntenna p | .restore p | .takeOut p | .returnUnit p
  | .stopProve p | .clearStray p | .readProtection p | .goConfig p => some (p, 1)
  | .setPlanning p | .suspendSlot p | .resumeSlot p | .readSlot p | .setMatrix p | .readRow p | .prove p
  | .setExercise p => some (p, 2)
  | .retireSlot p | .moveCrosspoint p | .clearCrosspoint p | .setLoad p | .clearNotices p => some (p, 3)
  | .setHandover p | .setProtection p => some (p, 4)
  | .setTime p => some (p, 5)
  | .findSlots p | .setNotices p => some (p, 6)
  | .addSlot p | .amendSlot p => some (p, 28)
  | .powerUp | .hallReset | .hallResetRelease | .hallstopAssert | .hallstopRelease | .localAssert | .localRelease
  | .secondAdvance | .timeMark | .markWatchExpiry | .nop | .frameError | .emptyPeriod | .unknownCommand _ _
  | .muteTimerExpiry _ | .tuningTimerExpiry _ | .rampTimerExpiry _ | .pauseTimerExpiry _ | .hallPollCycle
  | .telemetryReply _ | .telemetryMissed | .setTransmitter _ | .driveReply _ | .travelTimeout | .surveyReadReply _
  | .surveyReadTimeout | .setAntenna _ | .setGroup _ | .positionerPollCycle | .positionerReply _
  | .positionerReplyMissed | .positionerTimerExpiry _ | .rfSenseChange _ _ | .coverEnd _ | .ageMinute
  | .chipSelectAssert => none

/-- The requests that are taken in CONFIG only and have one layout length (10.3). -/
def configOnly : Instr → Bool
  | .setPlanning _ | .setMatrix _ | .moveCrosspoint _ | .setLoad _ | .setProtection _ | .startSweep _ => true
  | _ => false

/-- The requests that the station computer can send to change the tables and settings (10.3), power-up among them. -/
def setsTables : Instr → Bool
  | .powerUp | .setPlanning _ | .setMatrix _ | .setAntenna _ | .setLoad _ | .setGroup _ | .setTransmitter _
  | .setProtection _ | .setExercise _ => true
  | _ => false

/-- The changes of mode that the table of 10.4 gives to a command. -/
def modeTable (c : Instr) (before after : Mode) : Prop :=
  match c with
  | .powerUp | .hallReset => after = .config ∨ after = .stop ∨ after = .localKey
  | .hallstopAssert => after = .stop
  | .localAssert => (before = .config ∨ before = .survey ∨ before = .run) ∧ after = .localKey
  | .goRun _ =>
    ((before = .config ∨ before = .stop) ∧ (after = .survey ∨ after = .run)) ∨ (before = .localKey ∧ after = .survey)
  | .goConfig _ => before ≠ .config ∧ after = .config
  | .surveyReadReply _ | .surveyReadTimeout => before = .survey ∧ after = .run
  | _ => False

end Sys2Proof.Machine
end

