-- ==== Sys2Proof/Certificates/Slice0/Obligations.lean ====
section
/-! DEFINITION. The statements for the provers, chapter by chapter of the spec. OBLIGATIONS.json says what each rests on.
A statement whose conclusion is `∃ t, exec c s = .next t ∧ …` is the completion statement of the commands it names. -/

open Sys2Proof Sys2Proof.Machine

/-! The block as a machine. -/

/-- The command at the front of the queue is taken, and the rest waits (log 1). With no command waiting a step lets one
millisecond of the elapsed-time base pass and does nothing else; the model's choice (log 2). -/
def Obligations.StepTakesTheFrontCommand : Prop :=
  (∀ (c : Instr) (rest : List Instr) (s : State),
    step { s with pending := c :: rest } = exec c { s with pending := rest }) ∧
  ∀ s : State, s.pending = [] →
    step s = .next { s with env := { s.env with
      elapsed := s.env.elapsed + 1
      clock := { s.env.clock with phase := min 1000 (s.env.clock.phase + 1) } } }

/-- Every command has an effect or a status code: none stops the part, and none changes the queue of the commands that
wait (log 1). -/
def Obligations.EveryCommandTakesANextState : Prop :=
  ∀ (c : Instr) (s : State), ∃ t, exec c s = .next t ∧ t.pending = s.pending

/-- The values right after power-up that the spec gives (R2, R7, R9, R43, R65, R67, R102, R125, R143, R159, R167, R184
to R187, R193, R198, R206). That RF seen starts at no, a value the table of R125 does not give, is the model's choice
(log 70). -/
def Obligations.PowerUpValues : Prop :=
  let e := State.reset.env
  let h := State.reset.hall
  (e.mode = .config ∧ e.clock.day = 0 ∧ e.clock.second = 0 ∧ e.clock.valid = false ∧ e.clock.weekdayBase = 0 ∧
    e.clock.lastBoundary = 0 ∧ e.clock.markState = .off ∧ e.clock.phase = 0 ∧ e.due = []) ∧
  (e.banks.live = .a ∧ e.banks.lockA = false ∧ e.banks.lockB = false ∧ e.banks.freeze = false ∧
    e.banks.handover = none) ∧
  (e.tables.guard = 10 ∧ e.tables.expectedTravel = 3 ∧ e.tables.travelTimeout = 10 ∧ e.tables.warnLevel = 30 ∧
    e.tables.foldStart = 60 ∧ e.tables.pause = 5 ∧ e.tables.interval = 168 ∧ (∀ t, e.tables.tx.get t = none) ∧
    (∀ a, e.tables.ant.get a = none) ∧ (∀ l, e.tables.load.get l = 150) ∧ (∀ g, e.tables.group.get g = [])) ∧
  (∀ p, h.slots.get p = { gen := 0, record := none }) ∧
  (∀ t, h.lastOutcome.get t = none ∧ (h.ctx.get t).state = .idle ∧ (h.ctx.get t).held = .nothing ∧
    (h.links.get t).state = .active ∧ (h.links.get t).missed = 0 ∧ (h.links.get t).telemetry = none ∧
    (h.gates.get t).line = false ∧ (h.gates.get t).request = false ∧ (h.gates.get t).lastDrop = none ∧
    h.txUnit.get t = { score := 0, service := .normal, provingMinutes := 0 } ∧ (h.runs.get t).result = .none) ∧
  (∀ a, (h.pos.get a).state = .unknown ∧ h.antUnit.get a = { score := 0, service := .normal, provingMinutes := 0 }) ∧
  (∀ x, h.xp x = { pos := .unknown, stuck := false, rfSeen := false, last := .none } ∧ h.age x = 0) ∧
  (∀ r, h.rows.get r = { res := .free, waiting := [] } ∧ h.stray.get r = false) ∧
  (h.queue = [] ∧ h.surveyNext = none ∧ h.exercise.phase = .idle ∧ h.exercise.last = none ∧ h.sweep.state = .idle ∧
    h.sweep.next = none ∧ h.sweep.exercised = 0 ∧ h.sweep.newlyStuck = 0 ∧ h.sweep.skipped = 0 ∧
    h.sweep.result = .none) ∧
  (h.flags = 0 ∧ h.enables = 0 ∧ h.routes = 0 ∧ State.reset.port.buffer = none)

/-- After power-up no PERMIT line is high while a condition fails, and every setting lies in its range: what the two
invariants below ask of the first state (R160, R184). -/
def Obligations.InvariantsHoldAfterPowerUp : Prop := PermitsGuarded State.reset ∧ SettingsInRange State.reset.env

/-- What it takes for a PERMIT line to be high (R160): the gate's conditions, one by one. -/
def Obligations.PermitConditionsOneByOne : Prop :=
  ∀ (e : Env) (h : Hall) (t : Tx), permitConditions e h t = true ↔
    e.mode = .run ∧ e.pins.hallstop = false ∧
    ((h.ctx.get t).state = .ramping ∨ (h.ctx.get t).state = .onAir) ∧
    (h.txUnit.get t).service ≠ .barred ∧ (h.txUnit.get t).service ≠ .out ∧
    ∃ r : Row,
      (∀ q : Row, (h.xp ⟨t, q⟩).pos ≠ .opened ↔ q = r) ∧ (h.xp ⟨t, r⟩).pos = .closed ∧
      h.res r = .connected t ∧ (∀ u : Tx, u ≠ t → (h.xp ⟨u, r⟩).pos = .opened) ∧ h.stray.get r = false ∧
      ∀ a : Ant, rowAnt r = some a →
        (h.antUnit.get a).service ≠ .barred ∧ (h.antUnit.get a).service ≠ .out ∧ (h.pos.get a).state ≠ .moving

/-- No step ever leaves a PERMIT line high while a condition of its gate fails (R160). -/
def Obligations.PermitsStayGuarded : Prop :=
  ∀ s t : State, PermitsGuarded s → step s = .next t → PermitsGuarded t

/-- No step takes a setting, an entry of the transmitter, antenna, load or group table, or the clock out of its range.
-/
def Obligations.SettingsStayInRange : Prop :=
  ∀ s t : State, SettingsInRange s.env → step s = .next t → SettingsInRange t.env

/-- The mode changes only as the table of mode transitions says; STOP and LOCAL are left only with both lines released,
but for a reset (10.4). -/
def Obligations.ModeChangesAsTabled : Prop :=
  ∀ (c : Instr) (s t : State), exec c s = .next t → t.env.mode ≠ s.env.mode →
    modeTable c s.env.mode t.env.mode ∧
    ((s.env.mode = .stop ∨ s.env.mode = .localKey) →
      c = .powerUp ∨ c = .hallReset ∨ c = .hallstopAssert ∨
        (s.env.pins.hallstop = false ∧ s.env.pins.localKey = false))

/-- The tables and settings change only by the requests that set them, and by power-up. -/
def Obligations.TablesChangeOnlyByTheirRequests : Prop :=
  ∀ (c : Instr) (s t : State), exec c s = .next t → setsTables c = false → t.env.tables = s.env.tables

/-- A barred unit stays BARRED until RESTORE or TAKE OUT names it or the power fails, a unit that is OUT until RETURN
(R170, R173 to R175, R184). -/
def Obligations.LatchedUnitsStayLatched : Prop :=
  ∀ (c : Instr) (s t : State) (u : HallUnit), exec c s = .next t → c ≠ .powerUp →
    ((s.hall.unit u).service = .barred → (t.hall.unit u).service ≠ .barred →
      ∃ p, (c = .restore p ∨ c = .takeOut p) ∧ unitOf (byteAt p 0) = some u) ∧
    ((s.hall.unit u).service = .out → (t.hall.unit u).service ≠ .out →
      ∃ p, c = .returnUnit p ∧ unitOf (byteAt p 0) = some u)

/-! Frames and the command port (10.1, 10.2, 11.1). -/

/-- Every command that a good frame can carry is read back from its frame, whatever bytes follow it (R197, R211,
R213). -/
def Obligations.FramesAreReadBack : Prop :=
  ∀ (c : Instr) (frame more : List Byte), c.wellFormed = true → encodeFrame c = some frame →
    decodePeriod (frame ++ more) 0 = c

/-- What is judged a frame error, and what no frame (R197). The periods that carry no request (R197, R198), the
assertion of chip-select (R198, R211), and the bytes shifted out after the reply or the empty indication: fill bytes
of 0xFF (R211). A period that ends while RESETn is held, or that began before the reset, only ends: R198 speaks of the
frames under the reset, the end of one after its release is the model's choice (log 18), and so is the byte from which
the empty indication counts after a hall reset in a period (log 75). -/
def Obligations.PeriodsAreJudged : Prop :=
  decodePeriod [] 0 = .emptyPeriod ∧
  (∀ (l : List Byte) (k : Nat), k ≠ 0 → decodePeriod l k = .frameError) ∧
  (∀ b : Byte, decodePeriod [b] 0 = .frameError) ∧
  (∀ (b n : Byte) (l : List Byte), 64 < n.toNat → decodePeriod (b :: n :: l) 0 = .frameError) ∧
  (∀ (b n : Byte) (l : List Byte), l.length < n.toNat → decodePeriod (b :: n :: l) 0 = .frameError) ∧
  (∀ (b n : Byte) (l : List Byte), n.toNat ≤ 64 → n.toNat ≤ l.length →
    decodePeriod (b :: n :: l) 0 = commandOf b (l.take n.toNat) ∧ decodePeriod (b :: n :: l) 0 ≠ .frameError) ∧
  ∀ s : State,
    (Received s →
      (∀ c : Instr, c = .nop ∨ c = .emptyPeriod →
        exec c s = .next { s with port := { s.port with buffer := none, selected := false, shifting := none } }) ∧
      exec .frameError s = .next { s with
        port := { s.port with
          buffer := some { status := .frame, payload := [] }, selected := false, shifting := none }
        hall := { s.hall with flags := s.hall.flags ||| BitVec.ofNat 22 (2 ^ 18) } }) ∧
    (∀ c : Instr, ¬ Received s → (requestCode c).isSome = true ∨ c = .frameError ∨ c = .emptyPeriod →
      exec c s = .next { s with port := { s.port with selected := false, shifting := none, discard := false } }) ∧
    (s.port.selected = false → s.port.buffer = none →
      exec .chipSelectAssert s = .next { s with
        port := { s.port with selected := true, shifting := some [0xFF, 0x00] } }) ∧
    (∀ r : Reply, s.port.selected = false → s.port.buffer = some r →
      exec .chipSelectAssert s = .next { s with
        port := { s.port with
          selected := true
          shifting := some (BitVec.ofNat 8 r.status.code :: BitVec.ofNat 8 r.payload.length :: r.payload) } }) ∧
    (∀ (l : List Byte) (n : Nat), s.port.shifting = some l →
      (∀ b : Byte, l[n]? = some b → s.port.outByte n = some b) ∧ (l.length ≤ n → s.port.outByte n = some 0xFF))

/-- A request is answered with a status, and one that is refused changes nothing but the reply buffer (R199). -/
def Obligations.RefusedRequestsChangeNothing : Prop :=
  ∀ (c : Instr) (s t : State), Received s → c ≠ .nop → (requestCode c).isSome = true → exec c s = .next t →
    ∃ r : Reply, t.port = s.port.fill (some r) ∧
      (r.status ≠ .ok → r.payload = [] ∧ t = { s with port := s.port.fill (some r) })

/-- The first refusals of a request, in their order (R199, R212): UNKNOWN_COMMAND for a code that names none, FIELD
for a payload of another length than the layout's, MODE for a request that the present mode does not take (10.3). The
lengths of SET TRANSMITTER and SET ANTENNA are those of log 7. GO CONFIG with any byte is MODE in CONFIG: the mode is
examined before the byte, as the model deduces (log 16). -/
def Obligations.RefusalsStandInOrder : Prop :=
  ∀ s : State, Received s →
    (∀ (code : Byte) (p : List Byte), (requestCodes.contains code.toNat = false →
      commandOf code p = .unknownCommand code p) ∧ RefusedWith (.unknownCommand code p) .unknownCommand s) ∧
    (∀ (c : Instr) (p : List Byte) (n : Nat), oneLayout c = some (p, n) → p.length ≠ n → RefusedWith c .field s) ∧
    (∀ p : List Byte, p.length < 2 ∨ 7 < p.length → RefusedWith (.setGroup p) .field s) ∧
    (∀ (c : Instr) (p : List Byte) (n : Nat), configOnly c = true → oneLayout c = some (p, n) → p.length = n →
      s.env.mode ≠ .config → RefusedWith c .mode s) ∧
    (∀ p : List Byte,
      if setTransmitterLength p = false then RefusedWith (.setTransmitter p) .field s
      else s.env.mode ≠ .config → RefusedWith (.setTransmitter p) .mode s) ∧
    (∀ p : List Byte,
      if setAntennaLength p = false then RefusedWith (.setAntenna p) .field s
      else s.env.mode ≠ .config → RefusedWith (.setAntenna p) .mode s) ∧
    (s.env.mode = .survey ∨ s.env.mode = .run → RefusedWith (.goRun []) .mode s) ∧
    (∀ b : Byte, s.env.mode = .config → RefusedWith (.goConfig [b]) .mode s)

/-! Notices (10.5). -/

/-- A notice line is driven low while a flag is set whose enable is yes and whose route is that line (R207). It is
released while no flag is set, so after power-up, and READ STATUS shows every flag that is set, whatever its enable. -/
def Obligations.NoticeLinesFollowTheFlags : Prop :=
  (State.reset.hall.alertActive = false ∧ State.reset.hall.noteActive = false) ∧
  (∀ s : State, Received s → ∃ head tail, head.length = 3 ∧
    OnlyAnswers (.readStatus []) (head ++ b3 s.hall.flags.toNat ++ tail) s) ∧
  ∀ h : Hall,
    (h.flags = 0 → h.alertActive = false ∧ h.noteActive = false) ∧
    (h.alertActive = true ↔
      ∃ n : Notice, h.flags.getLsbD n.bit = true ∧ h.enables.getLsbD n.bit = true ∧ h.routes.getLsbD n.bit = true) ∧
    (h.noteActive = true ↔
      ∃ n : Notice, h.flags.getLsbD n.bit = true ∧ h.enables.getLsbD n.bit = true ∧ h.routes.getLsbD n.bit = false)

/-- SET NOTICES replaces every enable and route together and leaves the flags (R208). -/
def Obligations.SetNoticesReplacesEnablesAndRoutes : Prop :=
  ∀ (s : State) (a b c d e f : Byte), Received s →
    (∀ p : List Byte, p.length ≠ 6 → RefusedWith (.setNotices p) .field s) ∧
    let enable := a.toNat * 65536 + b.toNat * 256 + c.toNat
    let route := d.toNat * 65536 + e.toNat * 256 + f.toNat
    if enable < 2 ^ 22 ∧ route < 2 ^ 22 then
      ∃ t, exec (.setNotices [a, b, c, d, e, f]) s = .next t ∧ t.env = s.env ∧
        t.hall = { s.hall with enables := BitVec.ofNat 22 enable, routes := BitVec.ofNat 22 route } ∧
        AnswersOk s t [if t.hall.alertActive then 0 else 1, if t.hall.noteActive then 0 else 1]
    else RefusedWith (.setNotices [a, b, c, d, e, f]) .field s

/-- CLEAR NOTICES clears each flag named and no other (R209). -/
def Obligations.ClearNoticesClearsTheNamed : Prop :=
  ∀ (s : State) (a b c : Byte), Received s →
    (∀ p : List Byte, p.length ≠ 3 → RefusedWith (.clearNotices p) .field s) ∧
    let named := a.toNat * 65536 + b.toNat * 256 + c.toNat
    if named < 2 ^ 22 then
      ∃ t, exec (.clearNotices [a, b, c]) s = .next t ∧ t.env = s.env ∧
        t.hall = { s.hall with flags := t.hall.flags } ∧
        (∀ n : Notice, t.hall.noticeSet n = (s.hall.noticeSet n && !named.testBit n.bit)) ∧
        AnswersOk s t (b3 t.hall.flags.toNat ++
          [if t.hall.alertActive then 0 else 1, if t.hall.noteActive then 0 else 1])
    else RefusedWith (.clearNotices [a, b, c]) .field s

/-! Time and banks (Chapter 1). -/

/-- The count advances by one second and the phase restarts; at its last instant it holds and the valid flag is cleared
(R2), which empties the due list (R50). An instant later than the last boundary is the next one (R3). That none comes
while RESETn is held is what the model deduces from R2 and R200 (log 32). A handover whose H has come is taken at the
boundary: the banks swap roles, H becomes absent and HANDOVER is raised (R11). The boundaries leave the settings and the
mode. That the elapsed base goes on by what the phase lacks of 1 s is the model's choice (log 2). -/
def Obligations.SecondAdvanceCounts : Prop :=
  ∀ s : State, ∃ t, exec .secondAdvance s = .next t ∧
    (let c := s.env.clock
     let last := c.day = 65535 ∧ c.second = 86399
     (t.env.clock.day = if c.second = 86399 ∧ c.day ≠ 65535 then c.day + 1 else c.day) ∧
     (t.env.clock.second = if last then 86399 else if c.second = 86399 then 0 else c.second + 1) ∧
     (t.env.clock.valid = if last then false else c.valid) ∧ t.env.clock.phase = 0 ∧
     t.env.clock.weekdayBase = c.weekdayBase ∧ t.env.clock.markState = c.markState ∧
     t.env.clock.markWatch = c.markWatch ∧ (t.env.clock.valid = false → t.env.due = []) ∧
     let boundary := t.env.clock.valid = true ∧ s.env.pins.resetHeld = false ∧ c.lastBoundary < t.env.now
     (t.env.clock.lastBoundary = if boundary then t.env.now else c.lastBoundary) ∧
     (∀ hh : Nat, boundary → s.env.banks.handover = some hh → hh ≤ t.env.now →
       t.env.banks = { s.env.banks with live := s.env.banks.standby, handover := none } ∧
       t.hall.noticeSet .handover = true) ∧
     (¬boundary ∨ (∀ hh : Nat, s.env.banks.handover = some hh → t.env.now < hh) → t.env.banks = s.env.banks)) ∧
    t.env.elapsed = s.env.elapsed + (1000 - s.env.clock.phase) ∧ t.env.minuteBegan = s.env.minuteBegan ∧
    t.env.mode = s.env.mode ∧ t.env.pins = s.env.pins ∧ t.env.tables = s.env.tables ∧ t.port = s.port

/-- What a second boundary does to the due list and to the contexts (R51), a step at a time: the handover, the blocked
reasons found anew, the entries given up, the starts, the ramp starts, the natural ends, in the model's order, with the
due list found anew before and after the starts when the boundary gives reason to (log 6). An entry whose E has come is
given up: MISSED with its blocked reason, or PATH (R54). A changeover starts for an entry whose C′ has come, that is not
blocked and whose context takes it; a proving run before on air yields (R52). That entries which start at one boundary
are handed over in due-list order, and that proving runs yield after all the starts, is the model's choice (log 68). IDLE
begins with PREPARING when quiet, else MUTING (R70); ON_AIR finishes what it held, COMPLETE or LATE, and mutes (R71);
ENDING keeps the entry (R85), whose record goes on waiting (log 44). STANDING ramps when its ramp start has come (R79).
An occurrence whose E has come ends as the table of R83 says. Ramp starts and natural ends pass over the sixteen
contexts, each of which moves as its own says and by no other's. The elapsed base is that of log 2. -/
def Obligations.SecondBoundaryMovesContexts : Prop :=
  (∀ s : State, s.env.clock.valid = true → s.env.pins.resetHeld = false → s.env.clock.second % 60 ≠ 59 →
    s.env.now - s.env.now % 60 ≤ s.env.clock.lastBoundary → s.env.clock.lastBoundary ≤ s.env.now →
    let start : State := { s with env := { s.env with
      elapsed := s.env.elapsed + (1000 - s.env.clock.phase)
      clock := { s.env.clock with second := s.env.clock.second + 1, phase := 0, lastBoundary := s.env.now + 1 } } }
    exec .secondAdvance s =
      .next (rampsAndEnds (startsOf start (giveUpPhase (refreshBlocked (handoverPhase start)))))) ∧
  (∀ s : State,
    (∀ before : State,
      let entries (t : State) := t.env.due.map fun d => (d.handle, d.start)
      let listed := if plannerView s = plannerView before then s else refreshBlocked (recompute s)
      startsOf before s = if entries (startPhase listed) = entries before then startPhase listed
        else recompute (startPhase listed)) ∧
    (let each (move : Env → Tx → Hall → Hall) (t : State) : State :=
       conclude t false { t with hall := (allFin 16).foldl (fun h u => move t.env u h) t.hall }
     rampsAndEnds s = each naturalEnd (each rampStart s)) ∧
    (let gone := s.env.due.filter fun d => decide (d.finish ≤ s.env.now)
     let e := { s.env with due := s.env.due.filter fun d => decide (s.env.now < d.finish) }
     giveUpPhase s = if gone = [] then s else
       State.settled { s with
         env := e, hall := gone.foldl (fun h d => giveUp e (d.blocked.getD .path) d h) s.hall }) ∧
    (let starts (d : DueEntry) : Bool := dueNow s.env d && takesEntry s.hall d
     let yields (d : DueEntry) : Bool := dueNow s.env d && yieldsRun s.hall d
     let e := { s.env with due := s.env.due.filter fun d => !(starts d) }
     startPhase s = conclude s (s.env.due.any starts) { s with
       env := e
       hall := (s.env.due.filter yields).foldl (fun h d => yieldRun e d.tx h)
         ((s.env.due.filter starts).foldl (fun h d => takeEntry e d h) s.hall) })) ∧
  (∀ (e : Env) (h : Hall) (r : Reason) (d : DueEntry),
    let after := giveUp e r d h
    let o : LastOutcome := { outcome := .missed, reason := some r, start := d.start, late := 0, early := 0 }
    after.ctx = h.ctx ∧ after.noticeSet .missed = true ∧ after.lastOutcome = h.lastOutcome.set d.tx (some ⟨d.handle, o⟩) ∧
    ∀ x : Record, h.recordOf d.handle = some x → x.state ≠ .retiring →
      ∃ x' : Record, after.recordOf d.handle = some x' ∧ x'.last = some o ∧ x'.served = some d.start ∧
        x'.sched = x.sched) ∧
  (∀ (e : Env) (h : Hall) (d : DueEntry),
    let c := h.ctx.get d.tx
    (dueNow e d = true ↔ d.beginAt ≤ e.now ∧ d.blocked = none) ∧
    (takesEntry h d = true ↔ c.state = .idle ∨ c.state = .onAir ∨
      (c.state = .ending ∧ c.kept = none ∧ ∀ o : Occ, c.held = .occurrence o → o.handle ≠ d.handle)) ∧
    (yieldsRun h d = true ↔ (∃ row, c.held = .proving row) ∧ (c.state = .muting ∨ c.state = .preparing ∨
      c.state = .standing ∨ c.state = .ramping ∨ c.state = .restrike)) ∧
    ∀ (row : Row) (x : Record), d.resolved = some row → h.recordOf d.handle = some x →
      let after := takeEntry e d h
      let c' := after.ctx.get d.tx
      let mutes := c'.state = .muting ∧
        c'.timer = some { kind := .mute, expiry := e.elapsed + (e.muteTime d.tx + 10) * 1000
                          length := (e.muteTime d.tx + 10) * 1000 } ∧
        (after.gates.get d.tx).request = false ∧ (after.gates.get d.tx).line = false
      (∀ v : Tx, v ≠ d.tx → after.ctx.get v = h.ctx.get v) ∧
      (c.state = .idle ∨ (c.state = .onAir ∧ ∀ o : Occ, c.held = .occurrence o → o.handle.place ≠ d.handle.place) →
        (∃ o : Occ, c'.held = .occurrence o ∧ o.handle = d.handle ∧ o.start = d.start ∧ o.finish = d.finish ∧
          o.row = row ∧ o.freq = x.sched.freq ∧ o.programme = x.sched.programme ∧ o.azimuth = x.sched.azimuth) ∧
        c'.onAirAt = none ∧ c'.trips = [] ∧ c'.left = [] ∧ c'.reResolved = false ∧
        after.recordOf d.handle = some { x with
          state := if x.state = .retiring then .retiring else .preparing
          current := some { start := d.start, finish := d.finish, row := row, late := 0 } }) ∧
      (c.state = .idle → h.quiet d.tx = true → c'.state = .preparing ∧ c'.tune = .pending ∧ c'.tuneAttempts = 1 ∧
        ∃ m, c'.timer = some m ∧ m.kind = .tuning ∧ m.expiry = e.elapsed + m.length) ∧
      (c.state = .idle → h.quiet d.tx = false → mutes) ∧
      (c.state = .onAir → mutes ∧
        (∀ o : Occ, c.held = .occurrence o → after.lastOutcome.get d.tx = some ⟨o.handle,
          { outcome := if c.lateSeconds = 0 then .complete else .late, reason := none, start := o.start
            late := if c.wentOnAir then c.lateSeconds else 0, early := if c.wentOnAir then o.finish - e.now else 0 }⟩) ∧
        ((h.runs.get d.tx).running = true →
          after.runs.get d.tx = { h.runs.get d.tx with running := false, result := .yielded })) ∧
      (c.state = .ending → after = { h with ctx := h.ctx.set d.tx { c with
        kept := some { handle := d.handle, start := d.start, finish := d.finish, row := row } } })) ∧
  ∀ (e : Env) (h : Hall) (u : Tx),
    let c := h.ctx.get u
    (let ramped := (allFin 16).foldl (fun h v => rampStart e v h) h
     ramped = { h with ctx := ramped.ctx, gates := ramped.gates } ∧
     ramped.ctx.get u = (rampStart e u h).ctx.get u ∧ ramped.gates.get u = (rampStart e u h).gates.get u) ∧
    (let ended := (allFin 16).foldl (fun h v => naturalEnd e v h) h
     ∃ g : Hall,
       (g.ctx.get u = h.ctx.get u ∧ g.gates.get u = h.gates.get u ∧ g.lastOutcome.get u = h.lastOutcome.get u) ∧
       ended.ctx.get u = (naturalEnd e u g).ctx.get u ∧ ended.gates.get u = (naturalEnd e u g).gates.get u ∧
       ended.lastOutcome.get u = (naturalEnd e u g).lastOutcome.get u) ∧
    (let ms := (e.ramp u + 15) * 1000
     rampStart e u h =
       if c.state = .standing ∧ ∀ o ∈ c.occ, o.start - e.ramp u ≤ e.now then
         (h.modCtx u fun c => { c with
             state := .ramping, timer := some { kind := .ramp, expiry := e.elapsed + ms, length := ms } }).modGate u
           fun g => { g with request := true }
       else h) ∧
    ∀ o : Occ, c.held = .occurrence o →
      let after := naturalEnd e u h
      let completes : Decided :=
        { outcome := if c.lateSeconds = 0 then .complete else .late, reason := none, ended := o.finish }
      let misses (r : Reason) : Decided := { outcome := .missed, reason := some r, ended := o.finish }
      (e.now < o.finish ∨ c.state = .idle ∨ c.state = .ending ∨ c.state = .halted → after = h) ∧
      (o.finish ≤ e.now →
        (c.wentOnAir = true → c.state = .preparing ∨ c.state = .standing ∨ c.state = .ramping ∨ c.state = .onAir ∨
          c.state = .restrike → Unwound h u o completes after) ∧
        (c.wentOnAir = false →
          (c.state = .muting → Unwound h u o (misses .mute) after) ∧
          (c.state = .preparing → c.tune = .pending → Unwound h u o (misses .tune) after) ∧
          (c.state = .preparing → c.tune ≠ .pending → c.path = .pending → Unwound h u o (misses .path) after) ∧
          (c.state = .preparing → c.tune ≠ .pending → c.path ≠ .pending → c.position = .pending →
            Unwound h u o (misses .position) after) ∧
          (c.state = .standing → Unwound h u o (misses .path) after) ∧
          (c.state = .ramping ∨ c.state = .restrike → Unwound h u o (misses .tune) after)) ∧
        ((after.ctx.get u).state = .ending → c.state ≠ .ending →
          (after.ctx.get u).endingBegan = some e.now ∧
          (after.ctx.get u).timer = some { kind := .mute, expiry := e.elapsed + (e.muteTime u + 10) * 1000
                                           length := (e.muteTime u + 10) * 1000 }))

/-- A time mark fixes the second boundary: under 500 ms only the phase restarts, from 500 ms on the count advances at
once, into the next day at the end of a day, and at its last instant it holds and the valid flag is cleared (R2, R5,
R6). Marks are ignored in OFF. The time-mark watch runs out: LOST, with MARK_LOST (R5). That the elapsed base passes
on to the expiry is the model's choice (log 2), and that marks and the watch are of effect only with RESETn released
is what the model deduces (log 23). -/
def Obligations.TimeMarkFixesTheSecond : Prop :=
  ∀ s : State, s.env.pins.resetHeld = false →
    let c := s.env.clock
    (c.markState = .off → exec .timeMark s = .next s) ∧
    (c.markState ≠ .off → c.phase < 500 →
      exec .timeMark s = .next { s with env := { s.env with clock := { c with
        phase := 0, markState := .locked, markWatch := some (s.env.elapsed + 3000) } } }) ∧
    (c.markState ≠ .off → 500 ≤ c.phase →
      ∃ t, exec .timeMark s = .next t ∧
        (let last := c.day = 65535 ∧ c.second = 86399
         (t.env.clock.day = if c.second = 86399 ∧ c.day ≠ 65535 then c.day + 1 else c.day) ∧
         (t.env.clock.second = if last then 86399 else if c.second = 86399 then 0 else c.second + 1) ∧
         (t.env.clock.valid = if last then false else c.valid) ∧ (t.env.clock.valid = false → t.env.due = []) ∧
         t.env.clock.phase = 0 ∧ t.env.clock.markState = .locked ∧
         t.env.clock.markWatch = some (s.env.elapsed + 3000) ∧ t.env.clock.weekdayBase = c.weekdayBase ∧
         t.env.clock.lastBoundary =
           if t.env.clock.valid = true ∧ c.lastBoundary < t.env.now then t.env.now else c.lastBoundary) ∧
        t.env.elapsed = s.env.elapsed ∧ t.env.mode = s.env.mode ∧ t.env.tables = s.env.tables ∧ t.port = s.port) ∧
    (∀ w : Nat, c.markWatch = some w → c.markState = .waiting ∨ c.markState = .locked →
      ∃ t, exec .markWatchExpiry s = .next t ∧ t.env.clock.markState = .lost ∧ t.env.clock.markWatch = none ∧
        t.env.elapsed = max s.env.elapsed w ∧ t.env.clock.day = c.day ∧ t.env.clock.second = c.second ∧
        t.env.clock.valid = c.valid ∧ t.hall = { s.hall with flags := s.hall.flags ||| BitVec.ofNat 22 (2 ^ 17) } ∧
        t.env.banks = s.env.banks ∧ t.env.tables = s.env.tables ∧ t.env.mode = s.env.mode ∧ t.env.due = s.env.due ∧
        t.port = s.port)

/-- At a minute boundary M each ON_AIR context whose spell began 60 s before M or earlier gives a clean minute to its
transmitter, its antenna and its proving run, and no other unit's record changes: the score falls by 1 and gives the
service state, a PROVING unit counts to 20 and is then NORMAL with PROVEN raised, a proving run passes at 20 (R169,
R170, R177). Then an auto exercise begins at the candidate of the greatest age, of the lowest row and then of the
lowest column among those, or none where there is none, outside RUN, with interval 0 and while an exercise is under
way (R188): after the starts and ends of the boundary, the standings, and the due list found anew. The order of the
work at the boundary (log 6), the elapsed base (log 2) and the one boundary where several minutes were passed (log 39)
are the model's choice. -/
def Obligations.MinuteBoundaryCounts : Prop :=
  (∀ s : State, s.env.clock.valid = true → s.env.pins.resetHeld = false → s.env.clock.second % 60 = 59 →
    ¬(s.env.clock.day = 65535 ∧ s.env.clock.second = 86399) → s.env.clock.lastBoundary ≤ s.env.now →
    let m := s.env.now + 1
    let clean (u : Tx) : Prop :=
      (s.hall.ctx.get u).state = .onAir ∧ ∃ b, (s.hall.ctx.get u).spellBegan = some b ∧ b + 60 ≤ m
    let counted (r r' : UnitRec) : Prop :=
      match r.service with
      | .barred | .out => r' = r
      | .normal | .watch | .reduced =>
        r' = { r with
          score := r.score - 1
          service := if r.score - 1 < 96 then .normal else if r.score - 1 < 128 then .watch
            else if r.score - 1 < 255 then .reduced else .barred }
      | .proving =>
        r' = if 20 ≤ r.provingMinutes + 1 then { r with service := .normal, provingMinutes := 0 }
          else { r with provingMinutes := r.provingMinutes + 1 }
    ∃ t, exec .secondAdvance s = .next t ∧ t.port = s.port ∧ t.env.clock.lastBoundary = m ∧
      (∀ u : Tx, ¬clean u → t.hall.txUnit.get u = s.hall.txUnit.get u ∧
        (t.hall.runs.get u).minutes = (s.hall.runs.get u).minutes) ∧
      (∀ u : Tx, clean u → counted (s.hall.txUnit.get u) (t.hall.txUnit.get u) ∧
        ((s.hall.txUnit.get u).service = .proving → 20 ≤ (s.hall.txUnit.get u).provingMinutes + 1 →
          t.hall.noticeSet .proven = true)) ∧
      (∀ a : Ant, (∀ u : Tx, clean u → (s.hall.ctx.get u).heldRow ≠ some (antRow a)) →
        t.hall.antUnit.get a = s.hall.antUnit.get a) ∧
      (∀ (a : Ant) (u : Tx), clean u → (s.hall.ctx.get u).heldRow = some (antRow a) →
        (∀ v : Tx, clean v → (s.hall.ctx.get v).heldRow = some (antRow a) → v = u) →
        counted (s.hall.antUnit.get a) (t.hall.antUnit.get a)) ∧
      (∀ (u : Tx) (row : Row), clean u → (s.hall.ctx.get u).held = .proving row →
        (t.hall.runs.get u).minutes = (s.hall.runs.get u).minutes + 1 ∧
        ((s.hall.runs.get u).running = true → 20 ≤ (s.hall.runs.get u).minutes + 1 →
          (t.hall.runs.get u).running = false ∧ (t.hall.runs.get u).result = .passed ∧
          (t.hall.ctx.get u).state ≠ .onAir)) ∧
      (t.hall.ages = s.hall.ages) ∧
      let start : State := { s with env := { s.env with
        elapsed := s.env.elapsed + (1000 - s.env.clock.phase)
        clock := { s.env.clock.advance with lastBoundary := m } } }
      let ended := rampsAndEnds (startsOf start (beforeStarts (some m) start))
      let d := recompute { ended with hall := restandAll ended.env ended.hall }
      t = conclude d false { d with hall := selectExercise m d.env d.hall }) ∧
  ∀ (m : Nat) (e : Env) (h : Hall),
    (∀ x : Xp, candidate m e h x = true ↔
      e.tables.interval * 60 ≤ h.age x ∧ h.isOpen x = true ∧ (∀ y : Xp, y.row = x.row ∨ y.tx = x.tx →
        (h.xp y).stuck = false ∧ h.isOpen y = true ∧ ∀ n ∈ h.queue, n.xp ≠ y) ∧
      h.res x.row = .free ∧ h.stray.get x.row = false ∧ e.pins.rf.get x.row = false ∧ rfOff e h x.tx = true ∧
      h.connection x.tx = none ∧ (h.ctx.get x.tx).state = .idle ∧
      ∀ d ∈ e.due, d.tx = x.tx → m + 600 < d.beginAt) ∧
    (e.mode ≠ .run ∨ e.tables.interval = 0 ∨ h.exercise.phase ≠ .idle ∨ (∀ x : Xp, candidate m e h x = false) →
      selectExercise m e h = h) ∧
    ∀ x : Xp, e.mode = .run → 0 < e.tables.interval → h.exercise.phase = .idle → candidate m e h x = true →
      (∀ y : Xp, candidate m e h y = true → y ≠ x →
        h.age y < h.age x ∨ (h.age y = h.age x ∧ (x.row < y.row ∨ (x.row = y.row ∧ x.tx < y.tx)))) →
      let after := selectExercise m e h
      after.exercise = { h.exercise with phase := .closing, xp := x, origin := .auto } ∧
      after.res x.row = .exercise ∧
      ∃ n : QEntry, after.queue = h.queue ++ [n] ∧ n.xp = x ∧ n.dir = .close ∧ n.exercise = true ∧ n.reqs = [] ∧
        n.commands = 0 ∧ n.inFlight = false

/-- At the end of each minute every crosspoint's age rises by one, up to 65535, in every mode (R185). That the elapsed
base passes on to the end of the minute, and where a minute begins, is the model's choice (log 2). -/
def Obligations.AgesRiseEachMinute : Prop :=
  ∀ s : State, ∃ t, exec .ageMinute s = .next t ∧ (∀ x : Xp, t.hall.age x = min 65535 (s.hall.age x + 1)) ∧
    t.hall = { s.hall with ages := t.hall.ages } ∧ t.env.minuteBegan = s.env.minuteBegan + 60000 ∧
    t.env.elapsed = max s.env.elapsed (s.env.minuteBegan + 60000) ∧ t.env.clock.day = s.env.clock.day ∧
    t.env.clock.second = s.env.clock.second ∧ t.env.mode = s.env.mode ∧ t.env.tables = s.env.tables ∧ t.port = s.port

/-- SET TIME (R4): outside RUN, or with the valid flag clear, any time is taken and the due list is built anew from the
new instant (R50); with the flag clear the standings of the records are found first, as the model deduces from R43 and
R47 (log 37). In RUN a step of at most 2 s is taken and a larger one refused with TIME_STEP. -/
def Obligations.SetTimeTakesTheTime : Prop :=
  ∀ (s : State) (a b c d e : Byte), Received s →
    let day := a.toNat * 256 + b.toNat
    let second := c.toNat * 65536 + d.toNat * 256 + e.toNat
    let new := day * 86400 + second
    let p := [a, b, c, d, e]
    (86399 < second → RefusedWith (.setTime p) .field s) ∧
    (second ≤ 86399 → s.env.mode ≠ .run ∨ s.env.clock.valid = false →
      let env := { s.env with clock := { s.env.clock with
        day := day, second := second, phase := 0, valid := true, lastBoundary := new } }
      let hall := if s.env.clock.valid then s.hall else restandAll env s.hall
      ∃ t, exec (.setTime p) s = .next t ∧ AnswersOk s t p ∧
        t.env = { env with due := (rebuildDue { s with env := env, hall := hall }).env.due } ∧
        t.hall = { hall with flags := t.hall.flags }) ∧
    (second ≤ 86399 → s.env.mode = .run → s.env.clock.valid = true →
      (new + 2 < s.env.now ∨ s.env.now + 2 < new) → RefusedWith (.setTime p) .timeStep s) ∧
    (second ≤ 86399 → s.env.mode = .run → s.env.clock.valid = true → s.env.now ≤ new + 2 → new ≤ s.env.now + 2 →
      ∃ t, exec (.setTime p) s = .next t ∧ AnswersOk s t p ∧ t.env.clock.day = day ∧ t.env.clock.second = second ∧
        t.env.clock.phase = 0 ∧ t.env.clock.valid = true ∧ t.env.clock.lastBoundary = max s.env.clock.lastBoundary new ∧
        t.env.mode = .run ∧ t.env.tables = s.env.tables ∧ t.env.elapsed = s.env.elapsed)

/-- LOCK BANK, UNLOCK BANK and FREEZE BANKS (R13). -/
def Obligations.LocksAndFreeze : Prop :=
  ∀ s : State, Received s →
    (s.env.banks.freeze = true → ∀ b : Byte, b = 0 ∨ b = 1 →
      RefusedWith (.lockBank [b]) .locked s ∧ RefusedWith (.unlockBank [b]) .locked s) ∧
    (s.env.banks.freeze = false →
      ∀ v : Bool, ∀ c : List Byte → Instr, (v = true ∧ c = .lockBank) ∨ (v = false ∧ c = .unlockBank) →
        (∃ t, exec (c [0]) s = .next t ∧ t.hall = s.hall ∧
          t.env = { s.env with banks := { s.env.banks with lockA := v } } ∧
          AnswersOk s t [if v then 1 else 0, if s.env.banks.lockB then 1 else 0]) ∧
        (∃ t, exec (c [1]) s = .next t ∧ t.hall = s.hall ∧
          t.env = { s.env with banks := { s.env.banks with lockB := v } } ∧
          AnswersOk s t [if s.env.banks.lockA then 1 else 0, if v then 1 else 0])) ∧
    (∃ t, exec (.freezeBanks []) s = .next t ∧ t.hall = s.hall ∧
      t.env = { s.env with banks := { s.env.banks with freeze := true } } ∧
      AnswersOk s t [if s.env.banks.lockA then 1 else 0, if s.env.banks.lockB then 1 else 0])

/-- SET HANDOVER sets H when its checks pass, in their order (R10). CANCEL HANDOVER makes H absent (R12): a context
that works on an occurrence of the STANDBY bank is taken back with ABORTED, HANDOVER (R91, R92), a kept one is dropped
so (R85), any other is as it was; the due entries of the bank are removed with no outcome, and its records that no
context holds become DORMANT (R20). The handover, once H has come (R11): the banks change places, H is absent,
HANDOVER is raised; an occurrence of the old bank is ended at H when ON_AIR (COMPLETE or LATE), ABORTED, HANDOVER in
any other working state, and left alone in ENDING; a kept one is dropped ABORTED, HANDOVER; each due entry of the old
bank is given up MISSED, HANDOVER. -/
def Obligations.HandoverIsSetAndCancelled : Prop :=
  (∀ s : State, Received s →
    (∀ a b c d : Byte,
      let minute := c.toNat * 256 + d.toNat
      let hh := (a.toNat * 256 + b.toNat) * 86400 + minute * 60
      let p := [a, b, c, d]
      if 1439 < minute then RefusedWith (.setHandover p) .field s
      else if s.env.clock.valid = false then RefusedWith (.setHandover p) .notReady s
      else if s.env.banks.handover ≠ none then RefusedWith (.setHandover p) .busy s
      else if hh ≤ s.env.now then RefusedWith (.setHandover p) .field s
      else
        ∃ t, exec (.setHandover p) s = .next t ∧ AnswersOk s t (bInstant hh) ∧
          t.env = { s.env with due := t.env.due, banks := { s.env.banks with handover := some hh } } ∧
          t.hall.base = s.hall.base) ∧
    (s.env.banks.handover = none → OnlyAnswers (.cancelHandover []) [3] s) ∧
    (s.env.banks.handover ≠ none →
      let standby : Bank := if s.env.banks.live = .a then .b else .a
      let ofStandby (k : Handle) : Bool := (s.hall.recordOf k).any fun r => r.sched.bank = standby
      let e := { s.env with
        due := s.env.due.filter fun d => !ofStandby d.handle
        banks := { s.env.banks with handover := none } }
      ∃ (t : State) (after : Hall), exec (.cancelHandover []) s = .next t ∧ AnswersOk s t [4] ∧
        t.env = { s.env with due := t.env.due, banks := { s.env.banks with handover := none } } ∧
        t.hall.base = s.hall.base ∧ Concludes s { s with env := e, hall := restandAll e after } t ∧
        (∀ u : Tx, s.hall.keepsAlone u →
          Stopped s.hall u
            (fun o => if o.bank = standby
              then some { outcome := .aborted, reason := some .handover, ended := s.env.now } else none)
            none (fun k => if ofStandby k.handle then some (.aborted, .handover) else none) after) ∧
        ∀ (p : PlaceNo) (r : Record), s.hall.uninvolved p → s.hall.recordAt p = some r → r.sched.bank = standby →
          r.state = .waiting ∨ r.state = .dormant → t.hall.recordAt p = some { r with state := .dormant })) ∧
  ∀ s : State,
    (s.env.banks.handover = none → handoverPhase s = s) ∧
    ∀ hh : Nat, s.env.banks.handover = some hh →
      (s.env.now < hh → handoverPhase s = s) ∧
      (hh ≤ s.env.now →
        let old := s.env.banks.live
        let ofOld (k : Handle) : Bool := (s.hall.recordOf k).any fun r => r.sched.bank = old
        let e := { s.env with
          due := s.env.due.filter fun d => !ofOld d.handle
          banks := { s.env.banks with live := if old = .a then .b else .a, handover := none } }
        ∃ mid : Hall, mid.noticeSet .handover = true ∧
          (∀ u : Tx, s.hall.keepsAlone u →
            let c := s.hall.ctx.get u
            Stopped s.hall u
              (fun o => if o.bank = old then some (if c.state = .onAir
                then { outcome := if c.lateSeconds = 0 then .complete else .late, reason := none, ended := hh }
                else { outcome := .aborted, reason := some .handover, ended := s.env.now }) else none)
              none (fun k => if ofOld k.handle then some (.aborted, .handover) else none) mid) ∧
          let gone := s.env.due.filter fun d => ofOld d.handle
          let given := gone.foldl (fun h d => finishRecord e d.tx d.handle
            { outcome := .missed, reason := some .handover, start := d.start, late := 0, early := 0 } h) mid
          handoverPhase s = State.settled { s with env := e, hall := restandAll e given })

/-! The slot table (Chapter 2). -/

/-- ADD SLOT, its checks passed, stores a record in the lowest free place, whose generation it keeps, and answers with
the handle, the state and the adjusted-field list; every other place that no changeover is concerned with is as it was
(R18, R27, R30). The bits of the adjusted-field list are the model's choice (log 8). The clamps are those of R27: the
power to the rating and to the maximum power of an antenna or load, the tilt to the antenna's tilt count less one, 0 for
a load, the cut allowance to 180 s; every other field is stored as it is. -/
def Obligations.AddSlotStoresARecord : Prop :=
  (∀ (e : Env) (raw : Schedule) (f : TxCfg), e.tables.tx.get raw.tx = some f →
    let c := clampSchedule e raw
    c = { raw with power := c.power, tilt := c.tilt, cut := if 180 < raw.cut then 180 else raw.cut } ∧
    (∀ (a : Ant) (k : AntCfg), raw.target = .antenna a → e.tables.ant.get a = some k →
      c.power = min raw.power (min f.rating k.maxPower) ∧ c.tilt = min raw.tilt (k.tiltCount - 1)) ∧
    (∀ l : LoadNo, raw.target = .load l → c.power = min raw.power (min f.rating (e.tables.load.get l)) ∧ c.tilt = 0) ∧
    (∀ g : GroupNo, raw.target = .group g → c.power = min raw.power f.rating ∧ c.tilt = raw.tilt)) ∧
  ∀ (s : State) (p : List Byte) (raw : Schedule) (place : PlaceNo), Received s → p.length = 28 →
    addLayout p = true → addImage p = some raw → raw.fieldsOk = true → configuredFor s.env raw = true →
    s.env.banks.locked raw.bank = false → reachCheck s.env raw = none → s.hall.lowestFree = some place →
    conflictOf s.hall none (clampSchedule s.env raw) = none → s.hall.uninvolved place →
    ∃ (t : State) (r : Record), exec (.addSlot p) s = .next t ∧ OnlyDue s t ∧ t.hall.base = s.hall.base ∧
      t.hall.slots.get place = { gen := (s.hall.slots.get place).gen, record := some r } ∧
      r.sched = clampSchedule s.env raw ∧ (r.state = .waiting ∨ r.state = .dormant) ∧ r.served = none ∧
      r.current = none ∧ r.last = none ∧ r.retire = none ∧ r.suspendPending = false ∧
      r.adjusted = adjustedBy raw (clampSchedule s.env raw) ∧
      AnswersOk s t ((s.hall.handleOf place).bytes ++ [BitVec.ofNat 8 r.state.code, BitVec.ofNat 8 r.adjusted.bits]) ∧
      ∀ q : PlaceNo, q ≠ place → s.hall.uninvolved q → t.hall.slots.get q = s.hall.slots.get q

/-- The refusals of ADD SLOT after its layout, in their order (R24, R25, R26, R29, R30), and what the checks of R25,
R26 and R29 ask: the bands that hold the frequency, the azimuth reached (R129), and the weekly arcs of R28 against
every other record of the bank, CONFLICT_TX before CONFLICT_ANT, groups never compared. -/
def Obligations.AddSlotRefusesInOrder : Prop :=
  (∀ (e : Env) (raw : Schedule),
    let inBand (a : Ant) (k : AntCfg) : Prop :=
      e.tables.ant.get a = some k ∧ k.bandLow ≤ raw.freq ∧ raw.freq ≤ k.bandHigh
    (bandOk e raw = true ↔
      (∃ f, e.tables.tx.get raw.tx = some f ∧ f.bandLow ≤ raw.freq ∧ raw.freq ≤ f.bandHigh) ∧
      match raw.target with
      | .antenna a => ∃ k, inBand a k
      | .load _ => True
      | .group g => ∃ a ∈ e.tables.group.get g, ∃ k, inBand a k) ∧
    (azimuthOk e raw = true ↔ ∀ z : Nat, raw.azimuth = some z →
      match raw.target with
      | .antenna a => ∃ k, e.tables.ant.get a = some k ∧ k.Points z
      | .load _ => False
      | .group g => ∃ a ∈ e.tables.group.get g, ∃ k, inBand a k ∧ k.Points z)) ∧
  (∀ (h : Hall) (self : Option PlaceNo) (c : Schedule),
    let against (p : Schedule → Prop) : Prop := ∃ (place : PlaceNo) (r : Record), self ≠ some place ∧
      h.recordAt place = some r ∧ r.sched.bank = c.bank ∧ CouldMeet c r.sched ∧ p r.sched
    let sameTx := against fun r => r.tx = c.tx
    let sameTarget := against fun r => r.target = c.target ∧ ∀ g : GroupNo, c.target ≠ .group g
    (sameTx → conflictOf h self c = some .conflictTx) ∧
    (¬sameTx → sameTarget → conflictOf h self c = some .conflictAnt) ∧
    (¬sameTx → ¬sameTarget → conflictOf h self c = none)) ∧
  ∀ (s : State) (p : List Byte), Received s → p.length = 28 → addLayout p = true →
    match addImage p with
    | none => RefusedWith (.addSlot p) .field s
    | some raw =>
      if raw.fieldsOk = false then RefusedWith (.addSlot p) .field s
      else if configuredFor s.env raw = false then RefusedWith (.addSlot p) .notReady s
      else if s.env.banks.locked raw.bank = true then RefusedWith (.addSlot p) .locked s
      else if bandOk s.env raw = false then RefusedWith (.addSlot p) .band s
      else if azimuthOk s.env raw = false then RefusedWith (.addSlot p) .azimuth s
      else if ∀ q, (s.hall.recordAt q).isSome = true then RefusedWith (.addSlot p) .tableFull s
      else ∀ st, conflictOf s.hall none (clampSchedule s.env raw) = some st → RefusedWith (.addSlot p) st s

/-- AMEND SLOT on a record that is not in flight, its checks passed, replaces the fields named and keeps the handle and
the rest of the record (R32, R33). On a PREPARING or ON_AIR record it replaces duration or power (R34): a new E to come
is taken into the occurrence in flight, one that has come ends an ON_AIR occurrence and aborts a PREPARING one. The bits
of the adjusted-field list are the model's choice (log 8). -/
def Obligations.AmendSlotReplacesTheFields : Prop :=
  ∀ (s : State) (p : List Byte) (k : Handle) (r : Record) (raw : Schedule), Received s → p.length = 28 →
    namedRecord s.hall (wordAt p 0) = .ok (k, r) → s.env.banks.locked r.sched.bank = false → amendLayout p = true →
    amendImage p r.sched = some raw → raw.fieldsOk = true → configuredFor s.env raw = true →
    reachCheck s.env raw = none → conflictOf s.hall (some k.place) (clampSchedule s.env raw) = none →
    (r.state = .dormant ∨ r.state = .waiting ∨ r.state = .suspended → r.suspendPending = false →
      s.hall.uninvolved k.place →
    ∃ (t : State) (r' : Record), exec (.amendSlot p) s = .next t ∧ OnlyDue s t ∧ t.hall.base = s.hall.base ∧
      t.hall.slots.get k.place = { gen := k.gen, record := some r' } ∧
      r' = { r with
        sched := clampSchedule s.env raw, adjusted := adjustedBy raw (clampSchedule s.env raw), state := r'.state } ∧
      (r.state = .suspended → r'.state = .suspended) ∧
      AnswersOk s t [BitVec.ofNat 8 r'.state.code, BitVec.ofNat 8 r'.adjusted.bits] ∧
      ∀ q : PlaceNo, q ≠ k.place → s.hall.uninvolved q → t.hall.slots.get q = s.hall.slots.get q) ∧
    (r.state = .preparing ∨ r.state = .onAir → r.suspendPending = false → s.hall.keptBy k = none →
      (∀ f : SlotField, amends p f = true → f = .duration ∨ f = .power) →
      let c := clampSchedule s.env raw
      let r1 := { r with sched := c, adjusted := adjustedBy raw c }
      ∃ t after, exec (.amendSlot p) s = .next t ∧ OnlyDue s t ∧ t.hall.base = s.hall.base ∧
        Concludes s { s with hall := after } t ∧
        (∀ r' : Record, t.hall.recordOf k = some r' →
          AnswersOk s t [BitVec.ofNat 8 r'.state.code, BitVec.ofNat 8 r1.adjusted.bits]) ∧
        (amends p .duration = false → after = s.hall.setRecord k.place (some r1)) ∧
        ∀ (u : Tx) (o : Occ), amends p .duration = true → s.hall.heldBy k = some u →
          (s.hall.ctx.get u).held = .occurrence o →
          let finish := o.start + c.duration * 60
          let o' := { o with finish := finish }
          if s.env.now < finish then
            after.ctx = s.hall.ctx.set u { s.hall.ctx.get u with held := .occurrence o' } ∧
            after.slots.get k.place = { gen := k.gen, record := some { r1 with
              current := r.current.map fun x => { x with finish := finish } } }
          else
            (s.hall.ctx.get u).state.working = true →
              Unwound s.hall u o'
                (if r.state = .onAir then
                  { outcome := if (s.hall.ctx.get u).lateSeconds = 0 then .complete else .late, reason := none
                    ended := finish }
                else { outcome := .aborted, reason := some .command, ended := s.env.now }) after)

/-- The refusals of AMEND SLOT, in their order: the handle, LOCKED, what is named, BUSY, then the checks of the amended
record (R16, R32). That the refusals of R215 stand with those of what is named is the model's choice (log 43). -/
def Obligations.AmendSlotRefusesInOrder : Prop :=
  ∀ (s : State) (p : List Byte), Received s → p.length = 28 →
    (1024 ≤ wordAt p 0 % 4096 → RefusedWith (.amendSlot p) .field s) ∧
    (∀ (place : PlaceNo) (gen : Fin 16), wordAt p 0 = gen.val * 4096 + place.val →
      match s.hall.recordAt place with
      | none => RefusedWith (.amendSlot p) .staleHandle s
      | some r =>
        let k : Handle := ⟨place, gen⟩
        if (s.hall.slots.get place).gen ≠ gen then RefusedWith (.amendSlot p) .staleHandle s
        else if s.env.banks.locked r.sched.bank = true then RefusedWith (.amendSlot p) .locked s
        else if amendLayout p = false then RefusedWith (.amendSlot p) .field s
        else if r.state = .retiring ∨ r.state = .ending ∨ r.suspendPending = true ∨ s.hall.keptBy k ≠ none ∨
            ((r.state = .preparing ∨ r.state = .onAir) ∧
              ∃ f ∈ slotFields, amends p f = true ∧ f ≠ .duration ∧ f ≠ .power) then
          RefusedWith (.amendSlot p) .busy s
        else
          match amendImage p r.sched with
          | none => RefusedWith (.amendSlot p) .field s
          | some raw =>
            if raw.fieldsOk = false then RefusedWith (.amendSlot p) .field s
            else if configuredFor s.env raw = false then RefusedWith (.amendSlot p) .notReady s
            else if bandOk s.env raw = false then RefusedWith (.amendSlot p) .band s
            else if azimuthOk s.env raw = false then RefusedWith (.amendSlot p) .azimuth s
            else
              ∀ st, conflictOf s.hall (some place) (clampSchedule s.env raw) = some st →
                RefusedWith (.amendSlot p) st s)

/-- RETIRE SLOT frees the place of a record that is not in flight at once and advances its generation modulo 16, so that
the old handle is stale (R15, R16, R35, R37). On one in flight it answers PENDING, marks it RETIRING with its option and
aborts, drops or cuts the occurrence by the table of R36, or lets it run on. A handle above place 1023 is refused with
FIELD, a stale one with STALE_HANDLE, then a record of a locked bank with LOCKED, then an option that is neither NOW nor
AT_END with FIELD (R16, R35, R212). -/
def Obligations.RetireSlotFreesThePlace : Prop :=
  (∀ (s : State) (p : List Byte), Received s → p.length = 3 → HandleRefusals (.retireSlot p) p s ∧
    ∀ (k : Handle) (r : Record), namedRecord s.hall (wordAt p 0) = .ok (k, r) →
      s.env.banks.locked r.sched.bank = false → 1 < byteAt p 2 → RefusedWith (.retireSlot p) .field s) ∧
  ∀ (s : State) (p : List Byte) (k : Handle) (r : Record), Received s → p.length = 3 → byteAt p 2 ≤ 1 →
    namedRecord s.hall (wordAt p 0) = .ok (k, r) → s.env.banks.locked r.sched.bank = false →
    (s.hall.inFlight k r = false → s.hall.uninvolved k.place →
      ∃ t, exec (.retireSlot p) s = .next t ∧ OnlyDue s t ∧ t.hall.base = s.hall.base ∧
        t.hall.slots.get k.place = { gen := k.gen + 1, record := none } ∧ t.hall.recordOf k = none ∧
        AnswersOk s t [2] ∧
        ∀ q : PlaceNo, q ≠ k.place → s.hall.uninvolved q → t.hall.slots.get q = s.hall.slots.get q) ∧
    (s.hall.inFlight k r = true →
      let o : RetireOpt := if byteAt p 2 = 0 then .now else .atEnd
      let marked := { r with state := .retiring, retire := some o }
      ∃ t, exec (.retireSlot p) s = .next t ∧ OnlyDue s t ∧ t.hall.base = s.hall.base ∧ AnswersOk s t [1] ∧
        (r.retire = none → s.hall.keptBy k = none → r.state = .ending ∨ (r.state = .onAir ∧ o = .atEnd) →
          Concludes s { s with hall := s.hall.setRecord k.place (some marked) } t) ∧
        (∀ (u : Tx) (h : Occ), r.retire = none → s.hall.keptBy k = none → s.hall.heldBy k = some u →
          (s.hall.ctx.get u).held = .occurrence h → (s.hall.ctx.get u).state.working = true →
          r.state = .preparing ∨ (r.state = .onAir ∧ o = .now) →
          ∃ after, Concludes s { s with hall := after } t ∧
            Unwound s.hall u h
              { outcome := if r.state = .preparing then .aborted else .cut, reason := some .command, ended := s.env.now }
              after ∧
            (if (s.hall.ctx.get u).state.rfMayBeOn then
              after.slots.get k.place = { gen := k.gen, record := some marked }
            else (∀ x ∈ r.current, x.start = h.start) →
              after.slots.get k.place = { gen := k.gen + 1, record := none })) ∧
        (∀ (u : Tx) (x : Kept), r.retire = none → r.current = none → s.hall.keptBy k = some u →
          (s.hall.ctx.get u).kept = some x →
          ∃ after, Concludes s { s with hall := after } t ∧
            after.ctx = s.hall.ctx.set u { s.hall.ctx.get u with kept := none } ∧
            after.lastOutcome.get u = some { handle := k, last :=
              { outcome := .aborted, reason := some .command, start := x.start, late := 0, early := 0 } } ∧
            after.slots.get k.place = { gen := k.gen + 1, record := none }) ∧
        (∀ (u : Tx) (h : Occ), r.state = .retiring → r.retire = some .atEnd → o = .now → s.hall.keptBy k = none →
          s.hall.heldBy k = some u → (s.hall.ctx.get u).held = .occurrence h → (s.hall.ctx.get u).state.working = true →
          ∃ after, Concludes s { s with hall := after } t ∧
            Unwound s.hall u h { outcome := .cut, reason := some .command, ended := s.env.now } after ∧
            ((s.hall.ctx.get u).state.rfMayBeOn = true →
              after.slots.get k.place = { gen := k.gen, record := some marked })) ∧
        (r.state = .retiring → s.hall.keptBy k = none → r.retire = some .now ∨ (r.retire = some .atEnd ∧
            (o = .atEnd ∨ ∃ u, s.hall.heldBy k = some u ∧ (s.hall.ctx.get u).state = .ending)) →
          Concludes s s t))

/-- SUSPEND SLOT and RESUME SLOT (R38, R39): at once on a record that no changeover is concerned with. On one in flight
suspension is pending until its occurrence has finished, which is aborted, dropped or cut, or lets its ending go on;
RESUME SLOT takes the pending suspension back. Elsewhere they change nothing. A handle above place 1023 is refused with
FIELD, a stale one with STALE_HANDLE, then a record of a locked bank with LOCKED, and a RETIRING record with BUSY (R16,
R38, R39, R212). -/
def Obligations.SuspendAndResume : Prop :=
  (∀ (s : State) (p : List Byte), Received s → p.length = 2 →
    HandleRefusals (.suspendSlot p) p s ∧ HandleRefusals (.resumeSlot p) p s) ∧
  ∀ (s : State) (p : List Byte) (k : Handle) (r : Record), Received s → p.length = 2 →
    namedRecord s.hall (wordAt p 0) = .ok (k, r) → s.env.banks.locked r.sched.bank = false →
    (r.state = .retiring → RefusedWith (.suspendSlot p) .busy s ∧ RefusedWith (.resumeSlot p) .busy s) ∧
    (r.state = .dormant ∨ r.state = .waiting → r.suspendPending = false → s.hall.uninvolved k.place →
      ∃ t, exec (.suspendSlot p) s = .next t ∧ OnlyDue s t ∧ t.hall.base = s.hall.base ∧ AnswersOk s t [5, 0] ∧
        t.hall.slots.get k.place = { gen := k.gen, record := some { r with state := .suspended } } ∧
        ∀ q : PlaceNo, q ≠ k.place → s.hall.uninvolved q → t.hall.slots.get q = s.hall.slots.get q) ∧
    (r.state = .suspended → r.suspendPending = false → s.hall.uninvolved k.place →
      ∃ t, exec (.resumeSlot p) s = .next t ∧ OnlyDue s t ∧ t.hall.base = s.hall.base ∧
        ∃ st : RecState, (st = .waiting ∨ st = .dormant) ∧ AnswersOk s t [BitVec.ofNat 8 st.code] ∧
          t.hall.slots.get k.place = { gen := k.gen, record := some { r with state := st } } ∧
          ∀ q : PlaceNo, q ≠ k.place → s.hall.uninvolved q → t.hall.slots.get q = s.hall.slots.get q) ∧
    (r.state ≠ .retiring →
      (∃ t, exec (.suspendSlot p) s = .next t ∧ OnlyDue s t ∧ t.hall.base = s.hall.base ∧
        (∀ r' : Record, t.hall.recordOf k = some r' →
          AnswersOk s t [BitVec.ofNat 8 r'.state.code, if r'.suspendPending then 1 else 0]) ∧
        (r.state = .suspended ∨ r.suspendPending = true → Concludes s s t) ∧
        (r.state = .ending → r.suspendPending = false → s.hall.keptBy k = none →
          Concludes s { s with hall := s.hall.setRecord k.place (some { r with suspendPending := true }) } t) ∧
        (∀ (u : Tx) (o : Occ), r.state = .preparing ∨ r.state = .onAir → r.suspendPending = false →
          s.hall.keptBy k = none → s.hall.heldBy k = some u → (s.hall.ctx.get u).held = .occurrence o →
          (s.hall.ctx.get u).state.working = true →
          ∃ after, Concludes s { s with hall := after } t ∧
            Unwound s.hall u o
              { outcome := if r.state = .preparing then .aborted else .cut, reason := some .command, ended := s.env.now }
              after ∧
            (if (s.hall.ctx.get u).state.rfMayBeOn then
              after.slots.get k.place =
                { gen := k.gen, record := some { r with state := .ending, suspendPending := true } }
            else (∀ x ∈ r.current, x.start = o.start) → ∃ r' : Record,
              after.slots.get k.place = { gen := k.gen, record := some r' } ∧ r'.state = .suspended ∧
              r'.suspendPending = false ∧ r'.current = none ∧ r'.served = some o.start)) ∧
        (∀ (u : Tx) (x : Kept), r.state = .waiting → r.suspendPending = false → r.current = none →
          s.hall.keptBy k = some u → (s.hall.ctx.get u).kept = some x →
          ∃ (after : Hall) (r' : Record), Concludes s { s with hall := after } t ∧
            after.ctx = s.hall.ctx.set u { s.hall.ctx.get u with kept := none } ∧
            after.lastOutcome.get u = some { handle := k, last :=
              { outcome := .aborted, reason := some .command, start := x.start, late := 0, early := 0 } } ∧
            after.slots.get k.place = { gen := k.gen, record := some r' } ∧ r'.state = .suspended ∧
            r'.suspendPending = false ∧ r'.served = some x.start)) ∧
      (r.suspendPending = true → ∃ t, exec (.resumeSlot p) s = .next t ∧ OnlyDue s t ∧ t.hall.base = s.hall.base ∧
        AnswersOk s t [BitVec.ofNat 8 r.state.code] ∧
        Concludes s { s with hall := s.hall.setRecord k.place (some { r with suspendPending := false }) } t) ∧
      (r.suspendPending = false → r.state ≠ .suspended → ∃ t, exec (.resumeSlot p) s = .next t ∧ OnlyDue s t ∧
        t.hall.base = s.hall.base ∧ AnswersOk s t [BitVec.ofNat 8 r.state.code] ∧ Concludes s s t))

/-- CLEAR BANK frees every place of the unlocked STANDBY bank when none of its records is in flight (R40), whatever the
LIVE bank does; every other place that no changeover is concerned with is as it was. -/
def Obligations.ClearBankFreesTheStandby : Prop :=
  ∀ (s : State) (k : Bank), Received s →
    let p := [BitVec.ofNat 8 k.code]
    if k = s.env.banks.live then RefusedWith (.clearBank p) .field s
    else if s.env.banks.locked k = true then RefusedWith (.clearBank p) .locked s
    else if s.hall.bankInFlight k ≠ 0 then RefusedWith (.clearBank p) .busy s
    else (∀ (q : PlaceNo) (r : Record), s.hall.recordAt q = some r → r.sched.bank = k → s.hall.uninvolved q) →
      ∃ t, exec (.clearBank p) s = .next t ∧ OnlyDue s t ∧ t.hall.base = s.hall.base ∧
        AnswersOk s t (b2 (s.hall.bankRecords k).length) ∧
        ∀ q : PlaceNo,
          if (s.hall.recordAt q).any fun r => r.sched.bank == k
          then t.hall.slots.get q = { gen := (s.hall.slots.get q).gen + 1, record := none }
          else s.hall.uninvolved q → t.hall.slots.get q = s.hall.slots.get q

/-! Requests that only read. -/

/-- READ TIME (R8) and READ BANKS (R14), whose STANDBY count of records in flight has two bytes by the model's choice
(log 7). -/
def Obligations.ReadTimeAndBanks : Prop :=
  ∀ s : State, Received s →
    let c := s.env.clock
    let b := s.env.banks
    OnlyAnswers (.readTime [])
      (b2 c.day ++ b3 c.second ++
        [BitVec.ofNat 8 ((c.day + c.weekdayBase) % 7), if c.valid then 1 else 0, BitVec.ofNat 8 c.weekdayBase,
          if c.markState = .off then 0 else 1, BitVec.ofNat 8 c.markState.code]) s ∧
    OnlyAnswers (.readBanks [])
      ([if b.live = .a then 0 else 1, if b.lockA then 1 else 0, if b.lockB then 1 else 0, if b.freeze then 1 else 0] ++
        (match b.handover with
          | some i => 1 :: (b2 (i / 86400) ++ b3 (i % 86400))
          | none => [0, 0, 0, 0, 0, 0]) ++
        b2 (s.hall.bankRecords .a).length ++ b2 (s.hall.bankRecords .b).length ++ b2 (s.hall.bankInFlight b.standby)) s

/-- READ SLOT gives the record a handle names, and refuses a handle of no place or of a free one or of another
generation (R16, R41); how the run-time part is laid out, the retirement option and the companions of outcome NONE
above all, is the model's choice (log 7), as are the bits of the adjusted-field list (log 8) and the day after day
65535 (log 53). FIND SLOTS gives the first sixteen handles beyond the resume point that pass, and refuses a filter or
a resume point out of its range with FIELD (R42); the target number beside ANY is ignored, the model's choice (log
52). -/
def Obligations.ReadAndFindSlots : Prop :=
  ∀ (s : State) (p : List Byte), Received s →
    (∀ (place : PlaceNo) (gen : Fin 16), p = b2 (gen.val * 4096 + place.val) →
      match s.hall.recordAt place with
      | none => RefusedWith (.readSlot p) .staleHandle s
      | some r =>
        if (s.hall.slots.get place).gen = gen
        then OnlyAnswers (.readSlot p) (imageBytes ⟨place, gen⟩ r.sched ++ r.runBytes) s
        else RefusedWith (.readSlot p) .staleHandle s) ∧
    (p.length = 2 → 1024 ≤ wordAt p 0 % 4096 → RefusedWith (.readSlot p) .field s) ∧
    (∀ f : Find, p.length = 6 → findOf p = some f →
      let found := ((s.hall.occupied.filter f.passes).take 16).map Prod.fst
      OnlyAnswers (.findSlots p) (found.flatMap Handle.bytes ++ b2 (nextResume found)) s) ∧
    (∀ bank tx kind number hi lo : Byte,
      let place := hi.toNat * 256 + lo.toNat
      (1 < bank.toNat ∧ bank ≠ 0xFF) ∨ (15 < tx.toNat ∧ tx ≠ 0xFF) ∨ (2 < kind.toNat ∧ kind ≠ 0xFF) ∨
        (kind = 0 ∧ 23 < number.toNat) ∨ (kind = 1 ∧ 1 < number.toNat) ∨
        (kind = 2 ∧ 7 < number.toNat) ∨ (1023 < place ∧ place ≠ 0xFFFF) →
      RefusedWith (.findSlots [bank, tx, kind, number, hi, lo]) .field s)

/-- READ DUE LIST, READ CHANGEOVER, READ TRANSMITTER, READ ROW, READ QUEUE, READ ANTENNA, READ GROUPS, READ
PROTECTION, READ SWEEP and READ STATUS answer and change nothing (R64, R98, R119, R120, R142, R158, R183, R196, R210).
Choices of the model (logs 7, 12, 21, 47, 53, 72, 76): the bytes of READ CHANGEOVER and READ QUEUE, an absent owner or
connection and the order of claims of equal deadline in READ ROW, the seconds left, rounded up, the direction that
READ ROW shows of two opposite operations, the trips that READ CHANGEOVER counts, a day after day 65535, the absent
deadline of an operation without requesters in READ QUEUE, the bytes of an antenna entry, a reported position, a group
and a request, the load and the result of a proving run and P1 and P2 as two items in READ PROTECTION, and the
exercise and its last result in READ SWEEP (the origin stands with the crosspoint behind one presence byte, and a byte
0 follows a result that is not FAILED). -/
def Obligations.ReadsOfTheHallChangeNothing : Prop :=
  ∀ s : State, Received s →
    (∀ b : Byte, b.toNat ≤ 15 →
      OnlyAnswers (.readDueList [b])
        (b1 s.env.due.length ++ ((s.env.due.drop b.toNat).take 2).flatMap DueEntry.bytes) s) ∧
    (∀ b : Byte, 15 < b.toNat → RefusedWith (.readDueList [b]) .field s) ∧
    (∀ t : Tx, OnlyAnswers (.readChangeover [BitVec.ofNat 8 t.val]) ((s.hall.ctx.get t).bytes s.env) s) ∧
    (∀ t : Tx,
      let l := s.hall.links.get t
      OnlyAnswers (.readTransmitter [BitVec.ofNat 8 t.val])
        (bOpt 10 ((s.env.tables.tx.get t).map TxCfg.bytes) ++
          [BitVec.ofNat 8 l.state.code, BitVec.ofNat 8 l.missed] ++ bOpt 13 (l.telemetry.map (Telemetry.bytes s.env)) ++
          bOpt 7 (l.pending.map Preset.bytes) ++ bOpt 3 (l.presetFreq.map fun f => b2 f ++ b1 l.presetProgramme) ++
          bOpt 1 (l.tuneNumber.map b1) ++ bOpt 1 (l.lastCarried.map b1)) s) ∧
    (∀ b : Byte, 16 ≤ b.toNat →
      RefusedWith (.readChangeover [b]) .field s ∧ RefusedWith (.readTransmitter [b]) .field s) ∧
    (∀ (r : Row) (b : Byte), b.toNat ≤ 4 →
      OnlyAnswers (.readRow [BitVec.ofNat 8 r.val, b])
        ([BitVec.ofNat 8 r.val, b] ++ rowPart s.env s.hall r b.toNat) s) ∧
    (∀ a b : Byte, 26 ≤ a.toNat ∨ 4 < b.toNat → RefusedWith (.readRow [a, b]) .field s) ∧
    (∀ b : Byte, b.toNat ≤ 63 → OnlyAnswers (.readQueue [b])
      ([BitVec.ofNat 8 s.hall.queue.length, BitVec.ofNat 8 s.hall.commanded] ++
        ((s.hall.queue.zipIdx.drop b.toNat).take 4).flatMap (fun x => x.1.bytes x.2) ++ surveyBytes s.hall) s) ∧
    (∀ b : Byte, 63 < b.toNat → RefusedWith (.readQueue [b]) .field s) ∧
    (∀ a : Ant, OnlyAnswers (.readAntenna [BitVec.ofNat 8 a.val]) (antennaBytes s.env s.hall a) s) ∧
    (∀ l : LoadNo, OnlyAnswers (.readAntenna [BitVec.ofNat 8 (24 + l.val)]) (b2 (s.env.tables.load.get l)) s) ∧
    (∀ b : Byte, 26 ≤ b.toNat → RefusedWith (.readAntenna [b]) .field s) ∧
    OnlyAnswers (.readGroups []) (s.env.tables.group.cells.flatMap groupBytes) s ∧
    (∀ t : Tx, OnlyAnswers (.readProtection [BitVec.ofNat 8 t.val]) (txProtectionBytes s.env s.hall t) s) ∧
    (∀ a : Ant, OnlyAnswers (.readProtection [BitVec.ofNat 8 (32 + a.val)])
      [BitVec.ofNat 8 (s.hall.antUnit.get a).score, BitVec.ofNat 8 (s.hall.antUnit.get a).service.code,
        BitVec.ofNat 8 (s.hall.antUnit.get a).provingMinutes] s) ∧
    (∀ b : Byte, 16 ≤ b.toNat → b.toNat < 32 ∨ 56 ≤ b.toNat → b ≠ 0xFF →
      RefusedWith (.readProtection [b]) .field s) ∧
    OnlyAnswers (.readProtection [0xFF])
      (b1 s.env.tables.warnLevel ++ b2 s.env.tables.foldStart ++ b1 s.env.tables.pause) s ∧
    OnlyAnswers (.readSweep []) (b2 s.env.tables.interval ++ s.hall.exercise.bytes ++ s.hall.sweep.bytes) s ∧
    OnlyAnswers (.readStatus [])
      ([BitVec.ofNat 8 s.env.mode.code, if s.env.pins.hallstop then 1 else 0, if s.env.pins.localKey then 1 else 0] ++
        b3 s.hall.flags.toNat ++ b3 s.hall.enables.toNat ++ b3 s.hall.routes.toNat ++
        [if s.hall.alertActive then 0 else 1, if s.hall.noteActive then 0 else 1] ++ b2 s.hall.freeCount ++
        [BitVec.ofNat 8 s.env.due.length, BitVec.ofNat 8 s.hall.queue.length, BitVec.ofNat 8 s.hall.commanded,
          if s.env.clock.valid then 1 else 0, BitVec.ofNat 8 s.env.clock.markState.code] ++
        b2 s.env.clock.day ++ b3 s.env.clock.second ++ [BitVec.ofNat 8 s.hall.sweep.state.code] ++ surveyBytes s.hall) s

/-- READ PLAN gives a transmitter's last outcome once: the field becomes NO_CHANGE, and nothing else changes (R65, R66).
The bytes of a field at NO_CHANGE are the model's choice (log 7). -/
def Obligations.ReadPlanGivesTheOutcomeOnce : Prop :=
  ∀ (s : State) (tx : Tx), Received s →
    (∀ b : Byte, 16 ≤ b.toNat → RefusedWith (.readPlan [b]) .field s) ∧
    ∃ t, exec (.readPlan [BitVec.ofNat 8 tx.val]) s = .next t ∧ t.env = s.env ∧
      t.hall = { s.hall with lastOutcome := t.hall.lastOutcome } ∧ t.hall.lastOutcome.get tx = none ∧
      (∀ u : Tx, u ≠ tx → t.hall.lastOutcome.get u = s.hall.lastOutcome.get u) ∧
      AnswersOk s t (planOutcomeBytes (s.hall.lastOutcome.get tx) ++
        [BitVec.ofNat 8 (s.hall.ctx.get tx).state.code] ++
        bOpt 25 ((s.env.due.find? fun d => d.tx == tx).map DueEntry.bytes))

/-! The timers of the contexts (Chapter 4). -/

/-- The mute timer runs out in MUTING or ENDING: MUTE_FAIL is raised, and the transmitter is BARRED with score 255
unless it is OUT or BARRED already (R72, R86, R178). The context becomes IDLE. In MUTING the occurrence is MISSED,
MUTE, and a proving run ends FAILED, MUTE; in ENDING the occurrence finishes with the outcome decided already, and a
kept one is dropped with MISSED, MUTE. That the elapsed base passes on to the expiry is the model's choice (log 2). -/
def Obligations.MuteFailureBars : Prop :=
  ∀ (s : State) (tx : Tx) (m : Timer), (s.hall.ctx.get tx).timer = some m → m.kind = .mute →
    (s.hall.ctx.get tx).state = .muting ∨ (s.hall.ctx.get tx).state = .ending →
    let c := s.hall.ctx.get tx
    ∃ t, exec (.muteTimerExpiry tx) s = .next t ∧ t.port = s.port ∧ t.hall.noticeSet .muteFail = true ∧
      t.env.elapsed = max s.env.elapsed m.expiry ∧ t.env.mode = s.env.mode ∧ t.env.tables = s.env.tables ∧
      (if (s.hall.txUnit.get tx).service = .out ∨ (s.hall.txUnit.get tx).service = .barred
        then t.hall.txUnit.get tx = s.hall.txUnit.get tx
        else t.hall.txUnit.get tx = { score := 255, service := .barred, provingMinutes := 0 } ∧
          t.hall.noticeSet .barred = true) ∧
      (∀ u : Tx, u ≠ tx → t.hall.txUnit.get u = s.hall.txUnit.get u) ∧ t.hall.antUnit = s.hall.antUnit ∧
      t.hall.ages = s.hall.ages ∧
      ∃ after, Concludes s { s with env := passTo m.expiry s.env, hall := after } t ∧
        after.ctx.get tx = Context.idle ∧ (∀ u : Tx, u ≠ tx → after.ctx.get u = s.hall.ctx.get u) ∧
        (∀ (o : Occ) (d : Decided), c.held = .occurrence o →
          (c.state = .muting ∧ d = { outcome := .missed, reason := some .mute, ended := s.env.now }) ∨
            (c.state = .ending ∧ c.decided = some d) →
          let last := outcomeOf d o.start o.finish c.lateSeconds c.wentOnAir
          after.lastOutcome.get tx = some { handle := o.handle, last := last } ∧
          ∀ r : Record, s.hall.recordOf o.handle = some r → r.state ≠ .retiring →
            ∃ r', after.recordOf o.handle = some r' ∧ r'.last = some last ∧ r'.sched = r.sched) ∧
        (c.state = .muting → (s.hall.runs.get tx).running = true →
          after.runs.get tx = { s.hall.runs.get tx with running := false, result := .failed .mute }) ∧
        ∀ (k : Kept) (r : Record), c.state = .ending → c.kept = some k →
          (∀ o : Occ, c.held = .occurrence o → o.handle.place ≠ k.handle.place) →
          s.hall.recordOf k.handle = some r → r.state ≠ .retiring →
          ∃ r', after.recordOf k.handle = some r' ∧ r'.sched = r.sched ∧ r'.last =
            some { outcome := .missed, reason := some .mute, start := k.start, late := 0, early := 0 }

/-- The tuning timer runs out (R75): at the first attempt the PRESET is handed again and the timer takes the same
length, the length it was held with (log 31). At the second 8 is added to the score of the transmitter, which takes
its state from it or is barred (R168, R170, R172), and the occurrence is MISSED, TUNE, and unwound (R75, R91). That
the elapsed base passes on to the expiry is the model's choice (log 2). -/
def Obligations.TuningTimerRunsOut : Prop :=
  ∀ (s : State) (tx : Tx) (m : Timer) (o : Occ), (s.hall.ctx.get tx).timer = some m → m.kind = .tuning →
    (s.hall.ctx.get tx).state = .preparing → (s.hall.ctx.get tx).tune = .pending →
    (s.hall.ctx.get tx).held = .occurrence o →
    ((s.hall.ctx.get tx).tuneAttempts < 2 →
      ∃ t, exec (.tuningTimerExpiry tx) s = .next t ∧ t.port = s.port ∧
        let e := max s.env.elapsed m.expiry
        let d := passTo m.expiry s.env
        Concludes s { s with
          env := d
          hall := handPreset tx
            { freq := o.freq, programme := o.programme, power := ((s.hall.power.get tx).requested).getD 10,
              number := none, tuning := true }
            (s.hall.modCtx tx fun c =>
              { c with tuneAttempts := 2, timer := some { m with expiry := e + m.length } }) } t) ∧
    (2 ≤ (s.hall.ctx.get tx).tuneAttempts →
      ∃ t, exec (.tuningTimerExpiry tx) s = .next t ∧ t.port = s.port ∧
        t.hall.txUnit.get tx = (s.hall.txUnit.get tx).scored 8 ∧
        (∀ u : Tx, u ≠ tx → t.hall.txUnit.get u = s.hall.txUnit.get u) ∧ t.hall.antUnit = s.hall.antUnit ∧
        ∃ after, Concludes s { s with env := passTo m.expiry s.env, hall := after } t ∧
          Unwound s.hall tx o { outcome := .missed, reason := some .tune, ended := s.env.now } after)

/-- The ramp timer runs out in RAMPING: a trip of cause OTHER, which drops the permit, joins the trip list, raises
TRIP and adds 8 to the score of the transmitter (R80, R87, R168, R170, R172). With no unit barred and no more trips
than the limit the context re-strikes after the pause; else it enters ENDING with the outcome decided, and a proving
run ends FAILED (R88, R90, R171, R177). The re-strike pause is over: the context ramps again with a fresh ramp timer,
and its request stands (R80, R88). That the elapsed base passes on to either expiry is the model's choice (log 2), and
so is the age of the trips counted (log 47). -/
def Obligations.RampAndPauseTimersRunOut : Prop :=
  ∀ (s : State) (tx : Tx) (m : Timer), (s.hall.ctx.get tx).timer = some m →
    (∀ row : Row, m.kind = .ramp → (s.hall.ctx.get tx).state = .ramping → (s.hall.ctx.get tx).heldRow = some row →
      let c := s.hall.ctx.get tx
      let unit := (s.hall.txUnit.get tx).scored 8
      let either (v : Service) : Prop :=
        unit.service = v ∨ ∃ a : Ant, rowAnt row = some a ∧ (s.hall.antUnit.get a).service = v
      let trips := (c.trips ++ [s.env.now]).filter fun i => s.env.now < i + 60
      let weak := either .reduced ∨ either .proving
      let few := (weak ∧ trips.length ≤ 1) ∨ (¬weak ∧ trips.length ≤ 3)
      ∃ t, exec (.rampTimerExpiry tx) s = .next t ∧ t.port = s.port ∧ t.hall.noticeSet .trip = true ∧
        t.hall.txUnit.get tx = unit ∧
        (∀ u : Tx, u ≠ tx → t.hall.txUnit.get u = s.hall.txUnit.get u) ∧ t.hall.antUnit = s.hall.antUnit ∧
        t.env.elapsed = max s.env.elapsed m.expiry ∧ t.env.tables = s.env.tables ∧ t.hall.ages = s.hall.ages ∧
        StuckKept s.hall t.hall ∧
        ∃ after, Concludes s { s with env := passTo m.expiry s.env, hall := after } t ∧
          (after.gates.get tx).request = false ∧ (after.gates.get tx).line = false ∧
          (∀ u : Tx, u ≠ tx → after.ctx.get u = s.hall.ctx.get u) ∧
          (¬either .barred → few → after.ctx.get tx = { c with
            state := .restrike, spellBegan := none, trips := trips
            timer := some { kind := .pause, expiry := max s.env.elapsed m.expiry + s.env.tables.pause * 1000
                            length := s.env.tables.pause * 1000 } }) ∧
          (either .barred ∨ ¬few →
            let ms := (s.env.muteTime tx + 10) * 1000
            let cuts (r missed : Reason) : Option Decided := some
              { outcome := if c.wentOnAir then .cut else .missed, reason := some (if c.wentOnAir then r else missed)
                ended := s.env.now }
            let ends (r : Reason) : RunRec := { s.hall.runs.get tx with running := false, result := .failed r }
            (after.ctx.get tx).state = .ending ∧ (after.ctx.get tx).held = c.held ∧
            (after.ctx.get tx).endingBegan = some s.env.now ∧
            (after.ctx.get tx).timer =
              some { kind := .mute, expiry := max s.env.elapsed m.expiry + ms, length := ms } ∧
            (either .barred →
              (∀ o : Occ, c.held = .occurrence o → (after.ctx.get tx).decided = cuts .barred .barred) ∧
              ((s.hall.runs.get tx).running = true → after.runs.get tx = ends .barred)) ∧
            (¬either .barred →
              (∀ o : Occ, c.held = .occurrence o → (after.ctx.get tx).decided = cuts .trips .tune) ∧
              ((s.hall.runs.get tx).running = true → after.runs.get tx = ends .trips)))) ∧
    (m.kind = .pause → (s.hall.ctx.get tx).state = .restrike →
      ∃ t, exec (.pauseTimerExpiry tx) s = .next t ∧ t.port = s.port ∧ t.hall.base = s.hall.base ∧
        let ms := (s.env.ramp tx + 15) * 1000
        Concludes s { s with
          env := passTo m.expiry s.env
          hall := (s.hall.modCtx tx fun c => { c with
              state := .ramping
              timer := some { kind := .ramp, expiry := max s.env.elapsed m.expiry + ms, length := ms } }).modGate tx
            fun g => { g with request := true } } t)

/-! The tables and settings (Chapters 5 to 9). -/

/-- SET TRANSMITTER (R145): refused with FIELD for another length, with MODE outside CONFIG, with FIELD for a
transmitter above T15 or a byte that is neither NONE nor the fields, then with BUSY; the fields are clamped, a band
low above the band high is refused, and the entry is replaced; the link record of a configured transmitter is kept
with its preset values and numbering, that of an unconfigured one begins anew. NONE makes it unconfigured and discards
telemetry, pending PRESET and preset values. The lengths are those of log 7, the reply's bit set is that of log 8, and
that FIELD for such a byte stands before BUSY is the model's choice (log 57). -/
def Obligations.TransmitterTableIsSet : Prop :=
  ∀ (s : State) (p : List Byte), Received s →
    (p.length ≠ (if byteAt p 1 = 0 then 2 else 12) → RefusedWith (.setTransmitter p) .field s) ∧
    (p.length = (if byteAt p 1 = 0 then 2 else 12) → s.env.mode ≠ .config → RefusedWith (.setTransmitter p) .mode s) ∧
    (s.env.mode = .config → 15 < byteAt p 0 ∨ 1 < byteAt p 1 → RefusedWith (.setTransmitter p) .field s) ∧
    ∀ u : Tx, s.env.mode = .config → byteAt p 0 = u.val →
    ((p.length = 12 ∧ byteAt p 1 = 1) ∨ (p.length = 2 ∧ byteAt p 1 = 0) → (s.hall.ctx.get u).state ≠ .idle →
      RefusedWith (.setTransmitter p) .busy s) ∧
    (p.length = 12 → byteAt p 1 = 1 → (s.hall.ctx.get u).state = .idle →
      let low := max 2300 (min (wordAt p 4) 26100)
      let high := max 2300 (min (wordAt p 6) 26100)
      let entry : TxCfg :=
        { rating := max 40 (min (wordAt p 2) 600), bandLow := low, bandHigh := high
          muteTime := max 1 (min (byteAt p 8) 30), tuneBase := min (byteAt p 9) 240, tuneRate := min (byteAt p 10) 100
          ramp := min (byteAt p 11) 60 }
      if high < low then RefusedWith (.setTransmitter p) .field s
      else
        ∃ t, exec (.setTransmitter p) s = .next t ∧ t.hall.base = s.hall.base ∧
          OnlyTables s t { s.env.tables with tx := s.env.tables.tx.set u (some entry) } ∧
          (if s.env.txConfigured u then LinkKept (s.hall.links.get u) (t.hall.links.get u)
            else LinkKept Link.powerUp (t.hall.links.get u)) ∧
          ((s.hall.ctx.get u).held = .nothing → t.hall.links.get u =
            if s.env.txConfigured u then s.hall.links.get u else Link.powerUp) ∧
          (∀ v : Tx, v ≠ u → LinkKept (s.hall.links.get v) (t.hall.links.get v)) ∧ StuckKept s.hall t.hall ∧
          let bit (stored asked place : Nat) : Nat := if stored = asked then 0 else place
          AnswersOk s t [BitVec.ofNat 8 (bit entry.rating (wordAt p 2) 1 + bit low (wordAt p 4) 2 +
            bit high (wordAt p 6) 4 + bit entry.muteTime (byteAt p 8) 8 + bit entry.tuneBase (byteAt p 9) 16 +
            bit entry.tuneRate (byteAt p 10) 32 + bit entry.ramp (byteAt p 11) 64)]) ∧
    (p.length = 2 → byteAt p 1 = 0 → (s.hall.ctx.get u).state = .idle →
      ∃ t, exec (.setTransmitter p) s = .next t ∧ AnswersOk s t [0] ∧ t.hall.base = s.hall.base ∧
        OnlyTables s t { s.env.tables with tx := s.env.tables.tx.set u none } ∧
        (s.env.txConfigured u = true → (t.hall.links.get u).state = .active ∧ (t.hall.links.get u).missed = 0 ∧
          (t.hall.links.get u).telemetry = none) ∧
        ((s.hall.ctx.get u).held = .nothing → t.hall.links.get u =
          if s.env.txConfigured u then { s.hall.links.get u with
            state := .active, missed := 0, telemetry := none, pending := none, presetFreq := none, presetProgramme := 0 }
          else s.hall.links.get u) ∧
        (∀ v : Tx, v ≠ u → LinkKept (s.hall.links.get v) (t.hall.links.get v)) ∧ StuckKept s.hall t.hall)

/-- SET ANTENNA (R127, R143), SET LOAD (R128) and SET GROUP (R141) replace their entries and leave every other entry.
SET ANTENNA is refused with FIELD for another length, with MODE outside CONFIG and with FIELD for an antenna above A23
or another type; then with FIELD for a bearing above 359, with BUSY while the positioner is MOVING, and with FIELD for
a band low above the band high. Its fields lie in the order of R126 and are clamped to the ranges of R126. SET GROUP
is refused with FIELD for a group above G7 or an entry that is no antenna. The lengths of SET ANTENNA are those of log
7, the reply's bit set is that of log 8, the load's number that of R212. -/
def Obligations.AntennasLoadsAndGroupsAreSet : Prop :=
  ∀ (s : State) (p : List Byte), Received s →
    let kind := byteAt p 1
    let length := if kind = 1 then 12 else if kind = 2 then 14 else if kind = 3 then 13 else 2
    (p.length ≠ length → RefusedWith (.setAntenna p) .field s) ∧
    (p.length = length → s.env.mode ≠ .config → RefusedWith (.setAntenna p) .mode s) ∧
    (s.env.mode = .config → 23 < byteAt p 0 ∨ 3 < kind → RefusedWith (.setAntenna p) .field s) ∧
    (7 < byteAt p 0 ∨ (∃ b ∈ p.tail, 23 < b.toNat) → RefusedWith (.setGroup p) .field s) ∧
    (∀ a : Ant, s.env.mode = .config → byteAt p 0 = a.val → 1 ≤ kind → kind ≤ 3 → p.length = length →
      let low := max 2300 (min (wordAt p 2) 26100)
      let high := max 2300 (min (wordAt p 4) 26100)
      let power := max 10 (min (wordAt p 6) 600)
      let tilts := if kind = 1 then 1 else max 1 (min (byteAt p 8) 4)
      let bearing := wordAt p 9
      let deviation := min (byteAt p 11) 30
      let halfWidth := max 5 (min (byteAt p 11) 45)
      let rate := max 1 (min (byteAt p 11) 50)
      let slewTime := max 1 (min (byteAt p 12) 30)
      let tiltTime (at' : Nat) := max 1 (min (byteAt p at') 60)
      let entry : AntCfg :=
        { kind := if kind = 1 then .fixed bearing deviation
            else if kind = 2 then .slew bearing halfWidth slewTime (tiltTime 13)
            else .rotatable bearing rate (tiltTime 12)
          bandLow := low, bandHigh := high, maxPower := power, tiltCount := tilts }
      let bit (stored asked place : Nat) : Nat := if stored = asked then 0 else place
      let clamped := bit low (wordAt p 2) 1 + bit high (wordAt p 4) 2 + bit power (wordAt p 6) 4 +
        bit tilts (byteAt p 8) 8 +
        if kind = 1 then bit deviation (byteAt p 11) 32
        else if kind = 2 then bit halfWidth (byteAt p 11) 64 + bit slewTime (byteAt p 12) 128 +
          bit (tiltTime 13) (byteAt p 13) 1024
        else bit rate (byteAt p 11) 512 + bit (tiltTime 12) (byteAt p 12) 1024
      if 359 < bearing then RefusedWith (.setAntenna p) .field s
      else if (s.hall.pos.get a).state = .moving then RefusedWith (.setAntenna p) .busy s
      else if high < low then RefusedWith (.setAntenna p) .field s
      else
        ∃ t, exec (.setAntenna p) s = .next t ∧ t.hall.base = s.hall.base ∧
          AnswersOk s t [BitVec.ofNat 8 (clamped / 256), BitVec.ofNat 8 clamped] ∧
          OnlyTables s t { s.env.tables with ant := s.env.tables.ant.set a (some entry) } ∧
          (if kind = 1
            then (t.hall.pos.get a).state = .idle ∧ (t.hall.pos.get a).azimuth = some bearing ∧
              (t.hall.pos.get a).tilt = some 0
            else (t.hall.pos.get a).state = .unknown ∧ (t.hall.pos.get a).azimuth = none ∧
              (t.hall.pos.get a).tilt = none) ∧
          (∀ b : Ant, b ≠ a → PosKept (s.hall.pos.get b) (t.hall.pos.get b)) ∧ StuckKept s.hall t.hall) ∧
    (∀ a : Ant, s.env.mode = .config → p = [BitVec.ofNat 8 a.val, 0] →
      if (s.hall.pos.get a).state = .moving then RefusedWith (.setAntenna p) .busy s
      else
        ∃ t, exec (.setAntenna p) s = .next t ∧ AnswersOk s t [0, 0] ∧ t.hall.base = s.hall.base ∧
          OnlyTables s t { s.env.tables with ant := s.env.tables.ant.set a none } ∧
          (t.hall.pos.get a).state = .unknown ∧
          ∀ b : Ant, b ≠ a → PosKept (s.hall.pos.get b) (t.hall.pos.get b)) ∧
    (s.env.mode = .config → p.length = 3 →
      (∀ l : LoadNo, byteAt p 0 = 24 + l.val →
        ∃ t, exec (.setLoad p) s = .next t ∧ t.hall.base = s.hall.base ∧ StuckKept s.hall t.hall ∧
          OnlyTables s t
            { s.env.tables with load := s.env.tables.load.set l (max 10 (min (wordAt p 1) 600)) } ∧
          AnswersOk s t [if 10 ≤ wordAt p 1 ∧ wordAt p 1 ≤ 600 then 0 else 1]) ∧
      (byteAt p 0 < 24 ∨ 25 < byteAt p 0 → RefusedWith (.setLoad p) .field s)) ∧
    (∀ (g : GroupNo) (l : List Ant), p = BitVec.ofNat 8 g.val :: l.map (fun a => BitVec.ofNat 8 a.val) → l ≠ [] →
      l.length ≤ 6 →
      if l.Nodup then
        ∃ t, exec (.setGroup p) s = .next t ∧ AnswersOk s t [] ∧ t.hall.base = s.hall.base ∧ StuckKept s.hall t.hall ∧
          OnlyTables s t { s.env.tables with group := s.env.tables.group.set g l }
      else RefusedWith (.setGroup p) .field s)

/-- SET MATRIX (R102), SET PROTECTION (R167), SET EXERCISE (R186) and SET PLANNING (R7) take their settings, each
clamped to its range; a weekday base above 6 is refused with FIELD. SET CLOCK enables or disables time marks (R5):
WAITING with the 3 s watch from OFF, no change when enabled already, OFF when disabled; FIELD for a byte above 1 is
the model's choice (log 61). The bits of the lists of clamped fields are the model's choice (log 8), and that a raised
travel timeout is listed (log 48). -/
def Obligations.SettingsAreClamped : Prop :=
  ∀ s : State, Received s →
    (s.env.clock.markState = .off →
      ∃ t, exec (.setClock [1]) s = .next t ∧ AnswersOk s t [1] ∧ t.hall = s.hall ∧
        t.env = { s.env with clock := { s.env.clock with
          markState := .waiting, markWatch := some (s.env.elapsed + 3000) } }) ∧
    (s.env.clock.markState ≠ .off →
      OnlyAnswers (.setClock [1]) [BitVec.ofNat 8 s.env.clock.markState.code] s) ∧
    (∃ t, exec (.setClock [0]) s = .next t ∧ AnswersOk s t [0] ∧ t.hall = s.hall ∧
        t.env = { s.env with clock := { s.env.clock with markState := .off, markWatch := none } }) ∧
    (∀ b : Byte, 1 < b.toNat → RefusedWith (.setClock [b]) .field s) ∧
    (∀ base guard : Byte, s.env.mode = .config → 6 < base.toNat →
      RefusedWith (.setPlanning [base, guard]) .field s) ∧
    (∀ base guard : Byte, s.env.mode = .config → base.toNat ≤ 6 →
      ∃ t, exec (.setPlanning [base, guard]) s = .next t ∧ AnswersOk s t [if 60 < guard.toNat then 1 else 0] ∧
        t.env = { s.env with
          due := t.env.due
          clock := { s.env.clock with weekdayBase := base.toNat }
          tables := { s.env.tables with guard := min 60 guard.toNat } } ∧
        t.hall = { s.hall with flags := t.hall.flags }) ∧
    (∀ a b : Byte, s.env.mode = .config →
      let travel := max 1 (min a.toNat 20)
      let timeout := max (max 2 (min b.toNat 60)) (travel + 1)
      ∃ t, exec (.setMatrix [a, b]) s = .next t ∧ t.hall.base = s.hall.base ∧ StuckKept s.hall t.hall ∧
        OnlyTables s t { s.env.tables with expectedTravel := travel, travelTimeout := timeout } ∧
        AnswersOk s t [BitVec.ofNat 8 ((if travel = a.toNat then 0 else 1) + if timeout = b.toNat then 0 else 2)]) ∧
    (∀ a b c d : Byte, s.env.mode = .config →
      let asked := b.toNat * 256 + c.toNat
      let fold := max 10 (min asked 300)
      let warn := min (max 5 (min a.toNat 200)) fold
      let pause := max 2 (min d.toNat 30)
      ∃ t, exec (.setProtection [a, b, c, d]) s = .next t ∧ t.hall.base = s.hall.base ∧ StuckKept s.hall t.hall ∧
        OnlyTables s t { s.env.tables with warnLevel := warn, foldStart := fold, pause := pause } ∧
        AnswersOk s t [BitVec.ofNat 8 ((if warn = a.toNat then 0 else 1) + (if fold = asked then 0 else 2) +
          if pause = d.toNat then 0 else 4)]) ∧
    (∀ a b : Byte,
      let asked := a.toNat * 256 + b.toNat
      ∃ t, exec (.setExercise [a, b]) s = .next t ∧ t.hall = s.hall ∧
        t.env = { s.env with tables := { s.env.tables with interval := min asked 720 } } ∧
        AnswersOk s t [if 720 < asked then 1 else 0])

/-! The hall link and the positioner link (Chapters 6 and 7). -/

/-- A cycle of either link begins 1 s after the one before it began, the first at once, and polls its units in rising
order; the first poll goes out (R133, R147). A pending PRESET rides the poll of an ACTIVE link that holds telemetry.
That the elapsed base passes on to the begin of the cycle is the model's choice (log 2). -/
def Obligations.PollCyclesBegin : Prop :=
  ∀ s : State, s.env.pins.resetHeld = false →
    (s.hall.hallPoll = [] →
      ∃ t, exec .hallPollCycle s = .next t ∧ t.port = s.port ∧ OnlyTime s t ∧
        t.env.elapsed = (match s.hall.hallCycle with
          | some b => max s.env.elapsed (b + 1000)
          | none => s.env.elapsed) ∧
        t.hall.hallCycle = some t.env.elapsed ∧
        t.hall.hallPoll = (allFin 16).filter (fun u => (s.env.tables.tx.get u).isSome) ∧
        t.hall = { s.hall with
          hallPoll := t.hall.hallPoll, hallCycle := t.hall.hallCycle, hallSent := t.hall.hallSent
          links := t.hall.links } ∧
        (∀ u : Tx, t.hall.hallPoll.head? = some u →
          match (s.hall.links.get u).pending with
          | some q =>
            if (s.hall.links.get u).state = .active ∧ (s.hall.links.get u).telemetry.isSome = true then
              let n := (s.hall.links.get u).numberFor q
              t.hall.hallSent = withCheck ([BitVec.ofNat 8 u.val, 1, BitVec.ofNat 8 n] ++ b2 q.freq ++
                [BitVec.ofNat 8 q.programme] ++ b2 q.power) ∧
              (t.hall.links.get u).pending = some { q with number := some n }
            else t.hall.hallSent = withCheck [BitVec.ofNat 8 u.val, 0]
          | none => t.hall.hallSent = withCheck [BitVec.ofNat 8 u.val, 0]) ∧
        ∀ u : Tx, LinkKept (s.hall.links.get u) (t.hall.links.get u) ∧
          (t.hall.hallPoll.head? ≠ some u → t.hall.links.get u = s.hall.links.get u)) ∧
    (s.env.linksSilent = false → s.hall.posPoll = [] →
      ∃ t, exec .positionerPollCycle s = .next t ∧ t.port = s.port ∧ OnlyTime s t ∧
        t.env.elapsed = (match s.hall.posCycle with
          | some b => max s.env.elapsed (b + 1000)
          | none => s.env.elapsed) ∧
        t.hall.posPoll = (allFin 24).filter s.env.steers ∧
        t.hall.base = { s.hall.base with
          posPoll := t.hall.posPoll, posCycle := some t.env.elapsed, posSent := t.hall.posSent } ∧
        (∀ a : Ant, t.hall.posPoll.head? = some a →
          ((s.hall.pos.get a).stopOutstanding = true → t.hall.posSent = withCheck [BitVec.ofNat 8 a.val, 2]) ∧
          ((s.hall.pos.get a).stopOutstanding = false → goNow t.env s.hall a = none →
            t.hall.posSent = withCheck [BitVec.ofNat 8 a.val, 0]) ∧
          (∀ (q : PosRec) (g : GoRec), (s.hall.pos.get a).stopOutstanding = false → goNow t.env s.hall a = some q →
            q.go = some g →
            t.hall.posSent = withCheck ([BitVec.ofNat 8 a.val, 1] ++ b2 g.azimuth ++
              [BitVec.ofNat 8 g.tilt, BitVec.ofNat 8 g.turn.code]) ∧ PosKept q (t.hall.pos.get a))) ∧
        StuckKept s.hall t.hall ∧
        ∀ a : Ant, t.hall.posPoll.head? ≠ some a → PosKept (s.hall.pos.get a) (t.hall.pos.get a))

/-- A telemetry reply of the polled transmitter replaces its latest telemetry, sets its missed replies to 0 and its
link state by the state it reports (R149, R155, R156). A missed reply is counted, and the third in a row makes the
link SILENT (R154). When the link leaves ACTIVE for LOCAL or SILENT its context stops (R94): the occurrence it works
on is CUT with that reason when it went on air, else MISSED; a proving run ends FAILED (R177); one in ENDING keeps its
outcome, and its kept occurrence is MISSED (R85); the permit is dropped, the CONNECTED row becomes PARKED and the
context is IDLE at once, without ENDING. A frame that is no good reply, or carries another address, changes nothing of
itself: the missed reply it stands for (R148, R218) is a command of its own (log 19). -/
def Obligations.TelemetryIsTaken : Prop :=
  ∀ (s : State) (u : Tx) (rest : List Tx), s.hall.hallPoll = u :: rest →
    let c := s.hall.ctx.get u
    let stops (why : Reason) (t : State) : Prop := ∃ (d : State) (after : Hall),
      t = endHallPoll d ∧ Concludes s { s with hall := after } d ∧
      (c.state = .idle ∨ c.state = .halted → after.ctx.get u = c ∧ after.lastOutcome.get u = s.hall.lastOutcome.get u) ∧
      (c.state ≠ .idle → c.state ≠ .halted →
        after.ctx.get u = Context.idle ∧ (after.gates.get u).request = false ∧ (after.gates.get u).line = false ∧
        ∀ r : Row, s.hall.res r = .connected u → (∀ q : Row, q ≠ r → s.hall.res q ≠ .connected u) →
          (∀ n ∈ s.hall.queue, n.xp.row ≠ r) → after.res r = .parked u) ∧
      (c.state.working = true →
        (∀ o : Occ, c.held = .occurrence o → after.lastOutcome.get u = some
          { handle := o.handle
            last := outcomeOf { outcome := if c.wentOnAir then .cut else .missed, reason := some why, ended := s.env.now }
              o.start o.finish c.lateSeconds c.wentOnAir }) ∧
        ∀ row : Row, c.held = .proving row → after.lastOutcome.get u = s.hall.lastOutcome.get u ∧
          after.runs.get u = (s.hall.runs.get u).ended (.failed why)) ∧
      (c.state = .ending → ∀ (o : Occ) (m : Decided), c.held = .occurrence o → c.decided = some m →
        after.lastOutcome.get u = some
          { handle := o.handle, last := outcomeOf m o.start o.finish c.lateSeconds c.wentOnAir } ∧
        ∀ (k : Kept) (r : Record), c.kept = some k → k.handle.place ≠ o.handle.place →
          s.hall.recordOf k.handle = some r → r.state ≠ .retiring →
          ∃ r' : Record, after.recordOf k.handle = some r' ∧
            r'.last = some { outcome := .missed, reason := some why, start := k.start, late := 0, early := 0 })
    (∀ (frame : List Byte) (f : TelemetryFrame), telemetryOf frame = some f → f.tx = u →
      ∃ t, exec (.telemetryReply frame) s = .next t ∧ t.port = s.port ∧ OnlyDue s t ∧ t.hall.hallPoll = rest ∧
        t.hall.hallCycle = s.hall.hallCycle ∧ t.hall.ages = s.hall.ages ∧
        (t.hall.links.get u).telemetry = some
          { report := f.report
            freq := if 2300 ≤ f.freq ∧ f.freq ≤ 26100 then some f.freq
              else (s.hall.links.get u).telemetry.bind Telemetry.freq
            forward := min f.forward 6000, reflected := min f.reflected 6000
            cause := if f.report = .tripped then some (f.cause.getD .other) else none
            ack := f.ack, takenAt := s.env.elapsed } ∧
        (t.hall.links.get u).missed = 0 ∧
        (t.hall.links.get u).state = (if f.report = .localCtl then .localCtl else .active) ∧
        (f.report = .localCtl → (s.hall.links.get u).state ≠ .localCtl → t.hall.noticeSet .txLocal = true) ∧
        (f.report = .localCtl → (s.hall.links.get u).state = .active → stops .localCtl t) ∧
        ∀ v : Tx, v ≠ u → LinkKept (s.hall.links.get v) (t.hall.links.get v)) ∧
    (∀ frame : List Byte, (∀ f, telemetryOf frame = some f → f.tx ≠ u) → exec (.telemetryReply frame) s = .next s) ∧
    (∃ t, exec .telemetryMissed s = .next t ∧ t.port = s.port ∧ OnlyDue s t ∧ t.hall.hallPoll = rest ∧
      t.hall.hallCycle = s.hall.hallCycle ∧ t.hall.ages = s.hall.ages ∧
      (t.hall.links.get u).telemetry = (s.hall.links.get u).telemetry ∧
      (t.hall.links.get u).missed = min 3 ((s.hall.links.get u).missed + 1) ∧
      (t.hall.links.get u).state = (if 2 ≤ (s.hall.links.get u).missed then .silent else (s.hall.links.get u).state) ∧
      (2 ≤ (s.hall.links.get u).missed → (s.hall.links.get u).state ≠ .silent →
        t.hall.noticeSet .txSilent = true) ∧
      (2 ≤ (s.hall.links.get u).missed → (s.hall.links.get u).state = .active → stops .silent t) ∧
      ∀ v : Tx, v ≠ u → LinkKept (s.hall.links.get v) (t.hall.links.get v))

/-- What a context makes of a reply that is not LOCAL, by its state. MUTING ends with a quiet one: PREPARING, tune
PENDING with its PRESET handed, which a proving run needs not (R72, R73, R97). Tune is DONE at READY on the frequency
once told; FAULT fails an attempt (R74, R75). RAMPING ends on air when the forward power is confirmed, the first time
with the on-air instant and LATE (R80, R81). TRIPPED and FAULT, in ON_AIR also OFF and READY, are trips: the permit is
dropped, TRIP raised, the units scored, and the first trip re-strikes after the pause (R82, R87, R88, R168, R171).
ENDING ends with a quiet reply: IDLE, or the kept occurrence is begun (R84, R85). Every other reply leaves the context
as it was; in ON_AIR the reflection ratio is taken and moves the foldback (R165, R166). That TRIPPED in RAMPING is a
trip whatever the forward power (log 17) and that the return start is an instant of station time (log 30) is what the
model deduces. The age of the trips counted (log 47), and that the context reads a reply before its reflection ratio is
taken (log 73), are the model's choice. -/
def Obligations.TelemetryMovesTheContext : Prop :=
  ∀ (s : State) (u : Tx) (rest : List Tx) (frame : List Byte) (f : TelemetryFrame), s.hall.hallPoll = u :: rest →
    telemetryOf frame = some f → f.tx = u → f.report ≠ .localCtl →
    let after := applyTelemetry s.env f s.hall
    let c := s.hall.ctx.get u
    let c' := after.ctx.get u
    let l := s.hall.links.get u
    let l' := after.links.get u
    let freq := if 2300 ≤ f.freq ∧ f.freq ≤ 26100 then some f.freq else l.telemetry.bind Telemetry.freq
    let forward := min f.forward 6000
    let quiet := (f.report = .off ∨ f.report = .ready ∨ f.report = .tuning) ∧ forward < 10
    let told := l.told = true ∨ ∃ n ∈ l.ackNumbers, f.ack = some n
    let faulty := f.report = .tripped ∨ f.report = .fault
    let trips := (c.state = .ramping ∧ faulty) ∨
      (c.state = .onAir ∧ (faulty ∨ f.report = .off ∨ f.report = .ready))
    (∃ d t, exec (.telemetryReply frame) s = .next t ∧ t = endHallPoll d ∧ t.port = s.port ∧
      Concludes s { s with hall := after } d) ∧
    (c.state = .muting → quiet →
      (∀ o : Occ, c.held = .occurrence o → c'.state = .preparing ∧ c'.held = c.held ∧ c'.tune = .pending ∧
        c'.tuneAttempts = 1 ∧ (∃ m, c'.timer = some m ∧ m.kind = .tuning ∧ m.expiry = s.env.elapsed + m.length) ∧
        l'.presetFreq = some o.freq ∧ l'.presetProgramme = o.programme ∧ l'.told = false ∧
        l'.pending = some { freq := o.freq, programme := o.programme
                            power := ((s.hall.power.get u).requested).getD 10, number := none, tuning := true }) ∧
      (∀ row : Row, c.held = .proving row → c'.state = .preparing ∧ c'.held = c.held ∧ c'.tune = .notNeeded ∧
        c'.position = .notNeeded ∧ c'.timer = none)) ∧
    (∀ o : Occ, c.state = .preparing → c.tune = .pending → c.held = .occurrence o →
      (f.report = .ready → freq = some o.freq → told → c' = { c with tune := .done, timer := none }) ∧
      (f.report ≠ .fault → ¬(f.report = .ready ∧ freq = some o.freq ∧ told) → c' = c) ∧
      (f.report = .fault → c.tuneAttempts < 2 →
        c' = { c with
          tuneAttempts := 2, timer := c.timer.map fun m => { m with expiry := s.env.elapsed + m.length } } ∧
        l'.presetFreq = some o.freq ∧ l'.told = false) ∧
      (f.report = .fault → 2 ≤ c.tuneAttempts →
        Unwound s.hall u o { outcome := .missed, reason := some .tune, ended := s.env.now } after)) ∧
    (c.state = .ramping → ¬faulty →
      if ∃ p, (s.hall.power.get u).requested = some p ∧ 9 * p ≤ forward then
        c' = { c with
          state := .onAir, timer := none, spellBegan := some s.env.now
          onAirAt := match c.held, c.onAirAt with
            | .occurrence _, none => some s.env.now
            | _, i => i } ∧
        ∀ o : Occ, c.held = .occurrence o → c.onAirAt = none →
          after.recordOf o.handle = (s.hall.recordOf o.handle).map (fun r => { r with
            state := if r.state = .retiring then .retiring else .onAir
            current := r.current.map fun x => { x with late := min 65535 (s.env.now - o.start) } }) ∧
          (o.start < s.env.now → after.noticeSet .late = true)
      else c' = c) ∧
    (∀ row : Row, trips → c.heldRow = some row →
      (after.gates.get u).request = false ∧ (after.gates.get u).line = false ∧ after.noticeSet .trip = true ∧
      let cause := if f.report = .tripped then f.cause.getD .other else .other
      let calm (v : HallUnit) : Prop :=
        ((s.hall.unit v).service = .normal ∨ (s.hall.unit v).service = .watch ∨ (s.hall.unit v).service = .reduced) ∧
        (s.hall.unit v).score < 239
      (calm (.tx u) → (∀ a : Ant, rowAnt row = some a → calm (.ant a)) → (∀ i ∈ c.trips, i + 60 ≤ s.env.now) →
        c' = { c with
          state := .restrike, spellBegan := none, trips := [s.env.now]
          timer := some { kind := .pause, expiry := s.env.elapsed + s.env.tables.pause * 1000
                          length := s.env.tables.pause * 1000 } } ∧
        (after.txUnit.get u).score = (s.hall.txUnit.get u).score +
          (if cause = .arc ∧ (rowAnt row).isSome = true then 0 else 8) ∧
        ∀ a : Ant, rowAnt row = some a → (after.antUnit.get a).score = (s.hall.antUnit.get a).score +
          (if cause = .arc then 16 else if cause = .vswr then 8 else 0))) ∧
    (c.state = .ending → quiet →
      (c.kept = none → c' = Context.idle ∧ ∀ (o : Occ) (d : Decided), c.held = .occurrence o → c.decided = some d →
        after.lastOutcome.get u = some ⟨o.handle, outcomeOf d o.start o.finish c.lateSeconds c.wentOnAir⟩) ∧
      (∀ (k : Kept) (r : Record), c.kept = some k → s.hall.recordOf k.handle = some r →
        (∀ o : Occ, c.held = .occurrence o → o.handle.place ≠ k.handle.place) →
        c'.state = .preparing ∧ c'.kept = none ∧ ∃ o : Occ, c'.held = .occurrence o ∧ o.handle = k.handle ∧
          o.start = k.start ∧ o.finish = k.finish ∧ o.row = k.row ∧ o.freq = r.sched.freq)) ∧
    (((c.state = .muting ∨ c.state = .ending) ∧ ¬quiet) ∨ c.state = .idle ∨ c.state = .standing ∨
      c.state = .restrike ∨ c.state = .halted ∨ (c.state = .onAir ∧ ¬trips) → c' = c) ∧
    (c.state = .onAir → ¬trips →
      let w := s.hall.power.get u
      let w' := after.power.get u
      let ratio := min 1000 (1000 * min f.reflected 6000 / forward)
      if forward < 10 then w' = w
      else
        w'.lastRatio = some ratio ∧ w'.requested = w.requested ∧
        (w'.noted = (w.noted || decide (s.env.tables.warnLevel ≤ ratio))) ∧
        (w.noted = false → s.env.tables.warnLevel ≤ ratio → after.noticeSet .reflection = true) ∧
        if c.occ = none then w'.level = w.level ∧ w'.returnStart = w.returnStart
        else if s.env.tables.foldStart < ratio then w'.level = some (max (w.level.getD 0) ratio) ∧ w'.returnStart = none
        else
          match w.level, w.returnStart with
          | none, i => w'.level = none ∧ w'.returnStart = i
          | some x, none => w'.level = some x ∧ w'.returnStart = some s.env.now
          | some x, some i =>
            if i + 60 ≤ s.env.now then w'.level = none ∧ w'.returnStart = none
            else w'.level = some x ∧ w'.returnStart = some i)

/-- A reply of the polled positioner sets its reported position and its missed replies; with no GO in force the motion
it reports decides the state, and FAULT stays FAULT (R133). With a GO in force an acknowledged IDLE at its target,
within 1° and at the tilt, completes it and the requester is told DONE; one elsewhere is a fault, as FAULT is; MOVING,
and an IDLE that is not acknowledged, leave it in force (R136). A missed reply is counted and the third faults the
positioner (R133). The timer of a GO runs out: FAULT, with a STOP on the next poll (R136). That the elapsed base
passes on to the expiry (log 2), that a reported tilt is held whatever the tilt count (log 63), and that an antenna
without a positioner is passed over in the cycle (log 34), is the model's. -/
def Obligations.PositionerRepliesAreTaken : Prop :=
  ∀ (s : State) (a : Ant),
    (∀ (rest : List Ant) (m : Motion) (code azHi azLo tilt ack : Byte), s.hall.posPoll = a :: rest →
      s.env.steers a = true → motionOf code.toNat = some m → azHi.toNat * 256 + azLo.toNat < 360 →
      ∃ t, exec (.positionerReply (withCheck [BitVec.ofNat 8 a.val, code, azHi, azLo, tilt, ack])) s = .next t ∧
        t.port = s.port ∧ OnlyDue s t ∧ t.hall.posPoll = rest.filter s.env.steers ∧
        t.hall.posCycle = s.hall.posCycle ∧ t.hall.ages = s.hall.ages ∧ StuckKept s.hall t.hall ∧
        (t.hall.pos.get a).azimuth = some (azHi.toNat * 256 + azLo.toNat) ∧
        (t.hall.pos.get a).tilt = some tilt.toNat ∧ (t.hall.pos.get a).missed = 0 ∧
        ((s.hall.pos.get a).go = none → a ∉ rest →
          (t.hall.pos.get a).state = (if (s.hall.pos.get a).state = .fault then .fault else match m with
            | .idle => .idle
            | .moving => .moving
            | .fault => .fault) ∧
          ((s.hall.pos.get a).state ≠ .fault → m = .fault → t.hall.noticeSet .positionerFault = true)) ∧
        (∀ g : GoRec, (s.hall.pos.get a).go = some g → m = .fault → a ∉ rest →
          (t.hall.pos.get a).state = .fault ∧ t.hall.noticeSet .positionerFault = true) ∧
        (∀ g : GoRec, (s.hall.pos.get a).go = some g → m = .idle → g.outstanding = false ∨ ack = 1 → a ∉ rest →
          let after := applyPosReply s.env ⟨a, m, azHi.toNat * 256 + azLo.toNat, tilt.toNat, ack.toNat⟩ s.hall
          (∃ d, Concludes s { s with hall := after } d ∧ t = endPosPoll d) ∧
          if tilt.toNat = g.tilt ∧ angularDifference (azHi.toNat * 256 + azLo.toNat) g.azimuth ≤ 1 then
            (t.hall.pos.get a).state = .idle ∧ (t.hall.pos.get a).go = none ∧
            ∀ u : Tx, g.tx = some u → (s.hall.ctx.get u).state = .preparing →
              (s.hall.ctx.get u).position = .pending → (after.ctx.get u).position = .done
          else
            (t.hall.pos.get a).state = .fault ∧ (t.hall.pos.get a).go = none ∧
            t.hall.noticeSet .positionerFault = true ∧
            ∀ u : Tx, g.tx = some u → .posFailed u ∈ after.work) ∧
        (∀ g : GoRec, (s.hall.pos.get a).go = some g →
          m = .moving ∨ (m = .idle ∧ g.outstanding = true ∧ ack ≠ 1) → a ∉ rest →
          (t.hall.pos.get a).state = (s.hall.pos.get a).state ∧ (t.hall.pos.get a).go.isSome = true)) ∧
    (∀ rest : List Ant, s.hall.posPoll = a :: rest → a ∉ rest → s.env.steers a = true →
      ∃ t, exec .positionerReplyMissed s = .next t ∧ t.port = s.port ∧ OnlyDue s t ∧
        t.hall.posPoll = rest.filter s.env.steers ∧ t.hall.posCycle = s.hall.posCycle ∧
        t.hall.ages = s.hall.ages ∧ StuckKept s.hall t.hall ∧
        (t.hall.pos.get a).missed = min 3 ((s.hall.pos.get a).missed + 1) ∧
        (t.hall.pos.get a).azimuth = (s.hall.pos.get a).azimuth ∧
        (t.hall.pos.get a).tilt = (s.hall.pos.get a).tilt ∧
        (t.hall.pos.get a).state = (if 2 ≤ (s.hall.pos.get a).missed then .fault else (s.hall.pos.get a).state) ∧
        (2 ≤ (s.hall.pos.get a).missed → (s.hall.pos.get a).state ≠ .fault →
          t.hall.noticeSet .positionerFault = true)) ∧
    (∀ g : GoRec, (s.hall.pos.get a).go = some g →
      ∃ t, exec (.positionerTimerExpiry a) s = .next t ∧ t.port = s.port ∧ OnlyTime s t ∧
        t.env.elapsed = max s.env.elapsed g.expiry ∧ t.hall.base = s.hall.base ∧ StuckKept s.hall t.hall ∧
        (t.hall.pos.get a).state = .fault ∧ (t.hall.pos.get a).stopOutstanding = true ∧
        (t.hall.pos.get a).azimuth = (s.hall.pos.get a).azimuth ∧
        (t.hall.pos.get a).tilt = (s.hall.pos.get a).tilt ∧ t.hall.noticeSet .positionerFault = true ∧
        ∀ b : Ant, b ≠ a → PosKept (s.hall.pos.get b) (t.hall.pos.get b))

/-- The turn of a ROTATABLE antenna (R131): none to the azimuth it stands at, clockwise over the clockwise sweep when
that does not pass the stop, else counter-clockwise over the counter-clockwise sweep. A turn ends at its target and
never reaches the stop on the way, and from the stop itself it is clockwise. -/
def Obligations.TurnsNeverPassTheStop : Prop :=
  ∀ stop current target : Nat, stop < 360 → current < 360 → target < 360 → target ≠ stop →
    let cw := (target + 360 - current) % 360
    let ccw := (current + 360 - target) % 360
    let offset := (stop + 360 - current) % 360
    turnOf stop current target =
      (if target = current then (.none, 0)
        else if 1 ≤ offset ∧ offset ≤ cw then (.counter, ccw) else (.clockwise, cw)) ∧
    (current = stop → turnOf stop current target = (.clockwise, cw)) ∧
    match turnOf stop current target with
    | (.none, n) => n = 0 ∧ current = target
    | (.clockwise, n) => (current + n) % 360 = target ∧ ∀ k, 1 ≤ k → k ≤ n → (current + k) % 360 ≠ stop
    | (.counter, n) =>
      n ≤ 360 ∧ (current + 360 - n) % 360 = target ∧ ∀ k, 1 ≤ k → k ≤ n → (current + 360 - k) % 360 ≠ stop

/-! The drive link, the matrix and the survey (Chapter 5). -/

/-- A claim on a row that is BLOCKED or latched STRAY, or by a BLOCKED column, fails and changes nothing else; any
other proceeds by the row's reservation (R104): the context is told granted, connected or waiting, the opens and
closes it needs are queued in its name (R105) behind no operation toward the opposite position, and its former rows
are released. A row that is handed on goes to the waiting claim of the earliest deadline, then of the lower
transmitter (R106). A row that no live claim holds and that is not EXERCISE is settled by its operations and positions
(R108). Claims here find no earlier claim of their transmitter and no row still to be handed on (log 5). -/
def Obligations.ClaimsProceedByTheReservation : Prop :=
  (∀ (e : Env) (h : Hall) (t : Tx) (deadline : Nat) (row : Row), h.claims.get t = none → h.work = [] →
    let after := claim e { tx := t, deadline := deadline } row h
    let barred := h.stray.get row = true ∨ ∃ x : Xp, (x.row = row ∨ x.tx = t) ∧ (h.xp x).stuck = true
    (barred → after = h.report (.pathFailed t)) ∧
    (¬barred → after = proceed { tx := t, deadline := deadline } row (h.setClaim t
      (some { row := row, deadline := deadline, status := .waiting, formers := [], deferred := [] })))) ∧
  (∀ (h : Hall) (q : Req) (c : Claim) (row : Row), h.claims.get q.tx = some c →
    let t := q.tx
    let after := proceed q row h
    let former (r : Row) : Prop := r ≠ row ∧ (h.res r = .connected t ∨ h.res r = .parked t)
    let calm := h.res row ≠ .exercise ∧ (h.exercise.phase = .idle ∨ h.exercise.xp.row ≠ row)
    let asks (x : Xp) (d : Dir) : Prop := calm → (∀ n ∈ h.queue, n.xp = x → n.dir = d) →
      ∃ n ∈ after.queue, n.xp = x ∧ n.dir = d ∧ q ∈ n.reqs
    let told (status : ClaimStatus) : Prop :=
      (after.ctx.get t).claimWaiting = (status == .waiting) ∧
      ∃ c' : Claim, after.claims.get t = some c' ∧ c'.row = c.row ∧ c'.deadline = c.deadline ∧
        (status ≠ .waiting → c'.status = status)
    let granted := after.res row = .claimed t ∧ told .granted
    let connected := after.res row = .connected t ∧ told .connected ∧
      ((h.ctx.get t).state = .preparing → (h.ctx.get t).path = .pending → (after.ctx.get t).path = .done)
    let waits := after.res row = h.res row ∧ told .waiting ∧ q ∈ (after.rows.get row).waiting
    (∀ r, former r → after.res r = .releasing ∧ (h.res row ≠ .releasing → asks ⟨t, r⟩ .openIt)) ∧
    (∀ r, r ≠ row → ¬former r → after.res r = h.res r) ∧
    match h.res row with
    | .free => granted ∧ asks ⟨t, row⟩ .close
    | .parked u => if u = t then connected else granted ∧ asks ⟨u, row⟩ .openIt ∧ asks ⟨t, row⟩ .close
    | .connected u => if u = t then connected else waits
    | .claimed u => if u = t then granted else waits
    | .exercise => granted
    | .releasing =>
      let own (n : QEntry) : Prop := n.xp = ⟨t, row⟩ ∧ n.dir = .openIt
      calm →
        ((∃ n ∈ h.queue, own n) → (∀ n ∈ h.queue, own n → n.inFlight = false) →
          connected ∧ (after.xp ⟨t, row⟩).last = .withdrawn) ∧
        ((∃ n ∈ h.queue, own n) → (∀ n ∈ h.queue, own n → n.inFlight = true) → granted) ∧
        ((∀ n ∈ h.queue, ¬own n) → granted ∧ asks ⟨t, row⟩ .close ∧
          ∀ n ∈ after.queue, n.xp.row = row → n.dir = .openIt → n.reqs = [q])) ∧
  (∀ (h : Hall) (r : Row) (q : Req), q ∈ (h.rows.get r).waiting →
    (∀ w ∈ (h.rows.get r).waiting, w ≠ q → q.deadline < w.deadline ∨ (q.deadline = w.deadline ∧ q.tx < w.tx)) →
    handRowOn r h = match h.res r with
      | .free | .releasing | .parked _ =>
        proceed q r (h.setWaiting r ((h.rows.get r).waiting.filter fun w => w.tx ≠ q.tx))
      | .claimed _ | .connected _ | .exercise => h) ∧
  ∀ (h : Hall) (r : Row),
    let after := settleRow r h
    let live := ∃ (t : Tx) (c : Claim), (h.res r = .claimed t ∨ h.res r = .connected t) ∧ h.claims.get t = some c ∧
      c.row = r
    let opening := ∃ n ∈ h.queue, n.xp.row = r ∧ n.dir = .openIt
    let closing := ∃ n ∈ h.queue, n.xp.row = r ∧ n.dir = .close ∧ n.inFlight = true
    let alone (t : Tx) : Prop := (h.xp ⟨t, r⟩).pos ≠ .opened ∧
      (∀ u : Tx, u ≠ t → (h.xp ⟨u, r⟩).pos = .opened) ∧
      ∀ q : Row, q ≠ r → h.res q ≠ .connected t ∧ h.res q ≠ .parked t
    (live ∨ h.res r = .exercise → after = h) ∧
    (¬live → h.res r ≠ .exercise →
      after = { h with rows := after.rows, work := after.work } ∧
      (∀ q : Row, q ≠ r → after.rows.get q = h.rows.get q) ∧
      (after.rows.get r).waiting = (h.rows.get r).waiting ∧
      (opening → after.res r = .releasing) ∧
      (¬opening → closing → after.res r = h.res r) ∧
      (¬opening → ¬closing → (∀ t, alone t → after.res r = .parked t) ∧ ((∀ t, ¬alone t) → after.res r = .free)) ∧
      after.work = h.work ++
        (if (h.rows.get r).waiting ≠ [] ∧ (after.res r = .free ∨ after.res r = .releasing ∨ ∃ t, after.res r = .parked t)
          then [.handOn r] else []))

/-- A crosspoint's position changes in the course of a settling only when its entry is sent (R113): the entry is
eligible (R110: PERMIT low, RF off, for a close every other crosspoint of its row and column OPEN), no eligible one
goes before it in the order of the pick (R112), nothing else is in flight on the drive link, and its row's RF sense is
clear; it is then in flight with the travel timeout running and its frame sent (R217). A picked entry whose row senses
RF fails with RF_PRESENT. So whatever the command, a crosspoint that has become MOVING has its PERMIT line low, RF off
by telemetry and RF sense clear. The steps of a settling are the model's (log 5). -/
def Obligations.MovesAreSentSafely : Prop :=
  (∀ (e : Env) (h h' : Hall) (x : Xp), agendaStep e h = some h' → (h'.xp x).pos ≠ (h.xp x).pos →
    ∃ n ∈ h.queue, n.xp = x ∧ n.Ready e h ∧ (∀ m ∈ h.queue, m.Ready e h → ¬m.pickKey < n.pickKey) ∧
      (∀ m ∈ h.queue, m.inFlight = false) ∧ h.reading = none ∧ e.linksSilent = false ∧
      e.pins.rf.get x.row = false ∧
      h' = { h with xps := h'.xps, queue := h'.queue, driveSent := h'.driveSent } ∧
      h'.xp x = { h.xp x with rfSeen := false, pos := match n.dir with
        | .close => .movingClosed
        | .openIt => .movingOpen } ∧
      (∀ y : Xp, y ≠ x → h'.xp y = h.xp y) ∧
      h'.queue = h.queue.map (fun m => if m.arrival = n.arrival
        then { m with inFlight := true, timeoutAt := e.elapsed + e.tables.travelTimeout * 1000 } else m) ∧
      h'.driveSent = withCheck [BitVec.ofNat 8 x.tx.val, BitVec.ofNat 8 x.row.val, match n.dir with
        | .close => 1
        | .openIt => 2]) ∧
  (∀ (e : Env) (h : Hall) (n : QEntry), pickEntry e h = some n → e.pins.rf.get n.xp.row = true →
    servePick e n h = failEntry e .rfPresent n h) ∧
  ∀ (c : Instr) (s t : State) (x : Xp), exec c s = .next t → (t.hall.xp x).pos ≠ (s.hall.xp x).pos →
    (t.hall.xp x).pos = .movingClosed ∨ (t.hall.xp x).pos = .movingOpen →
    t.hall.lineLow x.tx ∧ ShowsRfOff t.env t.hall x.tx ∧ t.env.pins.rf.get x.row = false

/-- The move in flight ends (R114 to R116, R185). A reply equal to the commanded position gives the crosspoint that
position, sets its age to 0 and ends the operation DONE, leaving every STUCK flag, unless RF was seen on its row: then
the operation ends HOT_SWITCH, the crosspoint is STUCK and HOT_SWITCH raised. Any other reply, and the travel timeout,
makes the position UNKNOWN and the crosspoint STUCK, ends the operation with FAULT or TIMEOUT and leaves the ages. The
entry leaves the queue. A reply that fails its check or names another crosspoint than that of the move in flight, and
any with no move in flight, changes nothing (R218). That the elapsed base passes on to the timeout is the model's
choice (log 2). -/
def Obligations.MovesEnd : Prop :=
  ∀ s : State,
    (∀ (n : QEntry) (code : Byte), s.hall.flying = some n →
      let frame := withCheck [BitVec.ofNat 8 n.xp.tx.val, BitVec.ofNat 8 n.xp.row.val, code]
      let hot := (s.hall.xp n.xp).rfSeen
      let confirms := code = (match n.dir with
        | .close => 1
        | .openIt => 0)
      let after := if confirms then confirmMove s.env n s.hall else failMove s.env .fault n s.hall
      ((after.xp n.xp).pos = (if confirms then n.dir.position else .unknown) ∧
        (after.xp n.xp).last = (if confirms then if hot then .hotSwitch else .done else .fault) ∧ n ∉ after.queue) ∧
      ∃ t, exec (.driveReply frame) s = .next t ∧ t.port = s.port ∧ OnlyDue s t ∧
        Concludes s { s with hall := after } t ∧
        t.hall.txUnit = s.hall.txUnit ∧ t.hall.antUnit = s.hall.antUnit ∧
        (∀ u : Tx, LinkKept (s.hall.links.get u) (t.hall.links.get u)) ∧
        (∀ y : Xp, y ≠ n.xp → t.hall.age y = s.hall.age y ∧ (t.hall.xp y).stuck = (s.hall.xp y).stuck) ∧
        if confirms then
          t.hall.age n.xp = 0 ∧ (hot = false → StuckKept s.hall t.hall) ∧
          (hot = true → (t.hall.xp n.xp).stuck = true ∧ t.hall.noticeSet .stuck = true ∧
            t.hall.noticeSet .hotSwitch = true)
        else
          t.hall.age n.xp = s.hall.age n.xp ∧ (t.hall.xp n.xp).stuck = true ∧ t.hall.noticeSet .stuck = true) ∧
    (∀ n : QEntry, s.hall.flying = some n →
      let e := passTo n.timeoutAt s.env
      let after := failMove e .timeout n s.hall
      ((after.xp n.xp).pos = .unknown ∧ (after.xp n.xp).last = .timeout ∧ n ∉ after.queue) ∧
      ∃ t, exec .travelTimeout s = .next t ∧ t.port = s.port ∧ OnlyTime s t ∧
        Concludes s { s with env := e, hall := after } t ∧
        t.env.elapsed = max s.env.elapsed n.timeoutAt ∧ t.hall.base = s.hall.base ∧
        (t.hall.xp n.xp).stuck = true ∧ t.hall.noticeSet .stuck = true ∧
        ∀ y : Xp, y ≠ n.xp → (t.hall.xp y).stuck = (s.hall.xp y).stuck) ∧
    (∀ (n : QEntry) (frame : List Byte), s.hall.flying = some n → (∀ r, driveReplyOf frame ≠ some (n.xp, r)) →
      exec (.driveReply frame) s = .next s) ∧
    (s.hall.flying = none → exec .travelTimeout s = .next s ∧ ∀ frame, exec (.driveReply frame) s = .next s)

/-- MOVE CROSSPOINT (R118) queues one more commanded move, or attaches it to the operation toward the same position;
one behind an operation toward the opposite position is an entry of its own, a choice of the model (log 21). A column
above T15, a row above 25 or a direction that is neither of the two is refused with FIELD, before BUSY: four
outstanding, or a row that is EXERCISE. CLEAR CROSSPOINT (R117) takes the declared position and clears STUCK, in every
mode; a column above T15, a row above 25 or a position that is neither OPEN nor CLOSED is refused with FIELD, then
BUSY on its conditions. -/
def Obligations.CrosspointRequests : Prop :=
  ∀ (s : State) (x : Xp), Received s →
    (∀ a b c : Byte,
      (s.env.mode = .config → 15 < a.toNat ∨ 25 < b.toNat ∨ (c.toNat ≠ 1 ∧ c.toNat ≠ 2) →
        RefusedWith (.moveCrosspoint [a, b, c]) .field s) ∧
      (15 < a.toNat ∨ 25 < b.toNat ∨ 1 < c.toNat → RefusedWith (.clearCrosspoint [a, b, c]) .field s)) ∧
    (∀ (d : Dir) (b : Byte), s.env.mode = .config → (d = .close ∧ b = 1) ∨ (d = .openIt ∧ b = 2) →
      let p := [BitVec.ofNat 8 x.tx.val, BitVec.ofNat 8 x.row.val, b]
      let after := queueOp x d .command s.hall
      if 4 ≤ s.hall.commanded ∨ s.hall.res x.row = .exercise then RefusedWith (.moveCrosspoint p) .busy s
      else
        (∃ t, exec (.moveCrosspoint p) s = .next t ∧ AnswersOk s t [BitVec.ofNat 8 t.hall.commanded] ∧ OnlyDue s t ∧
          t.hall.base = s.hall.base ∧ StuckKept s.hall t.hall ∧ Concludes s { s with hall := after } t) ∧
        ((s.hall.queue.map QEntry.arrival).Nodup → after.commanded = s.hall.commanded + 1) ∧
        ((∀ n ∈ s.hall.queue, n.xp = x → n.dir ≠ d) →
          ∃ n : QEntry, after.queue = s.hall.queue ++ [n] ∧ n.xp = x ∧ n.dir = d ∧ n.commands = 1 ∧ n.reqs = [] ∧
            n.exercise = false ∧ n.inFlight = false)) ∧
    (∀ (closed : Bool) (b : Byte), (closed = true ∧ b = 1) ∨ (closed = false ∧ b = 0) →
      let p := [BitVec.ofNat 8 x.tx.val, BitVec.ofNat 8 x.row.val, b]
      let busy := rfOff s.env s.hall x.tx = false ∨ (∃ n ∈ s.hall.queue, n.xp = x) ∨
        (closed = true ∧ ((∃ y ∈ otherXps x, (s.hall.xp y).pos = .closed) ∨
          (s.hall.res x.row ≠ .free ∧ s.hall.res x.row ≠ .parked x.tx))) ∨
        (closed = false ∧ (s.hall.res x.row = .claimed x.tx ∨ s.hall.res x.row = .connected x.tx))
      let after := declarePos x (if closed then .closed else .opened) s.hall
      (busy → RefusedWith (.clearCrosspoint p) .busy s) ∧
      (¬busy →
        (∃ t, exec (.clearCrosspoint p) s = .next t ∧ OnlyDue s t ∧ t.hall.base = s.hall.base ∧
          AnswersOk s t [BitVec.ofNat 8 (t.hall.xp x).pos.code, if t.hall.rowBlocked x.row then 1 else 0,
            if t.hall.columnBlocked x.tx then 1 else 0] ∧
          (t.hall.xp x).stuck = false ∧ (∀ y : Xp, y ≠ x → (t.hall.xp y).stuck = (s.hall.xp y).stuck) ∧
          Concludes s { s with hall := after } t) ∧
        (after.xp x).pos = (if closed then .closed else .opened) ∧ (after.xp x).last = .none ∧
        (closed = true → after.res x.row = .parked x.tx)))

/-- A survey read ends (R121 to R123). OPEN and CLOSED give the crosspoint its position and leave STUCK; MID and no
reply in time make it STUCK and UNKNOWN. The last read ends the survey: RUN, with SURVEY_DONE. Crosspoints CLOSED
beside another of their row or column are made STUCK, a row whose one CLOSED crosspoint is the one CLOSED of its
column becomes PARKED to it, every other row FREE with an empty waiting list (R122). Ages are not changed by reads. A
frame that fails its check or names another crosspoint, and a reply or timeout with no read in flight, change nothing
(R218). That the elapsed base passes on to the timeout is the model's choice (log 2), and that the row of an exercise
still under way is built anew as well is what the model deduces (log 26). -/
def Obligations.SurveyReadsAreApplied : Prop :=
  (∀ (e : Env) (h : Hall),
    let after := endSurvey e h
    let closed (x : Xp) : Prop := (h.xp x).pos = .closed
    let alone (x : Xp) : Prop := closed x ∧ ∀ y : Xp, y ≠ x → y.row = x.row ∨ y.tx = x.tx → ¬closed y
    after.noticeSet .surveyDone = true ∧
    (∀ x : Xp, (after.xp x).pos = (h.xp x).pos ∧
      ((after.xp x).stuck = true ↔ (h.xp x).stuck = true ∨ (closed x ∧ ¬alone x))) ∧
    ∀ r : Row,
      (∀ u : Tx, alone ⟨u, r⟩ → after.rows.get r = { res := .parked u, waiting := [] }) ∧
      ((∀ u : Tx, ¬alone ⟨u, r⟩) → after.rows.get r = { res := .free, waiting := [] })) ∧
  (∀ (s : State) (frame : List Byte),
    (s.hall.reading = none → exec (.surveyReadReply frame) s = .next s ∧ exec .surveyReadTimeout s = .next s) ∧
    (∀ g : Reading, s.hall.reading = some g →
      frameGood 4 frame = false ∨ byteAt frame 0 ≠ g.xp.tx.val ∨ byteAt frame 1 ≠ g.xp.row.val →
      exec (.surveyReadReply frame) s = .next s)) ∧
  ∀ (s : State) (g : Reading), s.hall.reading = some g →
    let final := s.env.mode = .survey ∧ s.hall.surveyNext = none
    let frame (code : Byte) := withCheck [BitVec.ofNat 8 g.xp.tx.val, BitVec.ofNat 8 g.xp.row.val, code]
    (∀ code : Byte, ∃ t, exec (.surveyReadReply (frame code)) s = .next t ∧ t.port = s.port ∧
      t.hall.base = s.hall.base ∧ t.env.tables = s.env.tables ∧ t.env.banks = s.env.banks ∧
      t.env.clock = s.env.clock ∧ t.env.elapsed = s.env.elapsed ∧ t.env.pins = s.env.pins ∧
      (final → t.env.mode = .run ∧ t.hall.noticeSet .surveyDone = true) ∧
      (¬final → t.env.mode = s.env.mode ∧
        ∀ y : Xp, y ≠ g.xp → (t.hall.xp y).stuck = (s.hall.xp y).stuck) ∧
      (code = 0 ∨ code = 1 → ¬final →
        (t.hall.xp g.xp).stuck = (s.hall.xp g.xp).stuck ∧
        let after := Hall.setPos { s.hall with reading := none } g.xp (if code = 0 then .opened else .closed)
        Concludes s { s with hall := after } t) ∧
      (code = 0 ∨ code = 1 → final →
        let e := { s.env with mode := .run }
        let read := Hall.setPos { s.hall with reading := none } g.xp (if code = 0 then .opened else .closed)
        Concludes s { s with env := e, hall := endSurvey e read } t) ∧
      (1 < code.toNat → (t.hall.xp g.xp).stuck = true ∧ t.hall.noticeSet .stuck = true ∧
        ∃ read : Hall, (∀ x : Xp, (read.xp x).pos = if x = g.xp then .unknown else (s.hall.xp x).pos) ∧
          (∀ x : Xp, (read.xp x).stuck = (decide (x = g.xp) || (s.hall.xp x).stuck)) ∧
          (¬final → Concludes s { s with hall := read } t) ∧
          (final → let e := { s.env with mode := .run }
            Concludes s { s with env := e, hall := endSurvey e read } t))) ∧
    (∃ t, exec .surveyReadTimeout s = .next t ∧ t.port = s.port ∧ t.hall.base = s.hall.base ∧
      t.env.tables = s.env.tables ∧ t.env.elapsed = max s.env.elapsed g.expiry ∧
      (t.hall.xp g.xp).stuck = true ∧ t.hall.noticeSet .stuck = true ∧
      (final → t.env.mode = .run ∧ t.hall.noticeSet .surveyDone = true) ∧
      (¬final → t.env.mode = s.env.mode ∧
        ∀ y : Xp, y ≠ g.xp → (t.hall.xp y).stuck = (s.hall.xp y).stuck))

/-! Faults, latches and units (Chapters 6 and 8). -/

/-- CLEAR POSITIONER makes a positioner that is FAULT IDLE with no missed replies and keeps its position, and changes
no other (R139); that its reply gives azimuth and tilt as two items, each with a presence byte, is the model's choice
(log 7). CLEAR STRAY clears the latch of a row whose RF sense is clear, and is refused with BUSY while RF is sensed
(R181). -/
def Obligations.FaultsAndLatchesAreCleared : Prop :=
  ∀ s : State, Received s →
    (∀ a : Ant, ∃ t, exec (.clearPositioner [BitVec.ofNat 8 a.val]) s = .next t ∧ OnlyDue s t ∧
      t.hall.base = s.hall.base ∧ StuckKept s.hall t.hall ∧
      PosKept
        (if (s.hall.pos.get a).state = .fault then { s.hall.pos.get a with state := .idle, missed := 0 }
          else s.hall.pos.get a) (t.hall.pos.get a) ∧
      (∀ b : Ant, b ≠ a → PosKept (s.hall.pos.get b) (t.hall.pos.get b)) ∧
      AnswersOk s t ([BitVec.ofNat 8 (t.hall.pos.get a).state.code] ++
        bOpt 2 ((t.hall.pos.get a).azimuth.map b2) ++ bOpt 1 ((t.hall.pos.get a).tilt.map b1))) ∧
    (∀ b : Byte, 24 ≤ b.toNat → RefusedWith (.clearPositioner [b]) .field s) ∧
    (∀ r : Row, s.env.pins.rf.get r = true → RefusedWith (.clearStray [BitVec.ofNat 8 r.val]) .busy s) ∧
    (∀ r : Row, s.env.pins.rf.get r = false →
      ∃ t, exec (.clearStray [BitVec.ofNat 8 r.val]) s = .next t ∧ AnswersOk s t [] ∧ OnlyDue s t ∧
        t.hall.base = s.hall.base ∧ StuckKept s.hall t.hall ∧ t.hall.stray.get r = false ∧
        ∀ q : Row, q ≠ r → s.hall.stray.get q = true → t.hall.stray.get q = true) ∧
    (∀ b : Byte, 26 ≤ b.toNat → RefusedWith (.clearStray [b]) .field s)

/-- RESTORE puts a BARRED unit to PROVING with score 0 (R173), TAKE OUT puts any unit OUT and keeps its score (R174),
RETURN gives an OUT unit the state of its score (R175); RESTORE and RETURN refuse any other unit with BUSY. No other
unit's record changes. TAKE OUT of a unit that is not OUT yet cuts the occurrence it concerns, the transmitter's or
the one on the antenna: CUT, OUT when it went on air, else MISSED, OUT (R93), unwound by R91; a proving run of the
transmitter ends FAILED, OUT (R177), and a kept occurrence of either is dropped MISSED, OUT (R85); no other context is
touched. -/
def Obligations.UnitsLeaveAndReturnToService : Prop :=
  ∀ (s : State) (b : Byte), Received s →
    match unitOf b.toNat with
    | none =>
      RefusedWith (.restore [b]) .field s ∧ RefusedWith (.takeOut [b]) .field s ∧
      RefusedWith (.returnUnit [b]) .field s
    | some u =>
      let r := s.hall.unit u
      let byScore : Service :=
        if r.score < 96 then .normal else if r.score < 128 then .watch else if r.score < 255 then .reduced else .barred
      (r.service ≠ .barred → RefusedWith (.restore [b]) .busy s) ∧
      (r.service = .barred → ∃ t, exec (.restore [b]) s = .next t ∧ AnswersOk s t [4] ∧ OnlyDue s t ∧
        t.hall.unit u = { score := 0, service := .proving, provingMinutes := 0 } ∧
        (∀ v, v ≠ u → t.hall.unit v = s.hall.unit v) ∧ t.hall.ages = s.hall.ages) ∧
      (∃ t, exec (.takeOut [b]) s = .next t ∧ AnswersOk s t [] ∧ OnlyDue s t ∧
        t.hall.unit u = (if r.service = .out then r else { r with service := .out, provingMinutes := 0 }) ∧
        (∀ v, v ≠ u → t.hall.unit v = s.hall.unit v) ∧ t.hall.ages = s.hall.ages ∧
        (r.service = .out → Concludes s s t) ∧
        (r.service ≠ .out → ∃ after : Hall, Concludes s { s with hall := after } t ∧
          (∀ v : Tx, (u = .tx v → after.runs.get v = (s.hall.runs.get v).ended (.failed .out)) ∧
            (u ≠ .tx v → (s.hall.ctx.get v).occ = none → after.runs.get v = s.hall.runs.get v)) ∧
          ∀ v : Tx,
            let concerned (row : Row) : Bool := match u with
              | .tx w => w = v
              | .ant a => row = antRow a
            let onAir := (s.hall.ctx.get v).wentOnAir
            Stopped s.hall v
              (fun o => if concerned o.row
                then some { outcome := if onAir then .cut else .missed, reason := some .out, ended := s.env.now }
                else none)
              (if u = .tx v then some (.failed .out) else none)
              (fun k => if concerned k.row then some (.missed, .out) else none) after)) ∧
      (r.service ≠ .out → RefusedWith (.returnUnit [b]) .busy s) ∧
      (r.service = .out → ∃ t, exec (.returnUnit [b]) s = .next t ∧ AnswersOk s t [BitVec.ofNat 8 byScore.code] ∧
        OnlyDue s t ∧ t.hall.unit u = { r with service := byScore } ∧
        (∀ v, v ≠ u → t.hall.unit v = s.hall.unit v) ∧ t.hall.ages = s.hall.ages)

/-- PROVE starts a proving run on a free load and answers with the requested power (R163, R176); its refusals stand in
the order FIELD, MODE, NOT_READY, BUSY, the conditions of BUSY one by one; that the record then shows the result NONE
is the model's choice (log 67). STOP PROVE ends a run that is held and not yet ending, and changes nothing otherwise
(R177); that it enters ENDING from every working state is what the model reads out of R97 and R177 (log 28). -/
def Obligations.ProvingRunsStartAndStop : Prop :=
  ∀ (s : State) (u : Tx), Received s →
    (∀ (l : LoadNo),
      let p := [BitVec.ofNat 8 u.val, BitVec.ofNat 8 (24 + l.val)]
      let after := startRun s.env u (loadRow l) s.hall
      (proveBusy s.env s.hall u (loadRow l) = true ↔
        (s.hall.txUnit.get u).service = .barred ∨ (s.hall.txUnit.get u).service = .out ∨
        (s.hall.links.get u).state ≠ .active ∨ (s.hall.ctx.get u).state ≠ .idle ∨
        (s.hall.rows.get (loadRow l)).res ≠ .free ∨ (∃ v : Tx, (s.hall.xp ⟨v, loadRow l⟩).stuck = true) ∨
        s.hall.stray.get (loadRow l) = true ∨ ∃ d ∈ s.env.due, d.tx = u ∧ d.beginAt < s.env.now + 1500) ∧
      if s.env.mode ≠ .run then RefusedWith (.prove p) .mode s
      else if s.env.txConfigured u = false then RefusedWith (.prove p) .notReady s
      else if proveBusy s.env s.hall u (loadRow l) = true then RefusedWith (.prove p) .busy s
      else
        (∃ t, exec (.prove p) s = .next t ∧ OnlyDue s t ∧ t.hall.base = s.hall.base ∧ StuckKept s.hall t.hall ∧
          AnswersOk s t (b2 (max (min ((s.env.txFigures u).rating / 4) (s.env.tables.load.get l)) 10)) ∧
          Concludes s { s with hall := after } t) ∧
        after.runs.get u =
          { running := true, load := some (loadRow l), minutes := 0, startedAt := s.env.now, result := .none } ∧
        (after.ctx.get u).held = .proving (loadRow l) ∧
        (after.ctx.get u).state = (if s.hall.quiet u then .preparing else .muting) ∧
        (after.power.get u).requested =
          some (max (min ((s.env.txFigures u).rating / 4) (s.env.tables.load.get l)) 10) ∧
        ∀ v : Tx, v ≠ u → after.runs.get v = s.hall.runs.get v ∧ (after.ctx.get v).held = (s.hall.ctx.get v).held) ∧
    (∀ b c : Byte, 16 ≤ b.toNat ∨ c.toNat < 24 ∨ 26 ≤ c.toNat → RefusedWith (.prove [b, c]) .field s) ∧
    (let c := s.hall.ctx.get u
     let p := [BitVec.ofNat 8 u.val]
     let after := enterEnding s.env u (endRun u .stopped s.hall)
     if c.run.isSome = true ∧ c.state.working = true then
       (∃ t, exec (.stopProve p) s = .next t ∧ OnlyDue s t ∧ AnswersOk s t [0] ∧ t.hall.base = s.hall.base ∧
         StuckKept s.hall t.hall ∧ Concludes s { s with hall := after } t) ∧
       (after.ctx.get u).state = .ending ∧ (after.gates.get u).request = false ∧ (after.gates.get u).line = false ∧
       after.runs.get u = (if (s.hall.runs.get u).running
         then { s.hall.runs.get u with running := false, result := .stopped } else s.hall.runs.get u)
     else OnlyAnswers (.stopProve p) [5] s) ∧
    (∀ b : Byte, 16 ≤ b.toNat → RefusedWith (.stopProve [b]) .field s)

/-- A crosspoint qualifies for a sweep on the conditions of R194, one by one; RF off is that of R110. START SWEEP
starts with the first crosspoint that qualifies and counts those before it as skipped; its close is queued, or
attached to one that is queued already. When none qualifies the sweep is COMPLETE at once (R193, R194); that a sweep
that has ended shows no next crosspoint is what the model deduces (log 35). STOP SWEEP (R195) ends a sweep whose close
is not yet in flight, lets any other come to its end, and changes nothing when no sweep runs. -/
def Obligations.SweepsStartAndStop : Prop :=
  (∀ (e : Env) (h : Hall) (x : Xp), exercisable e h x = true ↔
    (h.xp x).pos = .opened ∧ (h.rows.get x.row).res = .free ∧ h.stray.get x.row = false ∧
    e.pins.rf.get x.row = false ∧ (∀ y : Xp, y.row = x.row ∨ y.tx = x.tx → (h.xp y).stuck = false) ∧
    (∀ y : Xp, y ≠ x → y.row = x.row ∨ y.tx = x.tx → (h.xp y).pos = .opened ∧ ∀ n ∈ h.queue, n.xp ≠ y) ∧
    (e.tables.tx.get x.tx = none ∨ ∃ m, (h.links.get x.tx).telemetry = some m ∧ m.quiet = true)) ∧
  ∀ s : State, Received s →
    (s.env.mode = .config → s.hall.sweep.state ≠ .idle ∨ s.hall.exercise.phase ≠ .idle →
      RefusedWith (.startSweep []) .busy s) ∧
    (s.env.mode = .config → s.hall.sweep.state = .idle → s.hall.exercise.phase = .idle →
      let after := sweepReach s.env { s.hall with sweep := Sweep.started }
      (∃ t, exec (.startSweep []) s = .next t ∧ AnswersOk s t [] ∧ OnlyDue s t ∧ t.hall.base = s.hall.base ∧
        StuckKept s.hall t.hall ∧ Concludes s { s with hall := after } t ∧
        ((∀ j : Fin 416, exercisable s.env s.hall (xpAt j) = false) → t.hall.noticeSet .sweepDone = true)) ∧
      ((∀ j : Fin 416, exercisable s.env s.hall (xpAt j) = false) →
        after.sweep = { Sweep.started with state := .idle, next := none, skipped := 416, result := .complete }) ∧
      (∀ j : Fin 416, exercisable s.env s.hall (xpAt j) = true →
        (∀ k : Fin 416, k < j → exercisable s.env s.hall (xpAt k) = false) →
        after.sweep = { Sweep.started with next := nextPlace j, skipped := j.val } ∧
        after.exercise.phase = .closing ∧ after.exercise.xp = xpAt j ∧ after.exercise.origin = .sweep ∧
        after.res (xpAt j).row = .exercise ∧
        after.queue = (queueOp (xpAt j) .close .exercise s.hall).queue ∧
        (s.hall.busyXp (xpAt j) = false → ∃ n : QEntry, after.queue = s.hall.queue ++ [n] ∧ n.xp = xpAt j ∧
          n.dir = .close ∧ n.exercise = true ∧ n.reqs = [] ∧ n.commands = 0))) ∧
    (s.hall.sweep.state ≠ .running → OnlyAnswers (.stopSweep []) [5] s) ∧
    (s.hall.sweep.state = .running → s.hall.unsentClose = none →
      ∃ t, exec (.stopSweep []) s = .next t ∧ AnswersOk s t [0] ∧ t.env = s.env ∧
        t.hall = { s.hall with sweep := { s.hall.sweep with state := .stopping } }) ∧
    (∀ n : QEntry, s.hall.sweep.state = .running → s.hall.unsentClose = some n →
      let after := withdrawExercise n s.hall
      (∃ t, exec (.stopSweep []) s = .next t ∧ AnswersOk s t [0] ∧ OnlyDue s t ∧ t.hall.base = s.hall.base ∧
        StuckKept s.hall t.hall ∧ t.hall.noticeSet .sweepDone = true ∧ Concludes s { s with hall := after } t) ∧
      after.sweep = { s.hall.sweep with
        state := .idle, next := none, skipped := s.hall.sweep.skipped + 1, result := .stopped } ∧
      after.exercise.phase = .idle ∧ (n.reqs = [] → n.commands = 0 → n ∉ after.queue))

/-- The level of an RF sense input is followed (R179); RF coming on the row of the move in flight is noted (R113), and
on the row of a GO it stops the motion (R137). RF that comes on a row which no transmitter covers sets its STRAY latch
and raises STRAY_RF (R179, R180), where nothing else is left to be done in the hall. A cover runs out and the row is
examined (R179): with RF sensed, no line to move and no other row to latch, its STRAY latch is set and STRAY_RF
raised, and a row without RF keeps its latch as it is; that the elapsed base passes on to its end is the model's
choice (log 2), and that only the level follows while RESETn is held (log 32). -/
def Obligations.RfSenseIsFollowed : Prop :=
  ∀ (s : State) (r : Row) (b : Bool),
    (∃ t, exec (.rfSenseChange r b) s = .next t ∧ t.port = s.port ∧ t.hall.base = s.hall.base ∧
      StuckKept s.hall t.hall ∧
      t.env = { s.env with due := t.env.due, pins := { s.env.pins with rf := s.env.pins.rf.set r b } } ∧
      (∀ q : Row, s.hall.stray.get q = true → t.hall.stray.get q = true) ∧
      (s.env.pins.resetHeld = true → t.hall = s.hall) ∧
      (s.env.pins.resetHeld = false → b = true → s.env.pins.rf.get r = false →
        let after := rfStop r (noteRf r s.hall)
        let pins := { s.env.pins with rf := s.env.pins.rf.set r b }
        Concludes s { s with hall := after, env := { s.env with pins := pins } } t ∧
        (∀ n : QEntry, s.hall.flying = some n → n.xp.row = r → (after.xp n.xp).rfSeen = true) ∧
        (∀ (a : Ant) (g : GoRec), rowAnt r = some a → (s.hall.pos.get a).go = some g →
          (after.pos.get a).go = none ∧ (t.hall.pos.get a).stopOutstanding = true ∧
          (t.hall.pos.get a).state = (s.hall.pos.get a).state) ∧
        (s.hall.work = [] → (∀ a : Ant, rowAnt r = some a → ∀ g ∈ (s.hall.pos.get a).go, g.tx = none) →
          (∀ u : Tx, (s.hall.gates.get u).line = true → permitConditions s.env s.hall u = true) →
          (∀ u : Tx, (s.hall.gates.get u).request = true → (s.hall.gates.get u).line = true ∨
            permitConditions s.env s.hall u = false) →
          (∀ q : Row, s.env.pins.rf.get q = true → s.hall.stray.get q = true ∨
            ∃ u : Tx, s.hall.isOpen ⟨u, q⟩ = false ∧ covers s.env s.hall u = true) →
          (∀ u : Tx, s.hall.isOpen ⟨u, r⟩ = true ∨ covers s.env s.hall u = false) → s.hall.stray.get r = false →
          t.hall.stray.get r = true ∧ t.hall.noticeSet .strayRf = true))) ∧
    (let l := coverers s.env s.hall r
     if s.env.pins.resetHeld = true ∨ ∃ u ∈ l, (s.hall.gates.get u).line = true
     then exec (.coverEnd r) s = .next s
     else ∃ t, exec (.coverEnd r) s = .next t ∧ t.port = s.port ∧ OnlyTime s t ∧ t.hall.base = s.hall.base ∧
       StuckKept s.hall t.hall ∧ (∀ q : Row, s.hall.stray.get q = true → t.hall.stray.get q = true) ∧
       s.env.elapsed ≤ t.env.elapsed ∧ (l = [] → t.env.elapsed = s.env.elapsed ∧ Concludes s s t) ∧
       (∀ u ∈ l, ∀ d : Nat, (s.hall.gates.get u).lastDrop = some d →
         d + (s.env.muteTime u + 10) * 1000 ≤ t.env.elapsed) ∧
       Concludes s { s with env := passTo t.env.elapsed s.env } t ∧
       (∀ q : Row, s.env.pins.rf.get q = false → t.hall.stray.get q = s.hall.stray.get q) ∧
       (s.hall.work = [] → (∀ u : Tx, (s.hall.gates.get u).line = true → permitConditions s.env s.hall u = true) →
         (∀ u : Tx, (s.hall.gates.get u).request = true → (s.hall.gates.get u).line = true ∨
           permitConditions s.env s.hall u = false) →
         (∀ q : Row, q ≠ r → s.env.pins.rf.get q = true → s.hall.stray.get q = true ∨
           ∃ u : Tx, s.hall.isOpen ⟨u, q⟩ = false ∧ covers t.env s.hall u = true) →
         s.env.pins.rf.get r = true → s.hall.stray.get r = false →
         t.hall.stray.get r = true ∧ t.hall.noticeSet .strayRf = true))

/-! Resets and modes (Chapter 10). -/

/-- Power-up gives every block its power-up value, the inputs as the hall holds them (R200, log 3); a hall reset keeps
what each block's reset table retains (R2, R9, R43, R65, R67, R125, R143, R184, R185, R187, R193, R206): what was in
flight has ended, HALTED, and contexts, queue, rows, crosspoints, positions, gates and flags are as after power-up but
for the STUCK flags and the events of the reset itself; the links are those of R159. That the last-outcome field of a
context which held one occurrence and kept another shows the held one is the model's choice of an order (log 6). The
mode after either follows HALLSTOP, then LOCAL. That nothing sent stands on the buses after either (log 4), that a
sweep which has ended shows no next crosspoint and keeps its counts (logs 35, 59), that a sweep which is STOPPING ends
ABORTED with the abandoned crosspoint skipped (log 74) and that RF seen starts again at no (log 70) is the model's
choice. At the release of RESETn the level follows, and port, settings, latches and STUCK flags stand; a row on which
RF came under the reset may be latched then (logs 27, 32). -/
def Obligations.ResetsGiveTheirValues : Prop :=
  ∀ s : State,
    let modeAfter : Mode := if s.env.pins.hallstop then .stop else if s.env.pins.localKey then .localKey else .config
    (∃ t, exec .powerUp s = .next t ∧ t.env.mode = modeAfter ∧ t.env.pins = s.env.pins ∧ t.port = Port.powerUp ∧
      t.env.tables = Tables.powerUp ∧ t.env.banks = Banks.powerUp ∧ t.env.clock = Clock.powerUp ∧ t.env.due = [] ∧
      t.hall.base = Hall.powerUp.base ∧ (s.env.pins.hallstop = true → t.hall.noticeSet .hallStop = true) ∧
      (modeAfter = .config → s.env.noRf → t.hall = Hall.powerUp)) ∧
    (∃ t, exec .hallReset s = .next t ∧ t.env.mode = modeAfter ∧ t.env.tables = s.env.tables ∧
      t.env.pins = { s.env.pins with resetHeld := true } ∧ t.env.banks = { s.env.banks with freeze := false } ∧
      t.env.clock = (if s.env.clock.markState = .off then s.env.clock
        else { s.env.clock with markState := .waiting, markWatch := some (s.env.elapsed + 3000) }) ∧
      t.port.buffer = none ∧ t.port.selected = s.port.selected ∧ t.port.discard = s.port.selected ∧
      t.hall.base = { Hall.powerUp.base with
        ages := s.hall.ages, enables := s.hall.enables, routes := s.hall.routes, txUnit := s.hall.txUnit
        antUnit := s.hall.antUnit } ∧
      StuckKept s.hall t.hall ∧ (∀ r : Row, s.hall.stray.get r = true → t.hall.stray.get r = true) ∧
      (∀ u : Tx, LinkKept Link.powerUp (t.hall.links.get u)) ∧
      (s.env.pins.hallstop = true → t.hall.noticeSet .hallStop = true) ∧
      (∀ n : Notice, t.hall.noticeSet n = true →
        n = .missed ∨ n = .cut ∨ n = .noAntenna ∨ n = .strayRf ∨ n = .hallStop) ∧
      (∀ u : Tx, t.hall.ctx.get u = Context.idle ∧ t.hall.claims.get u = none ∧ t.hall.gates.get u = Gate.low ∧
        t.hall.power.get u = Power.idle ∧ t.hall.runs.get u =
          if (s.hall.runs.get u).running then { s.hall.runs.get u with running := false, result := .halted }
          else s.hall.runs.get u) ∧
      (t.hall.queue = [] ∧ t.hall.reading = none ∧ t.hall.surveyNext = none ∧ t.hall.exercise = Exercise.powerUp) ∧
      (∀ r : Row, t.hall.rows.get r = { res := .free, waiting := [] }) ∧
      (∀ x : Xp, t.hall.xp x = { pos := .unknown, stuck := (s.hall.xp x).stuck, rfSeen := false, last := .none }) ∧
      (∀ a : Ant, t.hall.pos.get a =
        match (s.env.tables.ant.get a).map AntCfg.kind with
        | some (.fixed b _) => { PosRec.unknown with state := .idle, azimuth := some b, tilt := some 0 }
        | some (.slew _ _ _ _) | some (.rotatable _ _ _) | none => PosRec.unknown) ∧
      (t.hall.sweep =
        match s.hall.sweep.state with
        | .idle => { s.hall.sweep with next := none }
        | .running | .stopping =>
          let abandoned := s.hall.exercise.phase ≠ .idle ∧ s.hall.exercise.origin = .sweep
          { s.hall.sweep with
            state := .idle, next := none, result := .aborted
            skipped := s.hall.sweep.skipped + if abandoned then 1 else 0 }) ∧
      (∀ u : Tx,
        let c := s.hall.ctx.get u
        t.hall.lastOutcome.get u =
          match c.state, c.held with
          | .idle, _ | .halted, _ => s.hall.lastOutcome.get u
          | .ending, .occurrence o =>
            match c.decided, c.kept with
            | some d, _ => some ⟨o.handle, outcomeOf d o.start o.finish c.lateSeconds c.wentOnAir⟩
            | none, some k => some ⟨k.handle,
                { outcome := .halted, reason := some .mode, start := k.start, late := 0, early := 0 }⟩
            | none, none => s.hall.lastOutcome.get u
          | .ending, _ =>
            match c.kept with
            | some k => some ⟨k.handle,
                { outcome := .halted, reason := some .mode, start := k.start, late := 0, early := 0 }⟩
            | none => s.hall.lastOutcome.get u
          | _, .occurrence o => some ⟨o.handle,
              { outcome := .halted, reason := some .mode, start := o.start
                late := if c.wentOnAir then c.lateSeconds else 0
                early := if c.wentOnAir then o.finish - s.env.now else 0 }⟩
          | _, _ => s.hall.lastOutcome.get u) ∧
      ∀ q : PlaceNo, s.hall.uninvolved q → (t.hall.slots.get q).gen = (s.hall.slots.get q).gen ∧
        match s.hall.recordAt q with
        | none => t.hall.recordAt q = none
        | some r => ∃ st : RecState, t.hall.recordAt q = some { r with state := st } ∧
          if r.state = .dormant ∨ r.state = .waiting then st = .dormant ∨ st = .waiting else st = r.state) ∧
    (∃ t, exec .hallResetRelease s = .next t ∧ t.port = s.port ∧ t.hall.base = s.hall.base ∧
      StuckKept s.hall t.hall ∧ (∀ r : Row, s.hall.stray.get r = true → t.hall.stray.get r = true) ∧
      t.env = { s.env with due := t.env.due, pins := { s.env.pins with resetHeld := false } })

/-- HALLSTOP enters STOP from every mode, lowers every PERMIT line and raises HALL_STOP (R162, R202). LOCAL enters
LOCAL from CONFIG, SURVEY and RUN, and every crosspoint becomes UNKNOWN, keeping STUCK (R124, R203). Either halts
every context that is not IDLE (R95). An assertion of a line that is asserted already acts again, a choice of the
model (log 36). The releases change the level alone. -/
def Obligations.ModeLinesActAtOnce : Prop :=
  ∀ s : State,
    (∃ t, exec .hallstopAssert s = .next t ∧ t.port = s.port ∧ t.hall.base = s.hall.base ∧ StuckKept s.hall t.hall ∧
      t.env = { s.env with due := t.env.due, mode := .stop, pins := { s.env.pins with hallstop := true } } ∧
      (∀ u : Tx, t.hall.lineLow u) ∧ t.hall.noticeSet .hallStop = true ∧
      (s.env.mode ≠ .stop → s.env.pins.resetHeld = false →
        ∃ d : State, Concludes s d t ∧
          ∀ u : Tx, (d.hall.ctx.get u).state =
            (if (s.hall.ctx.get u).state = .idle then .idle else .halted) ∧ (d.hall.ctx.get u).held =
              (if (s.hall.ctx.get u).state = .idle ∨ (s.hall.ctx.get u).state = .halted
                then (s.hall.ctx.get u).held else .nothing))) ∧
    (∃ t, exec .localAssert s = .next t ∧ t.port = s.port ∧ StuckKept s.hall t.hall ∧
      t.hall.base = { s.hall.base with posPoll := if s.env.mode = .localKey then s.hall.posPoll else [] } ∧
      t.env = { s.env with
        due := t.env.due, mode := if s.env.mode = .stop then .stop else .localKey
        pins := { s.env.pins with localKey := true } } ∧
      (s.env.mode ≠ .localKey → s.env.pins.resetHeld = false →
        ∃ d : State, Concludes s d t ∧ (∀ x : Xp, (d.hall.xp x).pos = .unknown) ∧ d.hall.queue = [] ∧
          (∀ a : Ant, s.env.steers a = true → d.hall.pos.get a = PosRec.unknown) ∧
          ∀ u : Tx, (d.hall.ctx.get u).state =
            if (s.hall.ctx.get u).state = .idle then .idle else .halted)) ∧
    exec .hallstopRelease s = .next { s with env := { s.env with pins := { s.env.pins with hallstop := false } } } ∧
    exec .localRelease s = .next { s with env := { s.env with pins := { s.env.pins with localKey := false } } }

/-- GO RUN enters SURVEY from LOCAL and when a crosspoint is UNKNOWN and not STUCK, else RUN (R204); GO CONFIG enters
CONFIG (R205). Each is refused with MODE while a mode line holds STOP or LOCAL; GO RUN with NOT_READY or BUSY; GO
CONFIG without force with BUSY while a context is at work. GO RUN, and GO CONFIG from STOP or LOCAL, make each HALTED
context IDLE and leave the others (R95); a survey starts at (T0, row 0) (R121). GO CONFIG from RUN takes back each
working context with ABORTED, MODE, a proving run with HALTED (R92, R177), drops a kept occurrence with ABORTED, MODE
(R85) and leaves the others; from SURVEY it ends the survey (R123). -/
def Obligations.GoRunAndGoConfig : Prop :=
  ∀ s : State, Received s →
    let held := (s.env.mode = .stop ∨ s.env.mode = .localKey) ∧
      (s.env.pins.hallstop = true ∨ s.env.pins.localKey = true)
    (s.env.mode ≠ .survey → s.env.mode ≠ .run →
      (held → RefusedWith (.goRun []) .mode s) ∧
      (¬held → s.env.clock.valid = false ∨ (∀ u, s.env.tables.tx.get u = none) →
        RefusedWith (.goRun []) .notReady s) ∧
      (¬held → s.env.clock.valid = true → (∃ u, s.env.tables.tx.get u ≠ none) → s.hall.sweep.state ≠ .idle →
        RefusedWith (.goRun []) .busy s) ∧
      (¬held → s.env.clock.valid = true → (∃ u, s.env.tables.tx.get u ≠ none) → s.hall.sweep.state = .idle →
        ∃ t, exec (.goRun []) s = .next t ∧ t.hall.base = s.hall.base ∧ StuckKept s.hall t.hall ∧
          t.env = { s.env with due := t.env.due, mode := t.env.mode } ∧
          AnswersOk s t [BitVec.ofNat 8 t.env.mode.code] ∧
          (s.env.mode = .localKey ∨ (∃ x, (s.hall.xp x).pos = .unknown ∧ (s.hall.xp x).stuck = false) →
            t.env.mode = .survey) ∧
          (s.env.mode ≠ .localKey → (∀ x, (s.hall.xp x).pos = .unknown → (s.hall.xp x).stuck = true) →
            t.env.mode = .run) ∧
          ∃ after : Hall, Concludes s { s with env := { s.env with mode := t.env.mode }, hall := after } t ∧
            after.surveyNext = (if t.env.mode = .survey then some 0 else s.hall.surveyNext) ∧
            ∀ u : Tx, after.ctx.get u =
              if s.env.mode ≠ .config ∧ (s.hall.ctx.get u).state = .halted then Context.idle
              else s.hall.ctx.get u)) ∧
    (∀ force : Bool, s.env.mode ≠ .config →
      let p : List Byte := [if force then 1 else 0]
      let waits := s.env.mode = .run ∧ force = false ∧ ∃ u, (s.hall.ctx.get u).state ≠ .idle
      (held → RefusedWith (.goConfig p) .mode s) ∧
      (¬held → waits → RefusedWith (.goConfig p) .busy s) ∧
      (¬held → ¬waits →
        ∃ t, exec (.goConfig p) s = .next t ∧ t.hall.base = s.hall.base ∧ StuckKept s.hall t.hall ∧
          t.env = { s.env with due := t.env.due, mode := .config } ∧ (∀ u : Tx, t.hall.lineLow u) ∧
          AnswersOk s t [if s.env.mode = .run
            then BitVec.ofNat 8 (s.hall.ctx.cells.countP fun c => c.state.working) else 0] ∧
          ∃ after : Hall, Concludes s { s with env := { s.env with mode := .config }, hall := after } t ∧
            (s.env.mode = .run → ∀ u : Tx,
              Stopped s.hall u (fun _ => some { outcome := .aborted, reason := some .mode, ended := s.env.now })
                (some .halted) (fun _ => some (.aborted, .mode)) after) ∧
            (s.env.mode = .survey → after = { s.hall with surveyNext := none }) ∧
            (s.env.mode = .stop ∨ s.env.mode = .localKey → after = { s.hall with ctx := after.ctx } ∧
              ∀ u : Tx, after.ctx.get u =
                if (s.hall.ctx.get u).state = .halted then Context.idle else s.hall.ctx.get u))) ∧
    xpAt 0 = { tx := 0, row := 0 }
end

