-- ==== Sys2Proof/Laws/State.lean ====
section
/-! SUPPORT. The small lemmas of the records: a table read after it is written, and one lemma for each field that an
update of the hall, of the state or of time leaves alone. -/

namespace Sys2Proof

/-! Tables. -/

variable {α β : Type} {n : Nat}

@[simp] theorem Tab.get_set_same (t : Tab α n) (i : Fin n) (a : α) : (t.set i a).get i = a := by
  simp [Tab.get, Tab.set]

@[simp] theorem Tab.get_set_ne (t : Tab α n) {i j : Fin n} (a : α) (h : i ≠ j) : (t.set i a).get j = t.get j := by
  have : i.val ≠ j.val := fun e => h (Fin.ext e)
  simp [Tab.get, Tab.set, this]

/-- A read after a write gives what was written, at another number what stood there. -/
theorem Tab.get_set (t : Tab α n) (i j : Fin n) (a : α) : (t.set i a).get j = if i = j then a else t.get j := by
  by_cases h : i = j
  · subst h; simp
  · simp [h]

@[simp] theorem Tab.get_modify_same (t : Tab α n) (i : Fin n) (f : α → α) : (t.modify i f).get i = f (t.get i) := by
  simp [Tab.modify]

@[simp] theorem Tab.get_modify_ne (t : Tab α n) {i j : Fin n} (f : α → α) (h : i ≠ j) :
    (t.modify i f).get j = t.get j := by
  simp [Tab.modify, h]

theorem Tab.get_modify (t : Tab α n) (i j : Fin n) (f : α → α) :
    (t.modify i f).get j = if i = j then f (t.get j) else t.get j := by
  by_cases h : i = j
  · subst h; simp
  · simp [h]

@[simp] theorem Tab.get_fill (i : Fin n) (a : α) : (Tab.fill n a).get i = a := by
  simp [Tab.get, Tab.fill]

@[simp] theorem Tab.get_map (f : α → β) (t : Tab α n) (i : Fin n) : (t.map f).get i = f (t.get i) := by
  simp [Tab.get, Tab.map]

@[simp] theorem Tab.get_build (f : Fin n → α) (i : Fin n) : (Tab.build n f).get i = f i := by
  simp [Tab.get, Tab.build]

/-- Two tables are equal when they read alike at every number. -/
theorem Tab.ext_get {s t : Tab α n} (h : ∀ i, s.get i = t.get i) : s = t := by
  obtain ⟨l, hl⟩ := s
  obtain ⟨m, hm⟩ := t
  have : l = m := by
    apply List.ext_getElem (by rw [hl, hm])
    intro i h1 h2
    simpa [Tab.get] using h ⟨i, hl ▸ h1⟩
  subst this; rfl

theorem Tab.set_get (t : Tab α n) (i : Fin n) : t.set i (t.get i) = t := by
  apply Tab.ext_get
  intro j
  by_cases h : i = j
  · subst h; simp
  · simp [h]

end Sys2Proof

namespace Sys2Proof.Machine

variable (h : Hall) (e : Env) (s : State)

/-! `Hall.setCtx`. -/

@[simp] theorem Hall.setCtx_slots (t : Tx) (c : Context) : (h.setCtx t c).slots = h.slots := rfl
@[simp] theorem Hall.setCtx_lastOutcome (t : Tx) (c : Context) : (h.setCtx t c).lastOutcome = h.lastOutcome := rfl
@[simp] theorem Hall.setCtx_xps (t : Tx) (c : Context) : (h.setCtx t c).xps = h.xps := rfl
@[simp] theorem Hall.setCtx_rows (t : Tx) (c : Context) : (h.setCtx t c).rows = h.rows := rfl
@[simp] theorem Hall.setCtx_claims (t : Tx) (c : Context) : (h.setCtx t c).claims = h.claims := rfl
@[simp] theorem Hall.setCtx_queue (t : Tx) (c : Context) : (h.setCtx t c).queue = h.queue := rfl
@[simp] theorem Hall.setCtx_arrivals (t : Tx) (c : Context) : (h.setCtx t c).arrivals = h.arrivals := rfl
@[simp] theorem Hall.setCtx_reading (t : Tx) (c : Context) : (h.setCtx t c).reading = h.reading := rfl
@[simp] theorem Hall.setCtx_surveyNext (t : Tx) (c : Context) : (h.setCtx t c).surveyNext = h.surveyNext := rfl
@[simp] theorem Hall.setCtx_driveSent (t : Tx) (c : Context) : (h.setCtx t c).driveSent = h.driveSent := rfl
@[simp] theorem Hall.setCtx_ages (t : Tx) (c : Context) : (h.setCtx t c).ages = h.ages := rfl
@[simp] theorem Hall.setCtx_exercise (t : Tx) (c : Context) : (h.setCtx t c).exercise = h.exercise := rfl
@[simp] theorem Hall.setCtx_sweep (t : Tx) (c : Context) : (h.setCtx t c).sweep = h.sweep := rfl
@[simp] theorem Hall.setCtx_pos (t : Tx) (c : Context) : (h.setCtx t c).pos = h.pos := rfl
@[simp] theorem Hall.setCtx_posPoll (t : Tx) (c : Context) : (h.setCtx t c).posPoll = h.posPoll := rfl
@[simp] theorem Hall.setCtx_posCycle (t : Tx) (c : Context) : (h.setCtx t c).posCycle = h.posCycle := rfl
@[simp] theorem Hall.setCtx_posSent (t : Tx) (c : Context) : (h.setCtx t c).posSent = h.posSent := rfl
@[simp] theorem Hall.setCtx_links (t : Tx) (c : Context) : (h.setCtx t c).links = h.links := rfl
@[simp] theorem Hall.setCtx_hallPoll (t : Tx) (c : Context) : (h.setCtx t c).hallPoll = h.hallPoll := rfl
@[simp] theorem Hall.setCtx_hallCycle (t : Tx) (c : Context) : (h.setCtx t c).hallCycle = h.hallCycle := rfl
@[simp] theorem Hall.setCtx_hallSent (t : Tx) (c : Context) : (h.setCtx t c).hallSent = h.hallSent := rfl
@[simp] theorem Hall.setCtx_gates (t : Tx) (c : Context) : (h.setCtx t c).gates = h.gates := rfl
@[simp] theorem Hall.setCtx_power (t : Tx) (c : Context) : (h.setCtx t c).power = h.power := rfl
@[simp] theorem Hall.setCtx_txUnit (t : Tx) (c : Context) : (h.setCtx t c).txUnit = h.txUnit := rfl
@[simp] theorem Hall.setCtx_antUnit (t : Tx) (c : Context) : (h.setCtx t c).antUnit = h.antUnit := rfl
@[simp] theorem Hall.setCtx_runs (t : Tx) (c : Context) : (h.setCtx t c).runs = h.runs := rfl
@[simp] theorem Hall.setCtx_stray (t : Tx) (c : Context) : (h.setCtx t c).stray = h.stray := rfl
@[simp] theorem Hall.setCtx_flags (t : Tx) (c : Context) : (h.setCtx t c).flags = h.flags := rfl
@[simp] theorem Hall.setCtx_enables (t : Tx) (c : Context) : (h.setCtx t c).enables = h.enables := rfl
@[simp] theorem Hall.setCtx_routes (t : Tx) (c : Context) : (h.setCtx t c).routes = h.routes := rfl
@[simp] theorem Hall.setCtx_work (t : Tx) (c : Context) : (h.setCtx t c).work = h.work := rfl

/-! `Hall.modCtx`. -/

@[simp] theorem Hall.modCtx_slots (t : Tx) (f : Context → Context) : (h.modCtx t f).slots = h.slots := rfl
@[simp] theorem Hall.modCtx_lastOutcome (t : Tx) (f : Context → Context) : (h.modCtx t f).lastOutcome = h.lastOutcome := rfl
@[simp] theorem Hall.modCtx_xps (t : Tx) (f : Context → Context) : (h.modCtx t f).xps = h.xps := rfl
@[simp] theorem Hall.modCtx_rows (t : Tx) (f : Context → Context) : (h.modCtx t f).rows = h.rows := rfl
@[simp] theorem Hall.modCtx_claims (t : Tx) (f : Context → Context) : (h.modCtx t f).claims = h.claims := rfl
@[simp] theorem Hall.modCtx_queue (t : Tx) (f : Context → Context) : (h.modCtx t f).queue = h.queue := rfl
@[simp] theorem Hall.modCtx_arrivals (t : Tx) (f : Context → Context) : (h.modCtx t f).arrivals = h.arrivals := rfl
@[simp] theorem Hall.modCtx_reading (t : Tx) (f : Context → Context) : (h.modCtx t f).reading = h.reading := rfl
@[simp] theorem Hall.modCtx_surveyNext (t : Tx) (f : Context → Context) : (h.modCtx t f).surveyNext = h.surveyNext := rfl
@[simp] theorem Hall.modCtx_driveSent (t : Tx) (f : Context → Context) : (h.modCtx t f).driveSent = h.driveSent := rfl
@[simp] theorem Hall.modCtx_ages (t : Tx) (f : Context → Context) : (h.modCtx t f).ages = h.ages := rfl
@[simp] theorem Hall.modCtx_exercise (t : Tx) (f : Context → Context) : (h.modCtx t f).exercise = h.exercise := rfl
@[simp] theorem Hall.modCtx_sweep (t : Tx) (f : Context → Context) : (h.modCtx t f).sweep = h.sweep := rfl
@[simp] theorem Hall.modCtx_pos (t : Tx) (f : Context → Context) : (h.modCtx t f).pos = h.pos := rfl
@[simp] theorem Hall.modCtx_posPoll (t : Tx) (f : Context → Context) : (h.modCtx t f).posPoll = h.posPoll := rfl
@[simp] theorem Hall.modCtx_posCycle (t : Tx) (f : Context → Context) : (h.modCtx t f).posCycle = h.posCycle := rfl
@[simp] theorem Hall.modCtx_posSent (t : Tx) (f : Context → Context) : (h.modCtx t f).posSent = h.posSent := rfl
@[simp] theorem Hall.modCtx_links (t : Tx) (f : Context → Context) : (h.modCtx t f).links = h.links := rfl
@[simp] theorem Hall.modCtx_hallPoll (t : Tx) (f : Context → Context) : (h.modCtx t f).hallPoll = h.hallPoll := rfl
@[simp] theorem Hall.modCtx_hallCycle (t : Tx) (f : Context → Context) : (h.modCtx t f).hallCycle = h.hallCycle := rfl
@[simp] theorem Hall.modCtx_hallSent (t : Tx) (f : Context → Context) : (h.modCtx t f).hallSent = h.hallSent := rfl
@[simp] theorem Hall.modCtx_gates (t : Tx) (f : Context → Context) : (h.modCtx t f).gates = h.gates := rfl
@[simp] theorem Hall.modCtx_power (t : Tx) (f : Context → Context) : (h.modCtx t f).power = h.power := rfl
@[simp] theorem Hall.modCtx_txUnit (t : Tx) (f : Context → Context) : (h.modCtx t f).txUnit = h.txUnit := rfl
@[simp] theorem Hall.modCtx_antUnit (t : Tx) (f : Context → Context) : (h.modCtx t f).antUnit = h.antUnit := rfl
@[simp] theorem Hall.modCtx_runs (t : Tx) (f : Context → Context) : (h.modCtx t f).runs = h.runs := rfl
@[simp] theorem Hall.modCtx_stray (t : Tx) (f : Context → Context) : (h.modCtx t f).stray = h.stray := rfl
@[simp] theorem Hall.modCtx_flags (t : Tx) (f : Context → Context) : (h.modCtx t f).flags = h.flags := rfl
@[simp] theorem Hall.modCtx_enables (t : Tx) (f : Context → Context) : (h.modCtx t f).enables = h.enables := rfl
@[simp] theorem Hall.modCtx_routes (t : Tx) (f : Context → Context) : (h.modCtx t f).routes = h.routes := rfl
@[simp] theorem Hall.modCtx_work (t : Tx) (f : Context → Context) : (h.modCtx t f).work = h.work := rfl

/-! `Hall.setClaim`. -/

@[simp] theorem Hall.setClaim_slots (t : Tx) (c : Option Claim) : (h.setClaim t c).slots = h.slots := rfl
@[simp] theorem Hall.setClaim_lastOutcome (t : Tx) (c : Option Claim) : (h.setClaim t c).lastOutcome = h.lastOutcome := rfl
@[simp] theorem Hall.setClaim_ctx (t : Tx) (c : Option Claim) : (h.setClaim t c).ctx = h.ctx := rfl
@[simp] theorem Hall.setClaim_xps (t : Tx) (c : Option Claim) : (h.setClaim t c).xps = h.xps := rfl
@[simp] theorem Hall.setClaim_rows (t : Tx) (c : Option Claim) : (h.setClaim t c).rows = h.rows := rfl
@[simp] theorem Hall.setClaim_queue (t : Tx) (c : Option Claim) : (h.setClaim t c).queue = h.queue := rfl
@[simp] theorem Hall.setClaim_arrivals (t : Tx) (c : Option Claim) : (h.setClaim t c).arrivals = h.arrivals := rfl
@[simp] theorem Hall.setClaim_reading (t : Tx) (c : Option Claim) : (h.setClaim t c).reading = h.reading := rfl
@[simp] theorem Hall.setClaim_surveyNext (t : Tx) (c : Option Claim) : (h.setClaim t c).surveyNext = h.surveyNext := rfl
@[simp] theorem Hall.setClaim_driveSent (t : Tx) (c : Option Claim) : (h.setClaim t c).driveSent = h.driveSent := rfl
@[simp] theorem Hall.setClaim_ages (t : Tx) (c : Option Claim) : (h.setClaim t c).ages = h.ages := rfl
@[simp] theorem Hall.setClaim_exercise (t : Tx) (c : Option Claim) : (h.setClaim t c).exercise = h.exercise := rfl
@[simp] theorem Hall.setClaim_sweep (t : Tx) (c : Option Claim) : (h.setClaim t c).sweep = h.sweep := rfl
@[simp] theorem Hall.setClaim_pos (t : Tx) (c : Option Claim) : (h.setClaim t c).pos = h.pos := rfl
@[simp] theorem Hall.setClaim_posPoll (t : Tx) (c : Option Claim) : (h.setClaim t c).posPoll = h.posPoll := rfl
@[simp] theorem Hall.setClaim_posCycle (t : Tx) (c : Option Claim) : (h.setClaim t c).posCycle = h.posCycle := rfl
@[simp] theorem Hall.setClaim_posSent (t : Tx) (c : Option Claim) : (h.setClaim t c).posSent = h.posSent := rfl
@[simp] theorem Hall.setClaim_links (t : Tx) (c : Option Claim) : (h.setClaim t c).links = h.links := rfl
@[simp] theorem Hall.setClaim_hallPoll (t : Tx) (c : Option Claim) : (h.setClaim t c).hallPoll = h.hallPoll := rfl
@[simp] theorem Hall.setClaim_hallCycle (t : Tx) (c : Option Claim) : (h.setClaim t c).hallCycle = h.hallCycle := rfl
@[simp] theorem Hall.setClaim_hallSent (t : Tx) (c : Option Claim) : (h.setClaim t c).hallSent = h.hallSent := rfl
@[simp] theorem Hall.setClaim_gates (t : Tx) (c : Option Claim) : (h.setClaim t c).gates = h.gates := rfl
@[simp] theorem Hall.setClaim_power (t : Tx) (c : Option Claim) : (h.setClaim t c).power = h.power := rfl
@[simp] theorem Hall.setClaim_txUnit (t : Tx) (c : Option Claim) : (h.setClaim t c).txUnit = h.txUnit := rfl
@[simp] theorem Hall.setClaim_antUnit (t : Tx) (c : Option Claim) : (h.setClaim t c).antUnit = h.antUnit := rfl
@[simp] theorem Hall.setClaim_runs (t : Tx) (c : Option Claim) : (h.setClaim t c).runs = h.runs := rfl
@[simp] theorem Hall.setClaim_stray (t : Tx) (c : Option Claim) : (h.setClaim t c).stray = h.stray := rfl
@[simp] theorem Hall.setClaim_flags (t : Tx) (c : Option Claim) : (h.setClaim t c).flags = h.flags := rfl
@[simp] theorem Hall.setClaim_enables (t : Tx) (c : Option Claim) : (h.setClaim t c).enables = h.enables := rfl
@[simp] theorem Hall.setClaim_routes (t : Tx) (c : Option Claim) : (h.setClaim t c).routes = h.routes := rfl
@[simp] theorem Hall.setClaim_work (t : Tx) (c : Option Claim) : (h.setClaim t c).work = h.work := rfl

/-! `Hall.setRes`. -/

@[simp] theorem Hall.setRes_slots (r : Row) (x : Reservation) : (h.setRes r x).slots = h.slots := rfl
@[simp] theorem Hall.setRes_lastOutcome (r : Row) (x : Reservation) : (h.setRes r x).lastOutcome = h.lastOutcome := rfl
@[simp] theorem Hall.setRes_ctx (r : Row) (x : Reservation) : (h.setRes r x).ctx = h.ctx := rfl
@[simp] theorem Hall.setRes_xps (r : Row) (x : Reservation) : (h.setRes r x).xps = h.xps := rfl
@[simp] theorem Hall.setRes_claims (r : Row) (x : Reservation) : (h.setRes r x).claims = h.claims := rfl
@[simp] theorem Hall.setRes_queue (r : Row) (x : Reservation) : (h.setRes r x).queue = h.queue := rfl
@[simp] theorem Hall.setRes_arrivals (r : Row) (x : Reservation) : (h.setRes r x).arrivals = h.arrivals := rfl
@[simp] theorem Hall.setRes_reading (r : Row) (x : Reservation) : (h.setRes r x).reading = h.reading := rfl
@[simp] theorem Hall.setRes_surveyNext (r : Row) (x : Reservation) : (h.setRes r x).surveyNext = h.surveyNext := rfl
@[simp] theorem Hall.setRes_driveSent (r : Row) (x : Reservation) : (h.setRes r x).driveSent = h.driveSent := rfl
@[simp] theorem Hall.setRes_ages (r : Row) (x : Reservation) : (h.setRes r x).ages = h.ages := rfl
@[simp] theorem Hall.setRes_exercise (r : Row) (x : Reservation) : (h.setRes r x).exercise = h.exercise := rfl
@[simp] theorem Hall.setRes_sweep (r : Row) (x : Reservation) : (h.setRes r x).sweep = h.sweep := rfl
@[simp] theorem Hall.setRes_pos (r : Row) (x : Reservation) : (h.setRes r x).pos = h.pos := rfl
@[simp] theorem Hall.setRes_posPoll (r : Row) (x : Reservation) : (h.setRes r x).posPoll = h.posPoll := rfl
@[simp] theorem Hall.setRes_posCycle (r : Row) (x : Reservation) : (h.setRes r x).posCycle = h.posCycle := rfl
@[simp] theorem Hall.setRes_posSent (r : Row) (x : Reservation) : (h.setRes r x).posSent = h.posSent := rfl
@[simp] theorem Hall.setRes_links (r : Row) (x : Reservation) : (h.setRes r x).links = h.links := rfl
@[simp] theorem Hall.setRes_hallPoll (r : Row) (x : Reservation) : (h.setRes r x).hallPoll = h.hallPoll := rfl
@[simp] theorem Hall.setRes_hallCycle (r : Row) (x : Reservation) : (h.setRes r x).hallCycle = h.hallCycle := rfl
@[simp] theorem Hall.setRes_hallSent (r : Row) (x : Reservation) : (h.setRes r x).hallSent = h.hallSent := rfl
@[simp] theorem Hall.setRes_gates (r : Row) (x : Reservation) : (h.setRes r x).gates = h.gates := rfl
@[simp] theorem Hall.setRes_power (r : Row) (x : Reservation) : (h.setRes r x).power = h.power := rfl
@[simp] theorem Hall.setRes_txUnit (r : Row) (x : Reservation) : (h.setRes r x).txUnit = h.txUnit := rfl
@[simp] theorem Hall.setRes_antUnit (r : Row) (x : Reservation) : (h.setRes r x).antUnit = h.antUnit := rfl
@[simp] theorem Hall.setRes_runs (r : Row) (x : Reservation) : (h.setRes r x).runs = h.runs := rfl
@[simp] theorem Hall.setRes_stray (r : Row) (x : Reservation) : (h.setRes r x).stray = h.stray := rfl
@[simp] theorem Hall.setRes_flags (r : Row) (x : Reservation) : (h.setRes r x).flags = h.flags := rfl
@[simp] theorem Hall.setRes_enables (r : Row) (x : Reservation) : (h.setRes r x).enables = h.enables := rfl
@[simp] theorem Hall.setRes_routes (r : Row) (x : Reservation) : (h.setRes r x).routes = h.routes := rfl
@[simp] theorem Hall.setRes_work (r : Row) (x : Reservation) : (h.setRes r x).work = h.work := rfl

/-! `Hall.setWaiting`. -/

@[simp] theorem Hall.setWaiting_slots (r : Row) (l : List Req) : (h.setWaiting r l).slots = h.slots := rfl
@[simp] theorem Hall.setWaiting_lastOutcome (r : Row) (l : List Req) : (h.setWaiting r l).lastOutcome = h.lastOutcome := rfl
@[simp] theorem Hall.setWaiting_ctx (r : Row) (l : List Req) : (h.setWaiting r l).ctx = h.ctx := rfl
@[simp] theorem Hall.setWaiting_xps (r : Row) (l : List Req) : (h.setWaiting r l).xps = h.xps := rfl
@[simp] theorem Hall.setWaiting_claims (r : Row) (l : List Req) : (h.setWaiting r l).claims = h.claims := rfl
@[simp] theorem Hall.setWaiting_queue (r : Row) (l : List Req) : (h.setWaiting r l).queue = h.queue := rfl
@[simp] theorem Hall.setWaiting_arrivals (r : Row) (l : List Req) : (h.setWaiting r l).arrivals = h.arrivals := rfl
@[simp] theorem Hall.setWaiting_reading (r : Row) (l : List Req) : (h.setWaiting r l).reading = h.reading := rfl
@[simp] theorem Hall.setWaiting_surveyNext (r : Row) (l : List Req) : (h.setWaiting r l).surveyNext = h.surveyNext := rfl
@[simp] theorem Hall.setWaiting_driveSent (r : Row) (l : List Req) : (h.setWaiting r l).driveSent = h.driveSent := rfl
@[simp] theorem Hall.setWaiting_ages (r : Row) (l : List Req) : (h.setWaiting r l).ages = h.ages := rfl
@[simp] theorem Hall.setWaiting_exercise (r : Row) (l : List Req) : (h.setWaiting r l).exercise = h.exercise := rfl
@[simp] theorem Hall.setWaiting_sweep (r : Row) (l : List Req) : (h.setWaiting r l).sweep = h.sweep := rfl
@[simp] theorem Hall.setWaiting_pos (r : Row) (l : List Req) : (h.setWaiting r l).pos = h.pos := rfl
@[simp] theorem Hall.setWaiting_posPoll (r : Row) (l : List Req) : (h.setWaiting r l).posPoll = h.posPoll := rfl
@[simp] theorem Hall.setWaiting_posCycle (r : Row) (l : List Req) : (h.setWaiting r l).posCycle = h.posCycle := rfl
@[simp] theorem Hall.setWaiting_posSent (r : Row) (l : List Req) : (h.setWaiting r l).posSent = h.posSent := rfl
@[simp] theorem Hall.setWaiting_links (r : Row) (l : List Req) : (h.setWaiting r l).links = h.links := rfl
@[simp] theorem Hall.setWaiting_hallPoll (r : Row) (l : List Req) : (h.setWaiting r l).hallPoll = h.hallPoll := rfl
@[simp] theorem Hall.setWaiting_hallCycle (r : Row) (l : List Req) : (h.setWaiting r l).hallCycle = h.hallCycle := rfl
@[simp] theorem Hall.setWaiting_hallSent (r : Row) (l : List Req) : (h.setWaiting r l).hallSent = h.hallSent := rfl
@[simp] theorem Hall.setWaiting_gates (r : Row) (l : List Req) : (h.setWaiting r l).gates = h.gates := rfl
@[simp] theorem Hall.setWaiting_power (r : Row) (l : List Req) : (h.setWaiting r l).power = h.power := rfl
@[simp] theorem Hall.setWaiting_txUnit (r : Row) (l : List Req) : (h.setWaiting r l).txUnit = h.txUnit := rfl
@[simp] theorem Hall.setWaiting_antUnit (r : Row) (l : List Req) : (h.setWaiting r l).antUnit = h.antUnit := rfl
@[simp] theorem Hall.setWaiting_runs (r : Row) (l : List Req) : (h.setWaiting r l).runs = h.runs := rfl
@[simp] theorem Hall.setWaiting_stray (r : Row) (l : List Req) : (h.setWaiting r l).stray = h.stray := rfl
@[simp] theorem Hall.setWaiting_flags (r : Row) (l : List Req) : (h.setWaiting r l).flags = h.flags := rfl
@[simp] theorem Hall.setWaiting_enables (r : Row) (l : List Req) : (h.setWaiting r l).enables = h.enables := rfl
@[simp] theorem Hall.setWaiting_routes (r : Row) (l : List Req) : (h.setWaiting r l).routes = h.routes := rfl
@[simp] theorem Hall.setWaiting_work (r : Row) (l : List Req) : (h.setWaiting r l).work = h.work := rfl

/-! `Hall.report`. -/

@[simp] theorem Hall.report_slots (m : Msg) : (h.report m).slots = h.slots := rfl
@[simp] theorem Hall.report_lastOutcome (m : Msg) : (h.report m).lastOutcome = h.lastOutcome := rfl
@[simp] theorem Hall.report_ctx (m : Msg) : (h.report m).ctx = h.ctx := rfl
@[simp] theorem Hall.report_xps (m : Msg) : (h.report m).xps = h.xps := rfl
@[simp] theorem Hall.report_rows (m : Msg) : (h.report m).rows = h.rows := rfl
@[simp] theorem Hall.report_claims (m : Msg) : (h.report m).claims = h.claims := rfl
@[simp] theorem Hall.report_queue (m : Msg) : (h.report m).queue = h.queue := rfl
@[simp] theorem Hall.report_arrivals (m : Msg) : (h.report m).arrivals = h.arrivals := rfl
@[simp] theorem Hall.report_reading (m : Msg) : (h.report m).reading = h.reading := rfl
@[simp] theorem Hall.report_surveyNext (m : Msg) : (h.report m).surveyNext = h.surveyNext := rfl
@[simp] theorem Hall.report_driveSent (m : Msg) : (h.report m).driveSent = h.driveSent := rfl
@[simp] theorem Hall.report_ages (m : Msg) : (h.report m).ages = h.ages := rfl
@[simp] theorem Hall.report_exercise (m : Msg) : (h.report m).exercise = h.exercise := rfl
@[simp] theorem Hall.report_sweep (m : Msg) : (h.report m).sweep = h.sweep := rfl
@[simp] theorem Hall.report_pos (m : Msg) : (h.report m).pos = h.pos := rfl
@[simp] theorem Hall.report_posPoll (m : Msg) : (h.report m).posPoll = h.posPoll := rfl
@[simp] theorem Hall.report_posCycle (m : Msg) : (h.report m).posCycle = h.posCycle := rfl
@[simp] theorem Hall.report_posSent (m : Msg) : (h.report m).posSent = h.posSent := rfl
@[simp] theorem Hall.report_links (m : Msg) : (h.report m).links = h.links := rfl
@[simp] theorem Hall.report_hallPoll (m : Msg) : (h.report m).hallPoll = h.hallPoll := rfl
@[simp] theorem Hall.report_hallCycle (m : Msg) : (h.report m).hallCycle = h.hallCycle := rfl
@[simp] theorem Hall.report_hallSent (m : Msg) : (h.report m).hallSent = h.hallSent := rfl
@[simp] theorem Hall.report_gates (m : Msg) : (h.report m).gates = h.gates := rfl
@[simp] theorem Hall.report_power (m : Msg) : (h.report m).power = h.power := rfl
@[simp] theorem Hall.report_txUnit (m : Msg) : (h.report m).txUnit = h.txUnit := rfl
@[simp] theorem Hall.report_antUnit (m : Msg) : (h.report m).antUnit = h.antUnit := rfl
@[simp] theorem Hall.report_runs (m : Msg) : (h.report m).runs = h.runs := rfl
@[simp] theorem Hall.report_stray (m : Msg) : (h.report m).stray = h.stray := rfl
@[simp] theorem Hall.report_flags (m : Msg) : (h.report m).flags = h.flags := rfl
@[simp] theorem Hall.report_enables (m : Msg) : (h.report m).enables = h.enables := rfl
@[simp] theorem Hall.report_routes (m : Msg) : (h.report m).routes = h.routes := rfl

/-! `Hall.modXp`. -/

@[simp] theorem Hall.modXp_slots (x : Xp) (f : XpRec → XpRec) : (h.modXp x f).slots = h.slots := rfl
@[simp] theorem Hall.modXp_lastOutcome (x : Xp) (f : XpRec → XpRec) : (h.modXp x f).lastOutcome = h.lastOutcome := rfl
@[simp] theorem Hall.modXp_ctx (x : Xp) (f : XpRec → XpRec) : (h.modXp x f).ctx = h.ctx := rfl
@[simp] theorem Hall.modXp_rows (x : Xp) (f : XpRec → XpRec) : (h.modXp x f).rows = h.rows := rfl
@[simp] theorem Hall.modXp_claims (x : Xp) (f : XpRec → XpRec) : (h.modXp x f).claims = h.claims := rfl
@[simp] theorem Hall.modXp_queue (x : Xp) (f : XpRec → XpRec) : (h.modXp x f).queue = h.queue := rfl
@[simp] theorem Hall.modXp_arrivals (x : Xp) (f : XpRec → XpRec) : (h.modXp x f).arrivals = h.arrivals := rfl
@[simp] theorem Hall.modXp_reading (x : Xp) (f : XpRec → XpRec) : (h.modXp x f).reading = h.reading := rfl
@[simp] theorem Hall.modXp_surveyNext (x : Xp) (f : XpRec → XpRec) : (h.modXp x f).surveyNext = h.surveyNext := rfl
@[simp] theorem Hall.modXp_driveSent (x : Xp) (f : XpRec → XpRec) : (h.modXp x f).driveSent = h.driveSent := rfl
@[simp] theorem Hall.modXp_ages (x : Xp) (f : XpRec → XpRec) : (h.modXp x f).ages = h.ages := rfl
@[simp] theorem Hall.modXp_exercise (x : Xp) (f : XpRec → XpRec) : (h.modXp x f).exercise = h.exercise := rfl
@[simp] theorem Hall.modXp_sweep (x : Xp) (f : XpRec → XpRec) : (h.modXp x f).sweep = h.sweep := rfl
@[simp] theorem Hall.modXp_pos (x : Xp) (f : XpRec → XpRec) : (h.modXp x f).pos = h.pos := rfl
@[simp] theorem Hall.modXp_posPoll (x : Xp) (f : XpRec → XpRec) : (h.modXp x f).posPoll = h.posPoll := rfl
@[simp] theorem Hall.modXp_posCycle (x : Xp) (f : XpRec → XpRec) : (h.modXp x f).posCycle = h.posCycle := rfl
@[simp] theorem Hall.modXp_posSent (x : Xp) (f : XpRec → XpRec) : (h.modXp x f).posSent = h.posSent := rfl
@[simp] theorem Hall.modXp_links (x : Xp) (f : XpRec → XpRec) : (h.modXp x f).links = h.links := rfl
@[simp] theorem Hall.modXp_hallPoll (x : Xp) (f : XpRec → XpRec) : (h.modXp x f).hallPoll = h.hallPoll := rfl
@[simp] theorem Hall.modXp_hallCycle (x : Xp) (f : XpRec → XpRec) : (h.modXp x f).hallCycle = h.hallCycle := rfl
@[simp] theorem Hall.modXp_hallSent (x : Xp) (f : XpRec → XpRec) : (h.modXp x f).hallSent = h.hallSent := rfl
@[simp] theorem Hall.modXp_gates (x : Xp) (f : XpRec → XpRec) : (h.modXp x f).gates = h.gates := rfl
@[simp] theorem Hall.modXp_power (x : Xp) (f : XpRec → XpRec) : (h.modXp x f).power = h.power := rfl
@[simp] theorem Hall.modXp_txUnit (x : Xp) (f : XpRec → XpRec) : (h.modXp x f).txUnit = h.txUnit := rfl
@[simp] theorem Hall.modXp_antUnit (x : Xp) (f : XpRec → XpRec) : (h.modXp x f).antUnit = h.antUnit := rfl
@[simp] theorem Hall.modXp_runs (x : Xp) (f : XpRec → XpRec) : (h.modXp x f).runs = h.runs := rfl
@[simp] theorem Hall.modXp_stray (x : Xp) (f : XpRec → XpRec) : (h.modXp x f).stray = h.stray := rfl
@[simp] theorem Hall.modXp_flags (x : Xp) (f : XpRec → XpRec) : (h.modXp x f).flags = h.flags := rfl
@[simp] theorem Hall.modXp_enables (x : Xp) (f : XpRec → XpRec) : (h.modXp x f).enables = h.enables := rfl
@[simp] theorem Hall.modXp_routes (x : Xp) (f : XpRec → XpRec) : (h.modXp x f).routes = h.routes := rfl
@[simp] theorem Hall.modXp_work (x : Xp) (f : XpRec → XpRec) : (h.modXp x f).work = h.work := rfl

/-! `Hall.setLast`. -/

@[simp] theorem Hall.setLast_slots (x : Xp) (r : XpResult) : (h.setLast x r).slots = h.slots := rfl
@[simp] theorem Hall.setLast_lastOutcome (x : Xp) (r : XpResult) : (h.setLast x r).lastOutcome = h.lastOutcome := rfl
@[simp] theorem Hall.setLast_ctx (x : Xp) (r : XpResult) : (h.setLast x r).ctx = h.ctx := rfl
@[simp] theorem Hall.setLast_rows (x : Xp) (r : XpResult) : (h.setLast x r).rows = h.rows := rfl
@[simp] theorem Hall.setLast_claims (x : Xp) (r : XpResult) : (h.setLast x r).claims = h.claims := rfl
@[simp] theorem Hall.setLast_queue (x : Xp) (r : XpResult) : (h.setLast x r).queue = h.queue := rfl
@[simp] theorem Hall.setLast_arrivals (x : Xp) (r : XpResult) : (h.setLast x r).arrivals = h.arrivals := rfl
@[simp] theorem Hall.setLast_reading (x : Xp) (r : XpResult) : (h.setLast x r).reading = h.reading := rfl
@[simp] theorem Hall.setLast_surveyNext (x : Xp) (r : XpResult) : (h.setLast x r).surveyNext = h.surveyNext := rfl
@[simp] theorem Hall.setLast_driveSent (x : Xp) (r : XpResult) : (h.setLast x r).driveSent = h.driveSent := rfl
@[simp] theorem Hall.setLast_ages (x : Xp) (r : XpResult) : (h.setLast x r).ages = h.ages := rfl
@[simp] theorem Hall.setLast_exercise (x : Xp) (r : XpResult) : (h.setLast x r).exercise = h.exercise := rfl
@[simp] theorem Hall.setLast_sweep (x : Xp) (r : XpResult) : (h.setLast x r).sweep = h.sweep := rfl
@[simp] theorem Hall.setLast_pos (x : Xp) (r : XpResult) : (h.setLast x r).pos = h.pos := rfl
@[simp] theorem Hall.setLast_posPoll (x : Xp) (r : XpResult) : (h.setLast x r).posPoll = h.posPoll := rfl
@[simp] theorem Hall.setLast_posCycle (x : Xp) (r : XpResult) : (h.setLast x r).posCycle = h.posCycle := rfl
@[simp] theorem Hall.setLast_posSent (x : Xp) (r : XpResult) : (h.setLast x r).posSent = h.posSent := rfl
@[simp] theorem Hall.setLast_links (x : Xp) (r : XpResult) : (h.setLast x r).links = h.links := rfl
@[simp] theorem Hall.setLast_hallPoll (x : Xp) (r : XpResult) : (h.setLast x r).hallPoll = h.hallPoll := rfl
@[simp] theorem Hall.setLast_hallCycle (x : Xp) (r : XpResult) : (h.setLast x r).hallCycle = h.hallCycle := rfl
@[simp] theorem Hall.setLast_hallSent (x : Xp) (r : XpResult) : (h.setLast x r).hallSent = h.hallSent := rfl
@[simp] theorem Hall.setLast_gates (x : Xp) (r : XpResult) : (h.setLast x r).gates = h.gates := rfl
@[simp] theorem Hall.setLast_power (x : Xp) (r : XpResult) : (h.setLast x r).power = h.power := rfl
@[simp] theorem Hall.setLast_txUnit (x : Xp) (r : XpResult) : (h.setLast x r).txUnit = h.txUnit := rfl
@[simp] theorem Hall.setLast_antUnit (x : Xp) (r : XpResult) : (h.setLast x r).antUnit = h.antUnit := rfl
@[simp] theorem Hall.setLast_runs (x : Xp) (r : XpResult) : (h.setLast x r).runs = h.runs := rfl
@[simp] theorem Hall.setLast_stray (x : Xp) (r : XpResult) : (h.setLast x r).stray = h.stray := rfl
@[simp] theorem Hall.setLast_flags (x : Xp) (r : XpResult) : (h.setLast x r).flags = h.flags := rfl
@[simp] theorem Hall.setLast_enables (x : Xp) (r : XpResult) : (h.setLast x r).enables = h.enables := rfl
@[simp] theorem Hall.setLast_routes (x : Xp) (r : XpResult) : (h.setLast x r).routes = h.routes := rfl
@[simp] theorem Hall.setLast_work (x : Xp) (r : XpResult) : (h.setLast x r).work = h.work := rfl

/-! `Hall.setPos`. -/

@[simp] theorem Hall.setPos_slots (x : Xp) (p : Pos) : (h.setPos x p).slots = h.slots := rfl
@[simp] theorem Hall.setPos_lastOutcome (x : Xp) (p : Pos) : (h.setPos x p).lastOutcome = h.lastOutcome := rfl
@[simp] theorem Hall.setPos_ctx (x : Xp) (p : Pos) : (h.setPos x p).ctx = h.ctx := rfl
@[simp] theorem Hall.setPos_rows (x : Xp) (p : Pos) : (h.setPos x p).rows = h.rows := rfl
@[simp] theorem Hall.setPos_claims (x : Xp) (p : Pos) : (h.setPos x p).claims = h.claims := rfl
@[simp] theorem Hall.setPos_queue (x : Xp) (p : Pos) : (h.setPos x p).queue = h.queue := rfl
@[simp] theorem Hall.setPos_arrivals (x : Xp) (p : Pos) : (h.setPos x p).arrivals = h.arrivals := rfl
@[simp] theorem Hall.setPos_reading (x : Xp) (p : Pos) : (h.setPos x p).reading = h.reading := rfl
@[simp] theorem Hall.setPos_surveyNext (x : Xp) (p : Pos) : (h.setPos x p).surveyNext = h.surveyNext := rfl
@[simp] theorem Hall.setPos_driveSent (x : Xp) (p : Pos) : (h.setPos x p).driveSent = h.driveSent := rfl
@[simp] theorem Hall.setPos_ages (x : Xp) (p : Pos) : (h.setPos x p).ages = h.ages := rfl
@[simp] theorem Hall.setPos_exercise (x : Xp) (p : Pos) : (h.setPos x p).exercise = h.exercise := rfl
@[simp] theorem Hall.setPos_sweep (x : Xp) (p : Pos) : (h.setPos x p).sweep = h.sweep := rfl
@[simp] theorem Hall.setPos_pos (x : Xp) (p : Pos) : (h.setPos x p).pos = h.pos := rfl
@[simp] theorem Hall.setPos_posPoll (x : Xp) (p : Pos) : (h.setPos x p).posPoll = h.posPoll := rfl
@[simp] theorem Hall.setPos_posCycle (x : Xp) (p : Pos) : (h.setPos x p).posCycle = h.posCycle := rfl
@[simp] theorem Hall.setPos_posSent (x : Xp) (p : Pos) : (h.setPos x p).posSent = h.posSent := rfl
@[simp] theorem Hall.setPos_links (x : Xp) (p : Pos) : (h.setPos x p).links = h.links := rfl
@[simp] theorem Hall.setPos_hallPoll (x : Xp) (p : Pos) : (h.setPos x p).hallPoll = h.hallPoll := rfl
@[simp] theorem Hall.setPos_hallCycle (x : Xp) (p : Pos) : (h.setPos x p).hallCycle = h.hallCycle := rfl
@[simp] theorem Hall.setPos_hallSent (x : Xp) (p : Pos) : (h.setPos x p).hallSent = h.hallSent := rfl
@[simp] theorem Hall.setPos_gates (x : Xp) (p : Pos) : (h.setPos x p).gates = h.gates := rfl
@[simp] theorem Hall.setPos_power (x : Xp) (p : Pos) : (h.setPos x p).power = h.power := rfl
@[simp] theorem Hall.setPos_txUnit (x : Xp) (p : Pos) : (h.setPos x p).txUnit = h.txUnit := rfl
@[simp] theorem Hall.setPos_antUnit (x : Xp) (p : Pos) : (h.setPos x p).antUnit = h.antUnit := rfl
@[simp] theorem Hall.setPos_runs (x : Xp) (p : Pos) : (h.setPos x p).runs = h.runs := rfl
@[simp] theorem Hall.setPos_stray (x : Xp) (p : Pos) : (h.setPos x p).stray = h.stray := rfl
@[simp] theorem Hall.setPos_flags (x : Xp) (p : Pos) : (h.setPos x p).flags = h.flags := rfl
@[simp] theorem Hall.setPos_enables (x : Xp) (p : Pos) : (h.setPos x p).enables = h.enables := rfl
@[simp] theorem Hall.setPos_routes (x : Xp) (p : Pos) : (h.setPos x p).routes = h.routes := rfl
@[simp] theorem Hall.setPos_work (x : Xp) (p : Pos) : (h.setPos x p).work = h.work := rfl

/-! `Hall.setRecord`. -/

@[simp] theorem Hall.setRecord_lastOutcome (p : PlaceNo) (r : Option Record) : (h.setRecord p r).lastOutcome = h.lastOutcome := rfl
@[simp] theorem Hall.setRecord_ctx (p : PlaceNo) (r : Option Record) : (h.setRecord p r).ctx = h.ctx := rfl
@[simp] theorem Hall.setRecord_xps (p : PlaceNo) (r : Option Record) : (h.setRecord p r).xps = h.xps := rfl
@[simp] theorem Hall.setRecord_rows (p : PlaceNo) (r : Option Record) : (h.setRecord p r).rows = h.rows := rfl
@[simp] theorem Hall.setRecord_claims (p : PlaceNo) (r : Option Record) : (h.setRecord p r).claims = h.claims := rfl
@[simp] theorem Hall.setRecord_queue (p : PlaceNo) (r : Option Record) : (h.setRecord p r).queue = h.queue := rfl
@[simp] theorem Hall.setRecord_arrivals (p : PlaceNo) (r : Option Record) : (h.setRecord p r).arrivals = h.arrivals := rfl
@[simp] theorem Hall.setRecord_reading (p : PlaceNo) (r : Option Record) : (h.setRecord p r).reading = h.reading := rfl
@[simp] theorem Hall.setRecord_surveyNext (p : PlaceNo) (r : Option Record) : (h.setRecord p r).surveyNext = h.surveyNext := rfl
@[simp] theorem Hall.setRecord_driveSent (p : PlaceNo) (r : Option Record) : (h.setRecord p r).driveSent = h.driveSent := rfl
@[simp] theorem Hall.setRecord_ages (p : PlaceNo) (r : Option Record) : (h.setRecord p r).ages = h.ages := rfl
@[simp] theorem Hall.setRecord_exercise (p : PlaceNo) (r : Option Record) : (h.setRecord p r).exercise = h.exercise := rfl
@[simp] theorem Hall.setRecord_sweep (p : PlaceNo) (r : Option Record) : (h.setRecord p r).sweep = h.sweep := rfl
@[simp] theorem Hall.setRecord_pos (p : PlaceNo) (r : Option Record) : (h.setRecord p r).pos = h.pos := rfl
@[simp] theorem Hall.setRecord_posPoll (p : PlaceNo) (r : Option Record) : (h.setRecord p r).posPoll = h.posPoll := rfl
@[simp] theorem Hall.setRecord_posCycle (p : PlaceNo) (r : Option Record) : (h.setRecord p r).posCycle = h.posCycle := rfl
@[simp] theorem Hall.setRecord_posSent (p : PlaceNo) (r : Option Record) : (h.setRecord p r).posSent = h.posSent := rfl
@[simp] theorem Hall.setRecord_links (p : PlaceNo) (r : Option Record) : (h.setRecord p r).links = h.links := rfl
@[simp] theorem Hall.setRecord_hallPoll (p : PlaceNo) (r : Option Record) : (h.setRecord p r).hallPoll = h.hallPoll := rfl
@[simp] theorem Hall.setRecord_hallCycle (p : PlaceNo) (r : Option Record) : (h.setRecord p r).hallCycle = h.hallCycle := rfl
@[simp] theorem Hall.setRecord_hallSent (p : PlaceNo) (r : Option Record) : (h.setRecord p r).hallSent = h.hallSent := rfl
@[simp] theorem Hall.setRecord_gates (p : PlaceNo) (r : Option Record) : (h.setRecord p r).gates = h.gates := rfl
@[simp] theorem Hall.setRecord_power (p : PlaceNo) (r : Option Record) : (h.setRecord p r).power = h.power := rfl
@[simp] theorem Hall.setRecord_txUnit (p : PlaceNo) (r : Option Record) : (h.setRecord p r).txUnit = h.txUnit := rfl
@[simp] theorem Hall.setRecord_antUnit (p : PlaceNo) (r : Option Record) : (h.setRecord p r).antUnit = h.antUnit := rfl
@[simp] theorem Hall.setRecord_runs (p : PlaceNo) (r : Option Record) : (h.setRecord p r).runs = h.runs := rfl
@[simp] theorem Hall.setRecord_stray (p : PlaceNo) (r : Option Record) : (h.setRecord p r).stray = h.stray := rfl
@[simp] theorem Hall.setRecord_flags (p : PlaceNo) (r : Option Record) : (h.setRecord p r).flags = h.flags := rfl
@[simp] theorem Hall.setRecord_enables (p : PlaceNo) (r : Option Record) : (h.setRecord p r).enables = h.enables := rfl
@[simp] theorem Hall.setRecord_routes (p : PlaceNo) (r : Option Record) : (h.setRecord p r).routes = h.routes := rfl
@[simp] theorem Hall.setRecord_work (p : PlaceNo) (r : Option Record) : (h.setRecord p r).work = h.work := rfl

/-! `Hall.modGate`. -/

@[simp] theorem Hall.modGate_slots (t : Tx) (f : Gate → Gate) : (h.modGate t f).slots = h.slots := rfl
@[simp] theorem Hall.modGate_lastOutcome (t : Tx) (f : Gate → Gate) : (h.modGate t f).lastOutcome = h.lastOutcome := rfl
@[simp] theorem Hall.modGate_ctx (t : Tx) (f : Gate → Gate) : (h.modGate t f).ctx = h.ctx := rfl
@[simp] theorem Hall.modGate_xps (t : Tx) (f : Gate → Gate) : (h.modGate t f).xps = h.xps := rfl
@[simp] theorem Hall.modGate_rows (t : Tx) (f : Gate → Gate) : (h.modGate t f).rows = h.rows := rfl
@[simp] theorem Hall.modGate_claims (t : Tx) (f : Gate → Gate) : (h.modGate t f).claims = h.claims := rfl
@[simp] theorem Hall.modGate_queue (t : Tx) (f : Gate → Gate) : (h.modGate t f).queue = h.queue := rfl
@[simp] theorem Hall.modGate_arrivals (t : Tx) (f : Gate → Gate) : (h.modGate t f).arrivals = h.arrivals := rfl
@[simp] theorem Hall.modGate_reading (t : Tx) (f : Gate → Gate) : (h.modGate t f).reading = h.reading := rfl
@[simp] theorem Hall.modGate_surveyNext (t : Tx) (f : Gate → Gate) : (h.modGate t f).surveyNext = h.surveyNext := rfl
@[simp] theorem Hall.modGate_driveSent (t : Tx) (f : Gate → Gate) : (h.modGate t f).driveSent = h.driveSent := rfl
@[simp] theorem Hall.modGate_ages (t : Tx) (f : Gate → Gate) : (h.modGate t f).ages = h.ages := rfl
@[simp] theorem Hall.modGate_exercise (t : Tx) (f : Gate → Gate) : (h.modGate t f).exercise = h.exercise := rfl
@[simp] theorem Hall.modGate_sweep (t : Tx) (f : Gate → Gate) : (h.modGate t f).sweep = h.sweep := rfl
@[simp] theorem Hall.modGate_pos (t : Tx) (f : Gate → Gate) : (h.modGate t f).pos = h.pos := rfl
@[simp] theorem Hall.modGate_posPoll (t : Tx) (f : Gate → Gate) : (h.modGate t f).posPoll = h.posPoll := rfl
@[simp] theorem Hall.modGate_posCycle (t : Tx) (f : Gate → Gate) : (h.modGate t f).posCycle = h.posCycle := rfl
@[simp] theorem Hall.modGate_posSent (t : Tx) (f : Gate → Gate) : (h.modGate t f).posSent = h.posSent := rfl
@[simp] theorem Hall.modGate_links (t : Tx) (f : Gate → Gate) : (h.modGate t f).links = h.links := rfl
@[simp] theorem Hall.modGate_hallPoll (t : Tx) (f : Gate → Gate) : (h.modGate t f).hallPoll = h.hallPoll := rfl
@[simp] theorem Hall.modGate_hallCycle (t : Tx) (f : Gate → Gate) : (h.modGate t f).hallCycle = h.hallCycle := rfl
@[simp] theorem Hall.modGate_hallSent (t : Tx) (f : Gate → Gate) : (h.modGate t f).hallSent = h.hallSent := rfl
@[simp] theorem Hall.modGate_power (t : Tx) (f : Gate → Gate) : (h.modGate t f).power = h.power := rfl
@[simp] theorem Hall.modGate_txUnit (t : Tx) (f : Gate → Gate) : (h.modGate t f).txUnit = h.txUnit := rfl
@[simp] theorem Hall.modGate_antUnit (t : Tx) (f : Gate → Gate) : (h.modGate t f).antUnit = h.antUnit := rfl
@[simp] theorem Hall.modGate_runs (t : Tx) (f : Gate → Gate) : (h.modGate t f).runs = h.runs := rfl
@[simp] theorem Hall.modGate_stray (t : Tx) (f : Gate → Gate) : (h.modGate t f).stray = h.stray := rfl
@[simp] theorem Hall.modGate_flags (t : Tx) (f : Gate → Gate) : (h.modGate t f).flags = h.flags := rfl
@[simp] theorem Hall.modGate_enables (t : Tx) (f : Gate → Gate) : (h.modGate t f).enables = h.enables := rfl
@[simp] theorem Hall.modGate_routes (t : Tx) (f : Gate → Gate) : (h.modGate t f).routes = h.routes := rfl
@[simp] theorem Hall.modGate_work (t : Tx) (f : Gate → Gate) : (h.modGate t f).work = h.work := rfl

/-! `Hall.modEntry`. -/

@[simp] theorem Hall.modEntry_slots (n : Nat) (f : QEntry → QEntry) : (h.modEntry n f).slots = h.slots := rfl
@[simp] theorem Hall.modEntry_lastOutcome (n : Nat) (f : QEntry → QEntry) : (h.modEntry n f).lastOutcome = h.lastOutcome := rfl
@[simp] theorem Hall.modEntry_ctx (n : Nat) (f : QEntry → QEntry) : (h.modEntry n f).ctx = h.ctx := rfl
@[simp] theorem Hall.modEntry_xps (n : Nat) (f : QEntry → QEntry) : (h.modEntry n f).xps = h.xps := rfl
@[simp] theorem Hall.modEntry_rows (n : Nat) (f : QEntry → QEntry) : (h.modEntry n f).rows = h.rows := rfl
@[simp] theorem Hall.modEntry_claims (n : Nat) (f : QEntry → QEntry) : (h.modEntry n f).claims = h.claims := rfl
@[simp] theorem Hall.modEntry_arrivals (n : Nat) (f : QEntry → QEntry) : (h.modEntry n f).arrivals = h.arrivals := rfl
@[simp] theorem Hall.modEntry_reading (n : Nat) (f : QEntry → QEntry) : (h.modEntry n f).reading = h.reading := rfl
@[simp] theorem Hall.modEntry_surveyNext (n : Nat) (f : QEntry → QEntry) : (h.modEntry n f).surveyNext = h.surveyNext := rfl
@[simp] theorem Hall.modEntry_driveSent (n : Nat) (f : QEntry → QEntry) : (h.modEntry n f).driveSent = h.driveSent := rfl
@[simp] theorem Hall.modEntry_ages (n : Nat) (f : QEntry → QEntry) : (h.modEntry n f).ages = h.ages := rfl
@[simp] theorem Hall.modEntry_exercise (n : Nat) (f : QEntry → QEntry) : (h.modEntry n f).exercise = h.exercise := rfl
@[simp] theorem Hall.modEntry_sweep (n : Nat) (f : QEntry → QEntry) : (h.modEntry n f).sweep = h.sweep := rfl
@[simp] theorem Hall.modEntry_pos (n : Nat) (f : QEntry → QEntry) : (h.modEntry n f).pos = h.pos := rfl
@[simp] theorem Hall.modEntry_posPoll (n : Nat) (f : QEntry → QEntry) : (h.modEntry n f).posPoll = h.posPoll := rfl
@[simp] theorem Hall.modEntry_posCycle (n : Nat) (f : QEntry → QEntry) : (h.modEntry n f).posCycle = h.posCycle := rfl
@[simp] theorem Hall.modEntry_posSent (n : Nat) (f : QEntry → QEntry) : (h.modEntry n f).posSent = h.posSent := rfl
@[simp] theorem Hall.modEntry_links (n : Nat) (f : QEntry → QEntry) : (h.modEntry n f).links = h.links := rfl
@[simp] theorem Hall.modEntry_hallPoll (n : Nat) (f : QEntry → QEntry) : (h.modEntry n f).hallPoll = h.hallPoll := rfl
@[simp] theorem Hall.modEntry_hallCycle (n : Nat) (f : QEntry → QEntry) : (h.modEntry n f).hallCycle = h.hallCycle := rfl
@[simp] theorem Hall.modEntry_hallSent (n : Nat) (f : QEntry → QEntry) : (h.modEntry n f).hallSent = h.hallSent := rfl
@[simp] theorem Hall.modEntry_gates (n : Nat) (f : QEntry → QEntry) : (h.modEntry n f).gates = h.gates := rfl
@[simp] theorem Hall.modEntry_power (n : Nat) (f : QEntry → QEntry) : (h.modEntry n f).power = h.power := rfl
@[simp] theorem Hall.modEntry_txUnit (n : Nat) (f : QEntry → QEntry) : (h.modEntry n f).txUnit = h.txUnit := rfl
@[simp] theorem Hall.modEntry_antUnit (n : Nat) (f : QEntry → QEntry) : (h.modEntry n f).antUnit = h.antUnit := rfl
@[simp] theorem Hall.modEntry_runs (n : Nat) (f : QEntry → QEntry) : (h.modEntry n f).runs = h.runs := rfl
@[simp] theorem Hall.modEntry_stray (n : Nat) (f : QEntry → QEntry) : (h.modEntry n f).stray = h.stray := rfl
@[simp] theorem Hall.modEntry_flags (n : Nat) (f : QEntry → QEntry) : (h.modEntry n f).flags = h.flags := rfl
@[simp] theorem Hall.modEntry_enables (n : Nat) (f : QEntry → QEntry) : (h.modEntry n f).enables = h.enables := rfl
@[simp] theorem Hall.modEntry_routes (n : Nat) (f : QEntry → QEntry) : (h.modEntry n f).routes = h.routes := rfl
@[simp] theorem Hall.modEntry_work (n : Nat) (f : QEntry → QEntry) : (h.modEntry n f).work = h.work := rfl

/-! `Hall.dropEntry`. -/

@[simp] theorem Hall.dropEntry_slots (n : Nat) : (h.dropEntry n).slots = h.slots := rfl
@[simp] theorem Hall.dropEntry_lastOutcome (n : Nat) : (h.dropEntry n).lastOutcome = h.lastOutcome := rfl
@[simp] theorem Hall.dropEntry_ctx (n : Nat) : (h.dropEntry n).ctx = h.ctx := rfl
@[simp] theorem Hall.dropEntry_xps (n : Nat) : (h.dropEntry n).xps = h.xps := rfl
@[simp] theorem Hall.dropEntry_rows (n : Nat) : (h.dropEntry n).rows = h.rows := rfl
@[simp] theorem Hall.dropEntry_claims (n : Nat) : (h.dropEntry n).claims = h.claims := rfl
@[simp] theorem Hall.dropEntry_arrivals (n : Nat) : (h.dropEntry n).arrivals = h.arrivals := rfl
@[simp] theorem Hall.dropEntry_reading (n : Nat) : (h.dropEntry n).reading = h.reading := rfl
@[simp] theorem Hall.dropEntry_surveyNext (n : Nat) : (h.dropEntry n).surveyNext = h.surveyNext := rfl
@[simp] theorem Hall.dropEntry_driveSent (n : Nat) : (h.dropEntry n).driveSent = h.driveSent := rfl
@[simp] theorem Hall.dropEntry_ages (n : Nat) : (h.dropEntry n).ages = h.ages := rfl
@[simp] theorem Hall.dropEntry_exercise (n : Nat) : (h.dropEntry n).exercise = h.exercise := rfl
@[simp] theorem Hall.dropEntry_sweep (n : Nat) : (h.dropEntry n).sweep = h.sweep := rfl
@[simp] theorem Hall.dropEntry_pos (n : Nat) : (h.dropEntry n).pos = h.pos := rfl
@[simp] theorem Hall.dropEntry_posPoll (n : Nat) : (h.dropEntry n).posPoll = h.posPoll := rfl
@[simp] theorem Hall.dropEntry_posCycle (n : Nat) : (h.dropEntry n).posCycle = h.posCycle := rfl
@[simp] theorem Hall.dropEntry_posSent (n : Nat) : (h.dropEntry n).posSent = h.posSent := rfl
@[simp] theorem Hall.dropEntry_links (n : Nat) : (h.dropEntry n).links = h.links := rfl
@[simp] theorem Hall.dropEntry_hallPoll (n : Nat) : (h.dropEntry n).hallPoll = h.hallPoll := rfl
@[simp] theorem Hall.dropEntry_hallCycle (n : Nat) : (h.dropEntry n).hallCycle = h.hallCycle := rfl
@[simp] theorem Hall.dropEntry_hallSent (n : Nat) : (h.dropEntry n).hallSent = h.hallSent := rfl
@[simp] theorem Hall.dropEntry_gates (n : Nat) : (h.dropEntry n).gates = h.gates := rfl
@[simp] theorem Hall.dropEntry_power (n : Nat) : (h.dropEntry n).power = h.power := rfl
@[simp] theorem Hall.dropEntry_txUnit (n : Nat) : (h.dropEntry n).txUnit = h.txUnit := rfl
@[simp] theorem Hall.dropEntry_antUnit (n : Nat) : (h.dropEntry n).antUnit = h.antUnit := rfl
@[simp] theorem Hall.dropEntry_runs (n : Nat) : (h.dropEntry n).runs = h.runs := rfl
@[simp] theorem Hall.dropEntry_stray (n : Nat) : (h.dropEntry n).stray = h.stray := rfl
@[simp] theorem Hall.dropEntry_flags (n : Nat) : (h.dropEntry n).flags = h.flags := rfl
@[simp] theorem Hall.dropEntry_enables (n : Nat) : (h.dropEntry n).enables = h.enables := rfl
@[simp] theorem Hall.dropEntry_routes (n : Nat) : (h.dropEntry n).routes = h.routes := rfl
@[simp] theorem Hall.dropEntry_work (n : Nat) : (h.dropEntry n).work = h.work := rfl

/-! `Hall.modPos`. -/

@[simp] theorem Hall.modPos_slots (a : Ant) (f : PosRec → PosRec) : (h.modPos a f).slots = h.slots := rfl
@[simp] theorem Hall.modPos_lastOutcome (a : Ant) (f : PosRec → PosRec) : (h.modPos a f).lastOutcome = h.lastOutcome := rfl
@[simp] theorem Hall.modPos_ctx (a : Ant) (f : PosRec → PosRec) : (h.modPos a f).ctx = h.ctx := rfl
@[simp] theorem Hall.modPos_xps (a : Ant) (f : PosRec → PosRec) : (h.modPos a f).xps = h.xps := rfl
@[simp] theorem Hall.modPos_rows (a : Ant) (f : PosRec → PosRec) : (h.modPos a f).rows = h.rows := rfl
@[simp] theorem Hall.modPos_claims (a : Ant) (f : PosRec → PosRec) : (h.modPos a f).claims = h.claims := rfl
@[simp] theorem Hall.modPos_queue (a : Ant) (f : PosRec → PosRec) : (h.modPos a f).queue = h.queue := rfl
@[simp] theorem Hall.modPos_arrivals (a : Ant) (f : PosRec → PosRec) : (h.modPos a f).arrivals = h.arrivals := rfl
@[simp] theorem Hall.modPos_reading (a : Ant) (f : PosRec → PosRec) : (h.modPos a f).reading = h.reading := rfl
@[simp] theorem Hall.modPos_surveyNext (a : Ant) (f : PosRec → PosRec) : (h.modPos a f).surveyNext = h.surveyNext := rfl
@[simp] theorem Hall.modPos_driveSent (a : Ant) (f : PosRec → PosRec) : (h.modPos a f).driveSent = h.driveSent := rfl
@[simp] theorem Hall.modPos_ages (a : Ant) (f : PosRec → PosRec) : (h.modPos a f).ages = h.ages := rfl
@[simp] theorem Hall.modPos_exercise (a : Ant) (f : PosRec → PosRec) : (h.modPos a f).exercise = h.exercise := rfl
@[simp] theorem Hall.modPos_sweep (a : Ant) (f : PosRec → PosRec) : (h.modPos a f).sweep = h.sweep := rfl
@[simp] theorem Hall.modPos_posPoll (a : Ant) (f : PosRec → PosRec) : (h.modPos a f).posPoll = h.posPoll := rfl
@[simp] theorem Hall.modPos_posCycle (a : Ant) (f : PosRec → PosRec) : (h.modPos a f).posCycle = h.posCycle := rfl
@[simp] theorem Hall.modPos_posSent (a : Ant) (f : PosRec → PosRec) : (h.modPos a f).posSent = h.posSent := rfl
@[simp] theorem Hall.modPos_links (a : Ant) (f : PosRec → PosRec) : (h.modPos a f).links = h.links := rfl
@[simp] theorem Hall.modPos_hallPoll (a : Ant) (f : PosRec → PosRec) : (h.modPos a f).hallPoll = h.hallPoll := rfl
@[simp] theorem Hall.modPos_hallCycle (a : Ant) (f : PosRec → PosRec) : (h.modPos a f).hallCycle = h.hallCycle := rfl
@[simp] theorem Hall.modPos_hallSent (a : Ant) (f : PosRec → PosRec) : (h.modPos a f).hallSent = h.hallSent := rfl
@[simp] theorem Hall.modPos_gates (a : Ant) (f : PosRec → PosRec) : (h.modPos a f).gates = h.gates := rfl
@[simp] theorem Hall.modPos_power (a : Ant) (f : PosRec → PosRec) : (h.modPos a f).power = h.power := rfl
@[simp] theorem Hall.modPos_txUnit (a : Ant) (f : PosRec → PosRec) : (h.modPos a f).txUnit = h.txUnit := rfl
@[simp] theorem Hall.modPos_antUnit (a : Ant) (f : PosRec → PosRec) : (h.modPos a f).antUnit = h.antUnit := rfl
@[simp] theorem Hall.modPos_runs (a : Ant) (f : PosRec → PosRec) : (h.modPos a f).runs = h.runs := rfl
@[simp] theorem Hall.modPos_stray (a : Ant) (f : PosRec → PosRec) : (h.modPos a f).stray = h.stray := rfl
@[simp] theorem Hall.modPos_flags (a : Ant) (f : PosRec → PosRec) : (h.modPos a f).flags = h.flags := rfl
@[simp] theorem Hall.modPos_enables (a : Ant) (f : PosRec → PosRec) : (h.modPos a f).enables = h.enables := rfl
@[simp] theorem Hall.modPos_routes (a : Ant) (f : PosRec → PosRec) : (h.modPos a f).routes = h.routes := rfl
@[simp] theorem Hall.modPos_work (a : Ant) (f : PosRec → PosRec) : (h.modPos a f).work = h.work := rfl

/-! `Hall.modLink`. -/

@[simp] theorem Hall.modLink_slots (t : Tx) (f : Link → Link) : (h.modLink t f).slots = h.slots := rfl
@[simp] theorem Hall.modLink_lastOutcome (t : Tx) (f : Link → Link) : (h.modLink t f).lastOutcome = h.lastOutcome := rfl
@[simp] theorem Hall.modLink_ctx (t : Tx) (f : Link → Link) : (h.modLink t f).ctx = h.ctx := rfl
@[simp] theorem Hall.modLink_xps (t : Tx) (f : Link → Link) : (h.modLink t f).xps = h.xps := rfl
@[simp] theorem Hall.modLink_rows (t : Tx) (f : Link → Link) : (h.modLink t f).rows = h.rows := rfl
@[simp] theorem Hall.modLink_claims (t : Tx) (f : Link → Link) : (h.modLink t f).claims = h.claims := rfl
@[simp] theorem Hall.modLink_queue (t : Tx) (f : Link → Link) : (h.modLink t f).queue = h.queue := rfl
@[simp] theorem Hall.modLink_arrivals (t : Tx) (f : Link → Link) : (h.modLink t f).arrivals = h.arrivals := rfl
@[simp] theorem Hall.modLink_reading (t : Tx) (f : Link → Link) : (h.modLink t f).reading = h.reading := rfl
@[simp] theorem Hall.modLink_surveyNext (t : Tx) (f : Link → Link) : (h.modLink t f).surveyNext = h.surveyNext := rfl
@[simp] theorem Hall.modLink_driveSent (t : Tx) (f : Link → Link) : (h.modLink t f).driveSent = h.driveSent := rfl
@[simp] theorem Hall.modLink_ages (t : Tx) (f : Link → Link) : (h.modLink t f).ages = h.ages := rfl
@[simp] theorem Hall.modLink_exercise (t : Tx) (f : Link → Link) : (h.modLink t f).exercise = h.exercise := rfl
@[simp] theorem Hall.modLink_sweep (t : Tx) (f : Link → Link) : (h.modLink t f).sweep = h.sweep := rfl
@[simp] theorem Hall.modLink_pos (t : Tx) (f : Link → Link) : (h.modLink t f).pos = h.pos := rfl
@[simp] theorem Hall.modLink_posPoll (t : Tx) (f : Link → Link) : (h.modLink t f).posPoll = h.posPoll := rfl
@[simp] theorem Hall.modLink_posCycle (t : Tx) (f : Link → Link) : (h.modLink t f).posCycle = h.posCycle := rfl
@[simp] theorem Hall.modLink_posSent (t : Tx) (f : Link → Link) : (h.modLink t f).posSent = h.posSent := rfl
@[simp] theorem Hall.modLink_hallPoll (t : Tx) (f : Link → Link) : (h.modLink t f).hallPoll = h.hallPoll := rfl
@[simp] theorem Hall.modLink_hallCycle (t : Tx) (f : Link → Link) : (h.modLink t f).hallCycle = h.hallCycle := rfl
@[simp] theorem Hall.modLink_hallSent (t : Tx) (f : Link → Link) : (h.modLink t f).hallSent = h.hallSent := rfl
@[simp] theorem Hall.modLink_gates (t : Tx) (f : Link → Link) : (h.modLink t f).gates = h.gates := rfl
@[simp] theorem Hall.modLink_power (t : Tx) (f : Link → Link) : (h.modLink t f).power = h.power := rfl
@[simp] theorem Hall.modLink_txUnit (t : Tx) (f : Link → Link) : (h.modLink t f).txUnit = h.txUnit := rfl
@[simp] theorem Hall.modLink_antUnit (t : Tx) (f : Link → Link) : (h.modLink t f).antUnit = h.antUnit := rfl
@[simp] theorem Hall.modLink_runs (t : Tx) (f : Link → Link) : (h.modLink t f).runs = h.runs := rfl
@[simp] theorem Hall.modLink_stray (t : Tx) (f : Link → Link) : (h.modLink t f).stray = h.stray := rfl
@[simp] theorem Hall.modLink_flags (t : Tx) (f : Link → Link) : (h.modLink t f).flags = h.flags := rfl
@[simp] theorem Hall.modLink_enables (t : Tx) (f : Link → Link) : (h.modLink t f).enables = h.enables := rfl
@[simp] theorem Hall.modLink_routes (t : Tx) (f : Link → Link) : (h.modLink t f).routes = h.routes := rfl
@[simp] theorem Hall.modLink_work (t : Tx) (f : Link → Link) : (h.modLink t f).work = h.work := rfl

/-! `Hall.modPower`. -/

@[simp] theorem Hall.modPower_slots (t : Tx) (f : Power → Power) : (h.modPower t f).slots = h.slots := rfl
@[simp] theorem Hall.modPower_lastOutcome (t : Tx) (f : Power → Power) : (h.modPower t f).lastOutcome = h.lastOutcome := rfl
@[simp] theorem Hall.modPower_ctx (t : Tx) (f : Power → Power) : (h.modPower t f).ctx = h.ctx := rfl
@[simp] theorem Hall.modPower_xps (t : Tx) (f : Power → Power) : (h.modPower t f).xps = h.xps := rfl
@[simp] theorem Hall.modPower_rows (t : Tx) (f : Power → Power) : (h.modPower t f).rows = h.rows := rfl
@[simp] theorem Hall.modPower_claims (t : Tx) (f : Power → Power) : (h.modPower t f).claims = h.claims := rfl
@[simp] theorem Hall.modPower_queue (t : Tx) (f : Power → Power) : (h.modPower t f).queue = h.queue := rfl
@[simp] theorem Hall.modPower_arrivals (t : Tx) (f : Power → Power) : (h.modPower t f).arrivals = h.arrivals := rfl
@[simp] theorem Hall.modPower_reading (t : Tx) (f : Power → Power) : (h.modPower t f).reading = h.reading := rfl
@[simp] theorem Hall.modPower_surveyNext (t : Tx) (f : Power → Power) : (h.modPower t f).surveyNext = h.surveyNext := rfl
@[simp] theorem Hall.modPower_driveSent (t : Tx) (f : Power → Power) : (h.modPower t f).driveSent = h.driveSent := rfl
@[simp] theorem Hall.modPower_ages (t : Tx) (f : Power → Power) : (h.modPower t f).ages = h.ages := rfl
@[simp] theorem Hall.modPower_exercise (t : Tx) (f : Power → Power) : (h.modPower t f).exercise = h.exercise := rfl
@[simp] theorem Hall.modPower_sweep (t : Tx) (f : Power → Power) : (h.modPower t f).sweep = h.sweep := rfl
@[simp] theorem Hall.modPower_pos (t : Tx) (f : Power → Power) : (h.modPower t f).pos = h.pos := rfl
@[simp] theorem Hall.modPower_posPoll (t : Tx) (f : Power → Power) : (h.modPower t f).posPoll = h.posPoll := rfl
@[simp] theorem Hall.modPower_posCycle (t : Tx) (f : Power → Power) : (h.modPower t f).posCycle = h.posCycle := rfl
@[simp] theorem Hall.modPower_posSent (t : Tx) (f : Power → Power) : (h.modPower t f).posSent = h.posSent := rfl
@[simp] theorem Hall.modPower_links (t : Tx) (f : Power → Power) : (h.modPower t f).links = h.links := rfl
@[simp] theorem Hall.modPower_hallPoll (t : Tx) (f : Power → Power) : (h.modPower t f).hallPoll = h.hallPoll := rfl
@[simp] theorem Hall.modPower_hallCycle (t : Tx) (f : Power → Power) : (h.modPower t f).hallCycle = h.hallCycle := rfl
@[simp] theorem Hall.modPower_hallSent (t : Tx) (f : Power → Power) : (h.modPower t f).hallSent = h.hallSent := rfl
@[simp] theorem Hall.modPower_gates (t : Tx) (f : Power → Power) : (h.modPower t f).gates = h.gates := rfl
@[simp] theorem Hall.modPower_txUnit (t : Tx) (f : Power → Power) : (h.modPower t f).txUnit = h.txUnit := rfl
@[simp] theorem Hall.modPower_antUnit (t : Tx) (f : Power → Power) : (h.modPower t f).antUnit = h.antUnit := rfl
@[simp] theorem Hall.modPower_runs (t : Tx) (f : Power → Power) : (h.modPower t f).runs = h.runs := rfl
@[simp] theorem Hall.modPower_stray (t : Tx) (f : Power → Power) : (h.modPower t f).stray = h.stray := rfl
@[simp] theorem Hall.modPower_flags (t : Tx) (f : Power → Power) : (h.modPower t f).flags = h.flags := rfl
@[simp] theorem Hall.modPower_enables (t : Tx) (f : Power → Power) : (h.modPower t f).enables = h.enables := rfl
@[simp] theorem Hall.modPower_routes (t : Tx) (f : Power → Power) : (h.modPower t f).routes = h.routes := rfl
@[simp] theorem Hall.modPower_work (t : Tx) (f : Power → Power) : (h.modPower t f).work = h.work := rfl

/-! `raiseNotice`. -/

@[simp] theorem raiseNotice_slots (n : Notice) : (raiseNotice n h).slots = h.slots := rfl
@[simp] theorem raiseNotice_lastOutcome (n : Notice) : (raiseNotice n h).lastOutcome = h.lastOutcome := rfl
@[simp] theorem raiseNotice_ctx (n : Notice) : (raiseNotice n h).ctx = h.ctx := rfl
@[simp] theorem raiseNotice_xps (n : Notice) : (raiseNotice n h).xps = h.xps := rfl
@[simp] theorem raiseNotice_rows (n : Notice) : (raiseNotice n h).rows = h.rows := rfl
@[simp] theorem raiseNotice_claims (n : Notice) : (raiseNotice n h).claims = h.claims := rfl
@[simp] theorem raiseNotice_queue (n : Notice) : (raiseNotice n h).queue = h.queue := rfl
@[simp] theorem raiseNotice_arrivals (n : Notice) : (raiseNotice n h).arrivals = h.arrivals := rfl
@[simp] theorem raiseNotice_reading (n : Notice) : (raiseNotice n h).reading = h.reading := rfl
@[simp] theorem raiseNotice_surveyNext (n : Notice) : (raiseNotice n h).surveyNext = h.surveyNext := rfl
@[simp] theorem raiseNotice_driveSent (n : Notice) : (raiseNotice n h).driveSent = h.driveSent := rfl
@[simp] theorem raiseNotice_ages (n : Notice) : (raiseNotice n h).ages = h.ages := rfl
@[simp] theorem raiseNotice_exercise (n : Notice) : (raiseNotice n h).exercise = h.exercise := rfl
@[simp] theorem raiseNotice_sweep (n : Notice) : (raiseNotice n h).sweep = h.sweep := rfl
@[simp] theorem raiseNotice_pos (n : Notice) : (raiseNotice n h).pos = h.pos := rfl
@[simp] theorem raiseNotice_posPoll (n : Notice) : (raiseNotice n h).posPoll = h.posPoll := rfl
@[simp] theorem raiseNotice_posCycle (n : Notice) : (raiseNotice n h).posCycle = h.posCycle := rfl
@[simp] theorem raiseNotice_posSent (n : Notice) : (raiseNotice n h).posSent = h.posSent := rfl
@[simp] theorem raiseNotice_links (n : Notice) : (raiseNotice n h).links = h.links := rfl
@[simp] theorem raiseNotice_hallPoll (n : Notice) : (raiseNotice n h).hallPoll = h.hallPoll := rfl
@[simp] theorem raiseNotice_hallCycle (n : Notice) : (raiseNotice n h).hallCycle = h.hallCycle := rfl
@[simp] theorem raiseNotice_hallSent (n : Notice) : (raiseNotice n h).hallSent = h.hallSent := rfl
@[simp] theorem raiseNotice_gates (n : Notice) : (raiseNotice n h).gates = h.gates := rfl
@[simp] theorem raiseNotice_power (n : Notice) : (raiseNotice n h).power = h.power := rfl
@[simp] theorem raiseNotice_txUnit (n : Notice) : (raiseNotice n h).txUnit = h.txUnit := rfl
@[simp] theorem raiseNotice_antUnit (n : Notice) : (raiseNotice n h).antUnit = h.antUnit := rfl
@[simp] theorem raiseNotice_runs (n : Notice) : (raiseNotice n h).runs = h.runs := rfl
@[simp] theorem raiseNotice_stray (n : Notice) : (raiseNotice n h).stray = h.stray := rfl
@[simp] theorem raiseNotice_enables (n : Notice) : (raiseNotice n h).enables = h.enables := rfl
@[simp] theorem raiseNotice_routes (n : Notice) : (raiseNotice n h).routes = h.routes := rfl
@[simp] theorem raiseNotice_work (n : Notice) : (raiseNotice n h).work = h.work := rfl

/-! What an update writes. -/

@[simp] theorem Hall.modCtx_get (t u : Tx) (f : Context → Context) :
    (h.modCtx t f).ctx.get u = if t = u then f (h.ctx.get u) else h.ctx.get u := Tab.get_modify _ _ _ _
@[simp] theorem Hall.setCtx_get (t u : Tx) (c : Context) :
    (h.setCtx t c).ctx.get u = if t = u then c else h.ctx.get u := Tab.get_set _ _ _ _
@[simp] theorem Hall.setClaim_get (t u : Tx) (c : Option Claim) :
    (h.setClaim t c).claims.get u = if t = u then c else h.claims.get u := Tab.get_set _ _ _ _
@[simp] theorem Hall.modGate_get (t u : Tx) (f : Gate → Gate) :
    (h.modGate t f).gates.get u = if t = u then f (h.gates.get u) else h.gates.get u := Tab.get_modify _ _ _ _
@[simp] theorem Hall.modPos_get (a b : Ant) (f : PosRec → PosRec) :
    (h.modPos a f).pos.get b = if a = b then f (h.pos.get b) else h.pos.get b := Tab.get_modify _ _ _ _
@[simp] theorem Hall.modLink_get (t u : Tx) (f : Link → Link) :
    (h.modLink t f).links.get u = if t = u then f (h.links.get u) else h.links.get u := Tab.get_modify _ _ _ _
@[simp] theorem Hall.modPower_get (t u : Tx) (f : Power → Power) :
    (h.modPower t f).power.get u = if t = u then f (h.power.get u) else h.power.get u := Tab.get_modify _ _ _ _
/-- A crosspoint after another, or it itself, has been changed. -/
@[simp] theorem Hall.modXp_xp (x y : Xp) (f : XpRec → XpRec) :
    (h.modXp x f).xp y = if x = y then f (h.xp y) else h.xp y := by
  obtain ⟨t, r⟩ := x
  obtain ⟨u, q⟩ := y
  unfold Hall.modXp Hall.xp
  dsimp only
  by_cases hr : r = q
  · subst hr
    rw [Tab.get_modify_same]
    by_cases ht : t = u
    · subst ht; simp
    · simp [ht]
  · rw [Tab.get_modify_ne _ _ hr]; simp [hr]
@[simp] theorem raiseNotice_flags (n : Notice) : (raiseNotice n h).flags = h.flags ||| n.mask := rfl
@[simp] theorem Hall.report_work (m : Msg) : (h.report m).work = h.work ++ [m] := rfl

/-! Time passes. -/

@[simp] theorem passTime_minuteBegan (ms : Nat) : (passTime ms e).minuteBegan = e.minuteBegan := rfl
@[simp] theorem passTime_banks (ms : Nat) : (passTime ms e).banks = e.banks := rfl
@[simp] theorem passTime_mode (ms : Nat) : (passTime ms e).mode = e.mode := rfl
@[simp] theorem passTime_pins (ms : Nat) : (passTime ms e).pins = e.pins := rfl
@[simp] theorem passTime_tables (ms : Nat) : (passTime ms e).tables = e.tables := rfl
@[simp] theorem passTime_due (ms : Nat) : (passTime ms e).due = e.due := rfl
@[simp] theorem passTo_minuteBegan (i : Nat) : (passTo i e).minuteBegan = e.minuteBegan := rfl
@[simp] theorem passTo_banks (i : Nat) : (passTo i e).banks = e.banks := rfl
@[simp] theorem passTo_mode (i : Nat) : (passTo i e).mode = e.mode := rfl
@[simp] theorem passTo_pins (i : Nat) : (passTo i e).pins = e.pins := rfl
@[simp] theorem passTo_tables (i : Nat) : (passTo i e).tables = e.tables := rfl
@[simp] theorem passTo_due (i : Nat) : (passTo i e).due = e.due := rfl
@[simp] theorem passTime_now (ms : Nat) : (passTime ms e).now = e.now := rfl
@[simp] theorem passTo_now (i : Nat) : (passTo i e).now = e.now := rfl

/-! Updates of the state. -/

@[simp] theorem State.passTo_port (i : Nat) : (s.passTo i).port = s.port := rfl
@[simp] theorem State.passTo_hall (i : Nat) : (s.passTo i).hall = s.hall := rfl
@[simp] theorem State.passTo_pending (i : Nat) : (s.passTo i).pending = s.pending := rfl
@[simp] theorem State.passTo_env_minuteBegan (i : Nat) : (s.passTo i).env.minuteBegan = s.env.minuteBegan := rfl
@[simp] theorem State.passTo_env_banks (i : Nat) : (s.passTo i).env.banks = s.env.banks := rfl
@[simp] theorem State.passTo_env_mode (i : Nat) : (s.passTo i).env.mode = s.env.mode := rfl
@[simp] theorem State.passTo_env_pins (i : Nat) : (s.passTo i).env.pins = s.env.pins := rfl
@[simp] theorem State.passTo_env_tables (i : Nat) : (s.passTo i).env.tables = s.env.tables := rfl
@[simp] theorem State.passTo_env_due (i : Nat) : (s.passTo i).env.due = s.env.due := rfl
@[simp] theorem State.modClock_port (f : Clock → Clock) : (s.modClock f).port = s.port := rfl
@[simp] theorem State.modClock_hall (f : Clock → Clock) : (s.modClock f).hall = s.hall := rfl
@[simp] theorem State.modClock_pending (f : Clock → Clock) : (s.modClock f).pending = s.pending := rfl
@[simp] theorem State.modClock_env_elapsed (f : Clock → Clock) : (s.modClock f).env.elapsed = s.env.elapsed := rfl
@[simp] theorem State.modClock_env_minuteBegan (f : Clock → Clock) : (s.modClock f).env.minuteBegan = s.env.minuteBegan := rfl
@[simp] theorem State.modClock_env_banks (f : Clock → Clock) : (s.modClock f).env.banks = s.env.banks := rfl
@[simp] theorem State.modClock_env_mode (f : Clock → Clock) : (s.modClock f).env.mode = s.env.mode := rfl
@[simp] theorem State.modClock_env_pins (f : Clock → Clock) : (s.modClock f).env.pins = s.env.pins := rfl
@[simp] theorem State.modClock_env_tables (f : Clock → Clock) : (s.modClock f).env.tables = s.env.tables := rfl
@[simp] theorem State.modClock_env_due (f : Clock → Clock) : (s.modClock f).env.due = s.env.due := rfl
@[simp] theorem State.modBanks_port (f : Banks → Banks) : (s.modBanks f).port = s.port := rfl
@[simp] theorem State.modBanks_hall (f : Banks → Banks) : (s.modBanks f).hall = s.hall := rfl
@[simp] theorem State.modBanks_pending (f : Banks → Banks) : (s.modBanks f).pending = s.pending := rfl
@[simp] theorem State.modBanks_env_clock (f : Banks → Banks) : (s.modBanks f).env.clock = s.env.clock := rfl
@[simp] theorem State.modBanks_env_elapsed (f : Banks → Banks) : (s.modBanks f).env.elapsed = s.env.elapsed := rfl
@[simp] theorem State.modBanks_env_minuteBegan (f : Banks → Banks) : (s.modBanks f).env.minuteBegan = s.env.minuteBegan := rfl
@[simp] theorem State.modBanks_env_mode (f : Banks → Banks) : (s.modBanks f).env.mode = s.env.mode := rfl
@[simp] theorem State.modBanks_env_pins (f : Banks → Banks) : (s.modBanks f).env.pins = s.env.pins := rfl
@[simp] theorem State.modBanks_env_tables (f : Banks → Banks) : (s.modBanks f).env.tables = s.env.tables := rfl
@[simp] theorem State.modBanks_env_due (f : Banks → Banks) : (s.modBanks f).env.due = s.env.due := rfl
@[simp] theorem State.modPins_port (f : Pins → Pins) : (s.modPins f).port = s.port := rfl
@[simp] theorem State.modPins_hall (f : Pins → Pins) : (s.modPins f).hall = s.hall := rfl
@[simp] theorem State.modPins_pending (f : Pins → Pins) : (s.modPins f).pending = s.pending := rfl
@[simp] theorem State.modPins_env_clock (f : Pins → Pins) : (s.modPins f).env.clock = s.env.clock := rfl
@[simp] theorem State.modPins_env_elapsed (f : Pins → Pins) : (s.modPins f).env.elapsed = s.env.elapsed := rfl
@[simp] theorem State.modPins_env_minuteBegan (f : Pins → Pins) : (s.modPins f).env.minuteBegan = s.env.minuteBegan := rfl
@[simp] theorem State.modPins_env_banks (f : Pins → Pins) : (s.modPins f).env.banks = s.env.banks := rfl
@[simp] theorem State.modPins_env_mode (f : Pins → Pins) : (s.modPins f).env.mode = s.env.mode := rfl
@[simp] theorem State.modPins_env_tables (f : Pins → Pins) : (s.modPins f).env.tables = s.env.tables := rfl
@[simp] theorem State.modPins_env_due (f : Pins → Pins) : (s.modPins f).env.due = s.env.due := rfl
@[simp] theorem State.inMode_port (m : Mode) : (s.inMode m).port = s.port := rfl
@[simp] theorem State.inMode_hall (m : Mode) : (s.inMode m).hall = s.hall := rfl
@[simp] theorem State.inMode_pending (m : Mode) : (s.inMode m).pending = s.pending := rfl
@[simp] theorem State.inMode_env_clock (m : Mode) : (s.inMode m).env.clock = s.env.clock := rfl
@[simp] theorem State.inMode_env_elapsed (m : Mode) : (s.inMode m).env.elapsed = s.env.elapsed := rfl
@[simp] theorem State.inMode_env_minuteBegan (m : Mode) : (s.inMode m).env.minuteBegan = s.env.minuteBegan := rfl
@[simp] theorem State.inMode_env_banks (m : Mode) : (s.inMode m).env.banks = s.env.banks := rfl
@[simp] theorem State.inMode_env_pins (m : Mode) : (s.inMode m).env.pins = s.env.pins := rfl
@[simp] theorem State.inMode_env_tables (m : Mode) : (s.inMode m).env.tables = s.env.tables := rfl
@[simp] theorem State.inMode_env_due (m : Mode) : (s.inMode m).env.due = s.env.due := rfl
@[simp] theorem State.modClock_env_clock (f : Clock → Clock) : (s.modClock f).env.clock = f s.env.clock := rfl
@[simp] theorem State.modBanks_env_banks (f : Banks → Banks) : (s.modBanks f).env.banks = f s.env.banks := rfl
@[simp] theorem State.modPins_env_pins (f : Pins → Pins) : (s.modPins f).env.pins = f s.env.pins := rfl
@[simp] theorem State.inMode_env_mode (m : Mode) : (s.inMode m).env.mode = m := rfl

/-! The port. -/

variable (p : Port) (r : Option Reply)

@[simp] theorem Port.fill_buffer : (p.fill r).buffer = r := rfl
@[simp] theorem Port.fill_selected : (p.fill r).selected = false := rfl
@[simp] theorem Port.fill_shifting : (p.fill r).shifting = none := rfl
@[simp] theorem Port.fill_discard : (p.fill r).discard = p.discard := rfl

end Sys2Proof.Machine
end

