-- ==== Sys2Proof/Laws/Stays.lean ====
section
/-! SUPPORT. What the operations that a settling is made of can do, said once: each keeps every property of the hall
that its few elementary changes keep (`Stable`). One lemma per shared operation, from queueing a switch move to
`settle` and `conclude`. -/

namespace Sys2Proof.Machine

/-- The parts of a link record that no settling changes. -/
def SameLink (l l' : Link) : Prop := l'.telemetry = l.telemetry ∧ l'.missed = l.missed ∧ l'.state = l.state

/-- The parts of a positioner record that no settling changes. -/
def SamePos (p p' : PosRec) : Prop :=
  p'.state = p.state ∧ p'.azimuth = p.azimuth ∧ p'.tilt = p.tilt ∧ p'.missed = p.missed ∧
  p'.stopOutstanding = p.stopOutstanding

/-- What a change that is none of the others named in `Stable` leaves as it was; a STRAY latch is set only on a row whose
RF is sensed. -/
structure SameCore (e : Env) (h h' : Hall) : Prop where
  base : h'.base = h.base
  flags : h'.flags = h.flags
  slots : h'.slots = h.slots
  lastOutcome : h'.lastOutcome = h.lastOutcome
  ctx : h'.ctx = h.ctx
  link : ∀ t, SameLink (h.links.get t) (h'.links.get t)
  pos : ∀ a, SamePos (h.pos.get a) (h'.pos.get a)
  stuck : ∀ x, (h'.xp x).stuck = (h.xp x).stuck
  place : ∀ x, (h'.xp x).pos = (h.xp x).pos
  stray : ∀ r, h'.stray.get r = h.stray.get r ∨ (e.pins.rf.get r = true ∧ h'.stray.get r = true)

/-- A change of none of the parts that `SameCore` names. -/
theorem SameCore.plain {e : Env} {h h' : Hall} (base : h'.base = h.base) (flags : h'.flags = h.flags)
    (slots : h'.slots = h.slots) (lastOutcome : h'.lastOutcome = h.lastOutcome) (ctx : h'.ctx = h.ctx)
    (links : h'.links = h.links) (pos : h'.pos = h.pos) (xps : h'.xps = h.xps) (stray : h'.stray = h.stray) :
    SameCore e h h' :=
  ⟨base, flags, slots, lastOutcome, ctx, fun _ => by rw [links]; exact ⟨rfl, rfl, rfl⟩,
    fun _ => by rw [pos]; exact ⟨rfl, rfl, rfl, rfl, rfl⟩, fun _ => by unfold Hall.xp; rw [xps],
    fun _ => by unfold Hall.xp; rw [xps], fun _ => by rw [stray]; exact .inl rfl⟩

/-- A context is replaced by one that holds and keeps no occurrence but those it held and kept. -/
def TameAt (c c' : Context) : Prop :=
  (∀ o ∈ c'.occ, ∃ o' ∈ c.occ, o.handle = o'.handle) ∧ (∀ k ∈ c'.kept, k ∈ c.kept)

/-- A record is involved: a context holds or keeps an occurrence of it. -/
def Involved (h : Hall) (k : Handle) : Prop :=
  ∃ t : Tx, (∃ o ∈ (h.ctx.get t).occ, o.handle = k) ∨ (∃ x ∈ (h.ctx.get t).kept, x.handle = k)

/-- An entry that may be sent (R110, R112, R113): it is queued and eligible, the drive link is free, and the RF sense of its
row is clear. -/
structure Sendable (e : Env) (h : Hall) (n : QEntry) : Prop where
  queued : n ∈ h.queue
  eligible : eligible e h n = true
  free : driveFree e h = true
  clear : e.pins.rf.get n.xp.row = false

/-- A property that the elementary changes of a settling keep: a context's change, the record of an occurrence that a
context holds, the finish of one, a raised notice, a move that is sent, and whatever touches none of these; beside them
LOCAL, which makes every position UNKNOWN. -/
structure Stable (e : Env) (P : Hall → Prop) : Prop where
  ctx : ∀ h t c', TameAt (h.ctx.get t) c' → P h → P (h.setCtx t c')
  record : ∀ h k f, Involved h k → P h → P (h.modRecord k f)
  finish : ∀ h t k o, Involved h k → P h → P (finishRecord e t k o h)
  notice : ∀ h n, P h → P (raiseNotice n h)
  send : ∀ h n, Sendable e h n → P h → P (sendMove e n h)
  forget : ∀ h, P h → P (forgetPositions h)
  rest : ∀ h h', SameCore e h h' → P h → P h'

/-- A stable property holds of a hall. -/
structure Stays (e : Env) (P : Hall → Prop) (h : Hall) : Prop where
  stable : Stable e P
  holds : P h

variable {e : Env} {P : Hall → Prop} {h : Hall}

theorem Stays.same {h' : Hall} (w : Stays e P h) (c : SameCore e h h') : Stays e P h' :=
  ⟨w.stable, w.stable.rest _ _ c w.holds⟩

theorem foldl_stays {β : Type} (f : Hall → β → Hall) (l : List β) (w : Stays e P h)
    (hf : ∀ h b, Stays e P h → Stays e P (f h b)) : Stays e P (l.foldl f h) := by
  induction l generalizing h with
  | nil => exact w
  | cons b l ih => exact ih (hf h b w)

@[simp] theorem ite_stays {c : Prop} [Decidable c] {x y : Hall} (wx : Stays e P x) (wy : Stays e P y) :
    Stays e P (if c then x else y) := by
  split <;> assumption

/-! The elementary changes. -/

@[simp] theorem raiseNotice_stays (n : Notice) (w : Stays e P h) : Stays e P (raiseNotice n h) :=
  ⟨w.stable, w.stable.notice _ _ w.holds⟩

theorem setCtx_stays {t : Tx} {c : Context} (ht : TameAt (h.ctx.get t) c) (w : Stays e P h) :
    Stays e P (h.setCtx t c) := ⟨w.stable, w.stable.ctx _ _ _ ht w.holds⟩

/-- A context changed in anything but what it holds and keeps. -/
theorem modCtx_stays {t : Tx} {f : Context → Context} (hf : ∀ c, (f c).held = c.held ∧ (f c).kept = c.kept)
    (w : Stays e P h) : Stays e P (h.modCtx t f) := by
  refine setCtx_stays (t := t) (c := f (h.ctx.get t)) ?_ w
  have := hf (h.ctx.get t)
  constructor
  · intro o ho
    refine ⟨o, ?_, rfl⟩
    rwa [Context.occ, this.1] at ho
  · intro k hk
    rwa [this.2] at hk

theorem idle_stays (t : Tx) (w : Stays e P h) : Stays e P (h.setCtx t Context.idle) := by
  refine setCtx_stays ⟨?_, ?_⟩ w <;> intro x hx <;> simp [Context.idle, Context.occ] at hx

theorem finishRecord_stays {t : Tx} {k : Handle} {o : LastOutcome} (hk : Involved h k) (w : Stays e P h) :
    Stays e P (finishRecord e t k o h) := ⟨w.stable, w.stable.finish _ _ _ _ hk w.holds⟩

theorem modRecord_stays {k : Handle} {f : Record → Record} (hk : Involved h k) (w : Stays e P h) :
    Stays e P (h.modRecord k f) := ⟨w.stable, w.stable.record _ _ _ hk w.holds⟩

@[simp] theorem setClaim_stays (t c) (w : Stays e P h) : Stays e P (h.setClaim t c) :=
  w.same (.plain rfl rfl rfl rfl rfl rfl rfl rfl rfl)
@[simp] theorem setRes_stays (r x) (w : Stays e P h) : Stays e P (h.setRes r x) := w.same (.plain rfl rfl rfl rfl rfl rfl rfl rfl rfl)
@[simp] theorem setWaiting_stays (r l) (w : Stays e P h) : Stays e P (h.setWaiting r l) :=
  w.same (.plain rfl rfl rfl rfl rfl rfl rfl rfl rfl)
@[simp] theorem report_stays (m) (w : Stays e P h) : Stays e P (h.report m) := w.same (.plain rfl rfl rfl rfl rfl rfl rfl rfl rfl)
theorem modXp_stays {x : Xp} {f : XpRec → XpRec} (hf : ∀ w, (f w).stuck = w.stuck ∧ (f w).pos = w.pos)
    (w : Stays e P h) : Stays e P (h.modXp x f) :=
  w.same ⟨rfl, rfl, rfl, rfl, rfl, fun _ => ⟨rfl, rfl, rfl⟩, fun _ => ⟨rfl, rfl, rfl, rfl, rfl⟩,
    fun y => by rw [Hall.modXp_xp]; split <;> simp [hf], fun y => by rw [Hall.modXp_xp]; split <;> simp [hf],
    fun _ => .inl rfl⟩
@[simp] theorem setLast_stays (x r) (w : Stays e P h) : Stays e P (h.setLast x r) :=
  modXp_stays (fun _ => ⟨rfl, rfl⟩) w
@[simp] theorem modEntry_stays (n f) (w : Stays e P h) : Stays e P (h.modEntry n f) := w.same (.plain rfl rfl rfl rfl rfl rfl rfl rfl rfl)
@[simp] theorem dropEntry_stays (n) (w : Stays e P h) : Stays e P (h.dropEntry n) := w.same (.plain rfl rfl rfl rfl rfl rfl rfl rfl rfl)
@[simp] theorem modGate_stays (t f) (w : Stays e P h) : Stays e P (h.modGate t f) := w.same (.plain rfl rfl rfl rfl rfl rfl rfl rfl rfl)
theorem modPos_stays {a : Ant} {f : PosRec → PosRec} (hf : ∀ p, SamePos p (f p)) (w : Stays e P h) :
    Stays e P (h.modPos a f) :=
  w.same ⟨rfl, rfl, rfl, rfl, rfl, fun _ => ⟨rfl, rfl, rfl⟩,
    fun b => by rw [Hall.modPos_get]; split; exacts [hf _, ⟨rfl, rfl, rfl, rfl, rfl⟩], fun _ => rfl, fun _ => rfl,
    fun _ => .inl rfl⟩
theorem modLink_stays {t : Tx} {f : Link → Link} (hf : ∀ l, SameLink l (f l)) (w : Stays e P h) :
    Stays e P (h.modLink t f) :=
  w.same ⟨rfl, rfl, rfl, rfl, rfl, fun u => by rw [Hall.modLink_get]; split; exacts [hf _, ⟨rfl, rfl, rfl⟩],
    fun _ => ⟨rfl, rfl, rfl, rfl, rfl⟩, fun _ => rfl, fun _ => rfl, fun _ => .inl rfl⟩
@[simp] theorem modPower_stays (t f) (w : Stays e P h) : Stays e P (h.modPower t f) := w.same (.plain rfl rfl rfl rfl rfl rfl rfl rfl rfl)
@[simp] theorem joinQueue_stays (x d q) (w : Stays e P h) : Stays e P (joinQueue x d q h) :=
  w.same (.plain rfl rfl rfl rfl rfl rfl rfl rfl rfl)

/-! Power and PRESETs. -/

@[simp] theorem handPreset_stays (t p) (w : Stays e P h) : Stays e P (handPreset t p h) :=
  modLink_stays (fun _ => ⟨rfl, rfl, rfl⟩) w
@[simp] theorem withdrawPreset_stays (t) (w : Stays e P h) : Stays e P (withdrawPreset t h) :=
  modLink_stays (fun _ => ⟨rfl, rfl, rfl⟩) w
@[simp] theorem newAntennaFoldback_stays (t) (w : Stays e P h) : Stays e P (newAntennaFoldback t h) := by
  simp (maxDischargeDepth := 12) [newAntennaFoldback, w]
@[simp] theorem ceiling_stays (t) (w : Stays e P h) : Stays e P (ceiling e t h) := by
  unfold ceiling; dsimp only; (repeat' split) <;> simp (maxDischargeDepth := 12) [w]

/-! The permit gate. -/

@[simp] theorem dropPermit_stays (t) (w : Stays e P h) : Stays e P (dropPermit e t h) := by simp (maxDischargeDepth := 12) [dropPermit, w]
@[simp] theorem requestPermit_stays (t) (w : Stays e P h) : Stays e P (requestPermit t h) := by
  simp (maxDischargeDepth := 12) [requestPermit, w]
@[simp] theorem lowerLine_stays (t) (w : Stays e P h) : Stays e P (lowerLine e t h) := by simp (maxDischargeDepth := 12) [lowerLine, w]
@[simp] theorem raiseLine_stays (t) (w : Stays e P h) : Stays e P (raiseLine t h) := by simp (maxDischargeDepth := 12) [raiseLine, w]
@[simp] theorem lowerAll_stays (w : Stays e P h) : Stays e P (lowerAll e h) := w.same (.plain rfl rfl rfl rfl rfl rfl rfl rfl rfl)
@[simp] theorem lowerFailed_stays (w : Stays e P h) : Stays e P (lowerFailed e h) := w.same (.plain rfl rfl rfl rfl rfl rfl rfl rfl rfl)

/-! The work queue, rows and claims. -/

@[simp] theorem queueOp_stays (x d q) (w : Stays e P h) : Stays e P (queueOp x d q h) := by
  unfold queueOp; (repeat' split) <;> simp (maxDischargeDepth := 12) [w]
@[simp] theorem reportRow_stays (r) (w : Stays e P h) : Stays e P (reportRow r h) := by simp (maxDischargeDepth := 12) [reportRow, w]
@[simp] theorem settleRow_stays (r) (w : Stays e P h) : Stays e P (settleRow r h) := by simp (maxDischargeDepth := 12) [settleRow, w]
@[simp] theorem withdrawEntry_stays (t n) (w : Stays e P h) : Stays e P (withdrawEntry e t h n) := by
  unfold withdrawEntry; dsimp only; (repeat' split) <;> simp (maxDischargeDepth := 12) [w]
@[simp] theorem withdrawOps_stays (t) (w : Stays e P h) : Stays e P (withdrawOps e t h) :=
  foldl_stays _ _ (foldl_stays _ _ w fun _ _ w => withdrawEntry_stays _ _ w) fun _ _ w => settleRow_stays _ w
@[simp] theorem withdrawClaim_stays (t) (w : Stays e P h) : Stays e P (withdrawClaim e t h) := by
  unfold withdrawClaim; dsimp only; split
  · simp (maxDischargeDepth := 12) [w]
  · refine foldl_stays _ _ (settleRow_stays _ (modCtx_stays (fun _ => ⟨rfl, rfl⟩) ?_)) fun _ _ w => settleRow_stays _ w
    simp (maxDischargeDepth := 12) [w]
@[simp] theorem park_stays (t) (w : Stays e P h) : Stays e P (park t h) := by
  unfold park; split <;> simp (maxDischargeDepth := 12) [w]
@[simp] theorem failClaim_stays (t) (w : Stays e P h) : Stays e P (failClaim e t h) := by simp (maxDischargeDepth := 12) [failClaim, w]

/-! The exercise. -/

@[simp] theorem beginExercise_stays (o x) (w : Stays e P h) : Stays e P (beginExercise o x h) :=
  queueOp_stays _ _ _ (w.same (.plain rfl rfl rfl rfl rfl rfl rfl rfl rfl))
@[simp] theorem endSweep_stays (r) (w : Stays e P h) : Stays e P (endSweep r h) :=
  raiseNotice_stays _ (w.same (.plain rfl rfl rfl rfl rfl rfl rfl rfl rfl))
@[simp] theorem sweepReach_stays (w : Stays e P h) : Stays e P (sweepReach e h) := by
  unfold sweepReach; (repeat' split)
  · simp (maxDischargeDepth := 12) [w]
  · exact beginExercise_stays _ _ (w.same (.plain rfl rfl rfl rfl rfl rfl rfl rfl rfl))
  · exact endSweep_stays _ (w.same (.plain rfl rfl rfl rfl rfl rfl rfl rfl rfl))
@[simp] theorem writeExercise_stays (r) (w : Stays e P h) : Stays e P (writeExercise r h) :=
  w.same (.plain rfl rfl rfl rfl rfl rfl rfl rfl rfl)
@[simp] theorem endExercise_stays (r) (w : Stays e P h) : Stays e P (endExercise e r h) := by
  have w' : Stays e P { writeExercise r h with sweep := (writeExercise r h).sweep.count r } :=
    (writeExercise_stays r w).same (.plain rfl rfl rfl rfl rfl rfl rfl rfl rfl)
  unfold endExercise; dsimp only; (repeat' split)
  · simp (maxDischargeDepth := 12) [w]
  · exact sweepReach_stays w'
  · exact endSweep_stays _ w'
  · exact w'
@[simp] theorem releaseExerciseRow_stays (w : Stays e P h) : Stays e P (releaseExerciseRow h) := by
  simp (maxDischargeDepth := 12) [releaseExerciseRow, w]
@[simp] theorem exerciseFailed_stays (r) (w : Stays e P h) : Stays e P (exerciseFailed e r h) :=
  endExercise_stays _ (releaseExerciseRow_stays w)
@[simp] theorem yieldOp_stays (q) (w : Stays e P h) : Stays e P (yieldOp q h) := by
  unfold yieldOp; dsimp only; (repeat' split) <;> simp (maxDischargeDepth := 12) [w]
@[simp] theorem yieldRow_stays (q) (w : Stays e P h) : Stays e P (yieldRow q h) := by simp (maxDischargeDepth := 12) [yieldRow, w]

/-! Claims. -/

@[simp] theorem tellGranted_stays (t) (w : Stays e P h) : Stays e P (tellGranted t h) := by
  refine modCtx_stays (fun _ => ⟨rfl, rfl⟩) ?_
  split <;> simp (maxDischargeDepth := 12) [w]
@[simp] theorem tellConnected_stays (t) (w : Stays e P h) : Stays e P (tellConnected t h) := by
  refine modCtx_stays (fun _ => ⟨rfl, rfl⟩) ?_
  split <;> simp (maxDischargeDepth := 12) [w]
@[simp] theorem tellWaiting_stays (t) (w : Stays e P h) : Stays e P (tellWaiting t h) :=
  modCtx_stays (fun _ => ⟨rfl, rfl⟩) w
@[simp] theorem releaseFormers_stays (q row) (w : Stays e P h) : Stays e P (releaseFormers q row h) := by
  refine foldl_stays _ _ ?_ fun _ _ w => by simp (maxDischargeDepth := 12) [w]
  split <;> simp (maxDischargeDepth := 12) [w]
@[simp] theorem grant_stays (q row) (w : Stays e P h) : Stays e P (grant q row h) := by simp (maxDischargeDepth := 12) [grant, w]
@[simp] theorem connect_stays (q row) (w : Stays e P h) : Stays e P (connect q row h) := by simp (maxDischargeDepth := 12) [connect, w]
@[simp] theorem inheritOpens_stays (q row) (w : Stays e P h) : Stays e P (inheritOpens q row h) :=
  w.same (.plain rfl rfl rfl rfl rfl rfl rfl rfl rfl)
@[simp] theorem takeReleasing_stays (q row) (w : Stays e P h) : Stays e P (takeReleasing q row h) := by
  unfold takeReleasing; (repeat' split) <;> simp (maxDischargeDepth := 12) [w]
@[simp] theorem joinWaiting_stays (q row) (w : Stays e P h) : Stays e P (joinWaiting q row h) := by
  simp (maxDischargeDepth := 12) [joinWaiting, w]
@[simp] theorem proceed_stays (q row) (w : Stays e P h) : Stays e P (proceed q row h) := by
  unfold proceed; dsimp only; (repeat' split) <;> simp (maxDischargeDepth := 12) [w]
@[simp] theorem handRowOn_stays (r) (w : Stays e P h) : Stays e P (handRowOn r h) := by
  unfold handRowOn; (repeat' split) <;> simp (maxDischargeDepth := 12) [w]
@[simp] theorem handRowsOn_stays (later n) (w : Stays e P h) : Stays e P (handRowsOn later n h) := by
  induction n generalizing h with
  | zero => exact w
  | succ n ih =>
    unfold handRowsOn; split
    · exact ih (handRowOn_stays _ (w.same (.plain rfl rfl rfl rfl rfl rfl rfl rfl rfl)))
    · exact w
@[simp] theorem claim_stays (q row) (w : Stays e P h) : Stays e P (claim e q row h) := by
  unfold claim; dsimp only; (repeat' split) <;> simp (maxDischargeDepth := 12) [w]
@[simp] theorem flushDeferred_stays (t) (w : Stays e P h) : Stays e P (flushDeferred t h) := by
  unfold flushDeferred; split
  · exact w
  · exact foldl_stays _ _ (by simp (maxDischargeDepth := 12) [w]) fun _ _ w => by simp (maxDischargeDepth := 12) [w]

/-! Failing entries, the pick, the survey's reads. -/

@[simp] theorem failRequester_stays (r q) (w : Stays e P h) : Stays e P (failRequester e r h q) := by
  simp (maxDischargeDepth := 12) [failRequester, w]
@[simp] theorem failEntries_stays (r gone) (w : Stays e P h) : Stays e P (failEntries e r gone h) := by
  have w1 := foldl_stays (fun h (n : QEntry) => (h.dropEntry n.arrival).setLast n.xp r) gone w
    fun _ _ w => setLast_stays _ _ (dropEntry_stays _ w)
  have w2 := foldl_stays (fun h (n : QEntry) => n.reqs.foldl (failRequester e r) h) gone w1
    fun _ _ w => foldl_stays _ _ w fun _ _ w => failRequester_stays _ _ w
  unfold failEntries; dsimp only
  exact foldl_stays _ _ (ite_stays (exerciseFailed_stays _ w2) w2) fun _ _ w => settleRow_stays _ w
@[simp] theorem failEntry_stays (r n) (w : Stays e P h) : Stays e P (failEntry e r n h) := failEntries_stays _ _ w
@[simp] theorem strayRow_stays (r) (w : Stays e P h) : Stays e P (strayRow e r h) :=
  foldl_stays _ _ (failEntries_stays _ _ w) fun _ _ w => failClaim_stays _ w
/-- The entry that is picked is one of the queue and eligible (R112). -/
theorem pickEntry_some {n : QEntry} (hp : pickEntry e h = some n) : n ∈ h.queue ∧ eligible e h n = true := by
  have key : ∀ (l : List QEntry) (best : Option QEntry),
      l.foldl (fun best n => match best with
        | none => some n
        | some b => if picksBefore b n then some b else some n) best = some n → n ∈ l ∨ best = some n := by
    intro l
    induction l with
    | nil => intro best hb; exact .inr hb
    | cons a l ih =>
      intro best hb
      obtain hl | hl := ih _ hb
      · exact .inl (List.mem_cons_of_mem _ hl)
      · cases best with
        | none => cases hl; exact .inl (List.mem_cons_self ..)
        | some b =>
          dsimp only at hl; split at hl
          · exact .inr hl
          · cases hl; exact .inl (List.mem_cons_self ..)
  obtain hm | hm := key _ _ hp
  · exact List.mem_filter.mp hm
  · cases hm
/-- The picked entry is sent, or fails with RF_PRESENT (R113). -/
theorem servePick_stays {n : QEntry} (hp : pickEntry e h = some n) (hd : driveFree e h = true) (w : Stays e P h) :
    Stays e P (servePick e n h) := by
  unfold servePick; split
  · exact failEntry_stays _ _ w
  · next hr => exact ⟨w.stable, w.stable.send _ _ ⟨(pickEntry_some hp).1, (pickEntry_some hp).2, hd, by simpa using hr⟩ w.holds⟩
@[simp] theorem sendRead_stays (w : Stays e P h) : Stays e P (sendRead e h) := by
  unfold sendRead; split
  · exact w
  · exact w.same (.plain rfl rfl rfl rfl rfl rfl rfl rfl rfl)

/-! Positioning requests. -/

@[simp] theorem tellPosDone_stays (t) (w : Stays e P h) : Stays e P (tellPosDone t h) :=
  modCtx_stays (fun _ => ⟨rfl, rfl⟩) w
/-- A positioner's stored request changed. -/
theorem setRequest_stays (a : Ant) (o : PosRec → Option PosRequest) (w : Stays e P h) :
    Stays e P (h.modPos a fun p => { p with request := o p }) :=
  modPos_stays (fun _ => ⟨rfl, rfl, rfl, rfl, rfl⟩) w
@[simp] theorem refuseRequest_stays (a q) (w : Stays e P h) : Stays e P (refuseRequest a q h) :=
  report_stays _ (setRequest_stays a _ w)
@[simp] theorem placeRequest_stays (c a q) (w : Stays e P h) : Stays e P (placeRequest c a q h) := by
  unfold placeRequest; dsimp only
  (repeat' split)
  all_goals first
    | exact refuseRequest_stays _ _ w
    | exact tellPosDone_stays _ (setRequest_stays a _ w)
    | exact setRequest_stays a _ w
@[simp] theorem takeRequest_stays (a q) (w : Stays e P h) : Stays e P (takeRequest e a q h) := by
  unfold takeRequest; (repeat' split) <;> simp (maxDischargeDepth := 12) [w]
@[simp] theorem withdrawPosition_stays (t) (w : Stays e P h) : Stays e P (withdrawPosition t h) :=
  w.same ⟨rfl, rfl, rfl, rfl, rfl, fun _ => ⟨rfl, rfl, rfl⟩,
    fun a => by unfold withdrawPosition; dsimp only; rw [Tab.get_map]; exact ⟨rfl, rfl, rfl, rfl, rfl⟩,
    fun _ => rfl, fun _ => rfl, fun _ => .inl rfl⟩
@[simp] theorem askPosition_stays (t) (w : Stays e P h) : Stays e P (askPosition e t h) := by
  have w1 := modCtx_stays (t := t) (f := fun c => { c with posAsked := true }) (fun _ => ⟨rfl, rfl⟩) w
  unfold askPosition; dsimp only; (repeat' split) <;> simp (maxDischargeDepth := 12) [w1]

/-! Contexts. -/

@[simp] theorem decideOutcome_stays (t o r i) (w : Stays e P h) : Stays e P (decideOutcome t o r i h) :=
  modCtx_stays (fun c => by split <;> exact ⟨rfl, rfl⟩) w
@[simp] theorem endRun_stays (t r) (w : Stays e P h) : Stays e P (endRun t r h) := w.same (.plain rfl rfl rfl rfl rfl rfl rfl rfl rfl)
@[simp] theorem releasePath_stays (t) (w : Stays e P h) : Stays e P (releasePath e t h) := by simp (maxDischargeDepth := 12) [releasePath, w]

theorem involved_occ {t : Tx} {o : Occ} (ho : (h.ctx.get t).occ = some o) : Involved h o.handle :=
  ⟨t, .inl ⟨o, ho, rfl⟩⟩

theorem involved_kept {t : Tx} {k : Kept} (hk : (h.ctx.get t).kept = some k) : Involved h k.handle :=
  ⟨t, .inr ⟨k, hk, rfl⟩⟩

@[simp] theorem finishHeld_stays (t) (w : Stays e P h) : Stays e P (finishHeld e t h) := by
  unfold finishHeld; dsimp only; split
  · next ho _ => exact finishRecord_stays (involved_occ ho) w
  · exact w

@[simp] theorem modRecord_ctx (k f) : (h.modRecord k f).ctx = h.ctx := by unfold Hall.modRecord; split <;> rfl
@[simp] theorem completeRetirement_ctx (k) : (completeRetirement k h).ctx = h.ctx := by
  unfold completeRetirement; (repeat' split) <;> rfl
@[simp] theorem outcomeNotice_ctx (o) : (outcomeNotice o h).ctx = h.ctx := by unfold outcomeNotice; split <;> rfl
@[simp] theorem finishRecord_ctx (t k o) : (finishRecord e t k o h).ctx = h.ctx := by simp [finishRecord]

@[simp] theorem dropKept_stays (t o r) (w : Stays e P h) : Stays e P (dropKept e t o r h) := by
  unfold dropKept; split
  · exact w
  · next k hk =>
    refine setCtx_stays ⟨?_, ?_⟩ (finishRecord_stays (involved_kept hk) w)
    · intro o ho; exact ⟨o, ho, rfl⟩
    · intro k hk; simp at hk

@[simp] theorem finishIdle_stays (t) (w : Stays e P h) : Stays e P (finishIdle e t h) :=
  idle_stays _ (finishHeld_stays _ (releasePath_stays _ w))

@[simp] theorem enterEnding_stays (t) (w : Stays e P h) : Stays e P (enterEnding e t h) := by
  refine modCtx_stays (fun _ => ⟨rfl, rfl⟩) ?_
  split
  · next ho => exact modRecord_stays (involved_occ ho) (dropPermit_stays _ w)
  · exact dropPermit_stays _ w

@[simp] theorem unwind_stays (t) (w : Stays e P h) : Stays e P (unwind e t h) := by
  have w1 := withdrawPosition_stays t (withdrawPreset_stays t (dropPermit_stays t w))
  unfold unwind; dsimp only; (repeat' split)
  · exact enterEnding_stays _ (withdrawOps_stays _ w1)
  · exact enterEnding_stays _ (withdrawClaim_stays _ w1)
  · exact finishIdle_stays _ w1

@[simp] theorem takeBack_stays (t o r i) (w : Stays e P h) : Stays e P (takeBack e t o r i h) := by
  simp (maxDischargeDepth := 12) [takeBack, w]

@[simp] theorem cut_stays (t r) (w : Stays e P h) : Stays e P (cut e t r h) := by simp (maxDischargeDepth := 12) [cut, w]

@[simp] theorem linkStop_stays (t r) (w : Stays e P h) : Stays e P (linkStop e t r h) := by
  unfold linkStop; dsimp only; (repeat' split) <;> simp (maxDischargeDepth := 12) [w]

@[simp] theorem haltContext_stays (t) (w : Stays e P h) : Stays e P (haltContext e t h) := by
  have idle (x : Hall) (w : Stays e P x) : Stays e P (x.setCtx t { Context.idle with state := .halted }) := by
    refine setCtx_stays ⟨?_, ?_⟩ w <;> intro y hy <;> simp [Context.idle, Context.occ] at hy
  unfold haltContext; dsimp only; (repeat' split)
  all_goals first | exact w | exact idle _ (by simp (maxDischargeDepth := 12) [w])

/-- A new row for the occurrence that the context holds. -/
theorem reRow_stays {t : Tx} {o o' : Occ} {row : Row} (ho : (h.ctx.get t).occ = some o')
    (hk : o.handle = o'.handle) (w : Stays e P h) : Stays e P (reRow e t o row h) := by
  unfold reRow; dsimp only
  refine claim_stays _ _ (newAntennaFoldback_stays _ (withdrawPosition_stays _ (modRecord_stays ?_ ?_)))
  · refine ⟨t, .inl ?_⟩
    rw [Hall.modCtx_get, if_pos rfl]
    exact ⟨{ o with row := row, tilt := _ }, rfl, rfl⟩
  · refine setCtx_stays ⟨?_, ?_⟩ w
    · intro x hx
      simp [Context.occ] at hx
      exact ⟨o', ho, by rw [← hx]; exact hk⟩
    · intro k hk; exact hk

@[simp] theorem failPreparation_stays (t r) (w : Stays e P h) : Stays e P (failPreparation e t r h) := by
  unfold failPreparation; dsimp only; split
  · simp (maxDischargeDepth := 12) [w]
  · next o ho =>
    split
    · refine reRow_stays (o' := o) ?_ rfl (modCtx_stays (fun _ => ⟨rfl, rfl⟩) w)
      simpa [Context.occ] using ho
    · simp (maxDischargeDepth := 12) [w]

@[simp] theorem pathFails_stays (t) (w : Stays e P h) : Stays e P (pathFails e t h) := by
  unfold pathFails; dsimp only
  exact ite_stays (failPreparation_stays _ _ (modCtx_stays (fun _ => ⟨rfl, rfl⟩) w)) w

@[simp] theorem positionFails_stays (t) (w : Stays e P h) : Stays e P (positionFails e t h) := by
  unfold positionFails; dsimp only
  exact ite_stays (failPreparation_stays _ _ (modCtx_stays (fun _ => ⟨rfl, rfl⟩) w)) w

@[simp] theorem enterRamping_stays (t) (w : Stays e P h) : Stays e P (enterRamping e t h) :=
  requestPermit_stays _ (modCtx_stays (fun _ => ⟨rfl, rfl⟩) w)

@[simp] theorem enterStanding_stays (t) (w : Stays e P h) : Stays e P (enterStanding e t h) := by
  have w1 := modCtx_stays (t := t) (f := fun c => { c with state := .standing, timer := none })
    (fun _ => ⟨rfl, rfl⟩) w
  unfold enterStanding; dsimp only
  exact ite_stays (enterRamping_stays _ w1) w1

/-! Protection's part of a settling. -/

@[simp] theorem gateDrop_stays (t) (w : Stays e P h) : Stays e P (gateDrop e t h) := by simp (maxDischargeDepth := 12) [gateDrop, w]

theorem latchStray_stays {r : Row} (hr : e.pins.rf.get r = true) (w : Stays e P h) : Stays e P (latchStray e r h) := by
  unfold latchStray; dsimp only
  refine strayRow_stays _ (foldl_stays _ _ (foldl_stays _ _ (raiseNotice_stays _ ?_) fun _ _ w => dropPermit_stays _ w)
    fun _ _ w => ?_)
  · refine w.same ⟨rfl, rfl, rfl, rfl, rfl, fun _ => ⟨rfl, rfl, rfl⟩, fun _ => ⟨rfl, rfl, rfl, rfl, rfl⟩, fun _ => rfl,
      fun _ => rfl, fun q => ?_⟩
    dsimp only
    by_cases hq : r = q
    · subst hq; exact .inr ⟨hr, by simp⟩
    · exact .inl (by simp [hq])
  · simp (maxDischargeDepth := 12) [w]

/-! The settling. -/

theorem handleMsg_stays (m) (w : Stays e P h) : Stays e P (handleMsg e m h) := by
  unfold handleMsg; split <;> simp (maxDischargeDepth := 12) [w]

theorem standingRule_stays {h' : Hall} (hr : standingRule e h = some h') (w : Stays e P h) : Stays e P h' := by
  unfold standingRule at hr
  repeat' split at hr
  all_goals first
    | (next hf => cases hr; refine latchStray_stays ?_ w; have := List.find?_some hf; simp [strayFound] at this; tauto)
    | (cases hr; simp (maxDischargeDepth := 12) [w])
    | (next hd => obtain ⟨n, hp, rfl⟩ := Option.map_eq_some_iff.mp hr; exact servePick_stays hp hd w)
    | cases hr

theorem agendaStep_stays {h' : Hall} (hr : agendaStep e h = some h') (w : Stays e P h) : Stays e P h' := by
  unfold agendaStep at hr
  split at hr
  · cases hr; exact handleMsg_stays _ (w.same (.plain rfl rfl rfl rfl rfl rfl rfl rfl rfl))
  · exact standingRule_stays hr w

theorem runAgenda_stays (n : Nat) (w : Stays e P h) : Stays e P (runAgenda e n h) := by
  induction n generalizing h with
  | zero => exact w
  | succ n ih =>
    unfold runAgenda; split
    · next hr => exact ih (agendaStep_stays hr w)
    · exact w

/-- A settling keeps every stable property. -/
theorem settle_stays (w : Stays e P h) : Stays e P (settle e h) := lowerFailed_stays (runAgenda_stays _ w)

end Sys2Proof.Machine
end

