-- ==== Sys2Proof/Laws/Settle.lean ====
section
/-! SUPPORT. What a settling and the end of an event leave as it was, and what they establish: the stable properties of
the hall, the permit lines, and the parts of the state that `conclude` never touches. -/

namespace Sys2Proof.Machine

variable {e : Env} {h : Hall}

/-! The stable properties. -/

@[simp] theorem modRecord_base (k : Handle) (f : Record → Record) : (h.modRecord k f).base = h.base := by
  unfold Hall.modRecord; split <;> rfl
@[simp] theorem completeRetirement_base (k : Handle) : (completeRetirement k h).base = h.base := by
  unfold completeRetirement; (repeat' split) <;> rfl
@[simp] theorem outcomeNotice_base (o : OccOutcome) : (outcomeNotice o h).base = h.base := by
  unfold outcomeNotice; split <;> rfl

theorem finishRecord_base (t : Tx) (k : Handle) (o : LastOutcome) : (finishRecord e t k o h).base = h.base := by
  unfold finishRecord; dsimp only
  rw [outcomeNotice_base]
  exact (completeRetirement_base _).trans (modRecord_base _ _)

/-- What no settling changes is stable. -/
theorem base_stable (b : Base) : Stable e fun h => h.base = b where
  ctx := fun _ _ _ _ w => w
  record := fun h k f _ w => by unfold Hall.modRecord; split <;> exact w
  finish := fun _ _ _ _ _ w => (finishRecord_base _ _ _).trans w
  notice := fun _ _ w => w
  send := fun _ _ _ w => w
  forget := fun _ w => w
  rest := fun _ _ c w => c.base.trans w

theorem noticeSet_raise (h : Hall) (n m : Notice) (w : h.noticeSet m = true) : (raiseNotice n h).noticeSet m = true := by
  simp only [Hall.noticeSet, raiseNotice_flags, BitVec.getLsbD_or] at w ⊢
  simp [w]

/-- A raised notice stands in the flags. -/
theorem noticeSet_raised (h : Hall) (n : Notice) : (raiseNotice n h).noticeSet n = true := by
  have : n.mask.getLsbD n.bit = true := by cases n <;> decide
  simp [Hall.noticeSet, raiseNotice_flags, this]

@[simp] theorem modRecord_flags (k : Handle) (f : Record → Record) : (h.modRecord k f).flags = h.flags := by
  unfold Hall.modRecord; split <;> rfl
@[simp] theorem completeRetirement_flags (k : Handle) : (completeRetirement k h).flags = h.flags := by
  unfold completeRetirement; (repeat' split) <;> rfl

theorem finishRecord_notice (t : Tx) (k : Handle) (o : LastOutcome) (m : Notice) (w : h.noticeSet m = true) :
    (finishRecord e t k o h).noticeSet m = true := by
  have key : ∀ h' : Hall, h'.noticeSet m = true → (outcomeNotice o.outcome h').noticeSet m = true := fun h' w => by
    unfold outcomeNotice; split <;> first | exact w | exact noticeSet_raise _ _ _ w
  refine key _ ?_
  simpa [Hall.noticeSet] using w

/-- A notice that is set is stable: a settling clears none (R206). -/
theorem notice_stable (n : Notice) : Stable e fun h => h.noticeSet n = true where
  ctx := fun _ _ _ _ w => w
  record := fun h k f _ w => by unfold Hall.modRecord; split <;> exact w
  finish := fun _ _ _ _ _ w => finishRecord_notice _ _ _ _ w
  notice := fun _ _ w => noticeSet_raise _ _ _ w
  send := fun _ _ _ w => w
  forget := fun _ w => w
  rest := fun _ _ c w => by unfold Hall.noticeSet at *; rw [c.flags]; exact w

/-- The record of a handle changed: another place reads as it did. -/
theorem modRecord_slot {k : Handle} {p : PlaceNo} (f : Record → Record) (hp : k.place ≠ p) :
    (h.modRecord k f).slots.get p = h.slots.get p := by
  unfold Hall.modRecord; split
  · exact Tab.get_modify_ne _ _ hp
  · rfl

theorem completeRetirement_slot {k : Handle} {p : PlaceNo} (hp : k.place ≠ p) :
    (completeRetirement k h).slots.get p = h.slots.get p := by
  unfold completeRetirement; (repeat' split)
  · exact Tab.get_modify_ne _ _ hp
  · rfl
  · rfl

@[simp] theorem outcomeNotice_slots (o : OccOutcome) : (outcomeNotice o h).slots = h.slots := by
  unfold outcomeNotice; split <;> rfl

theorem finishRecord_slot {t : Tx} {k : Handle} {o : LastOutcome} {p : PlaceNo} (hp : k.place ≠ p) :
    (finishRecord e t k o h).slots.get p = h.slots.get p := by
  unfold finishRecord; dsimp only
  rw [outcomeNotice_slots]
  exact (completeRetirement_slot hp).trans (modRecord_slot _ hp)

/-- A place that no context is concerned with keeps what it holds, and stays so. -/
theorem slot_stable (p : PlaceNo) (x : Slot) : Stable e fun h => h.uninvolved p ∧ h.slots.get p = x where
  ctx := fun h t c' ht w => by
    refine ⟨fun u => ?_, w.2⟩
    rw [Hall.setCtx_get]
    split
    · next htu =>
      subst htu
      refine ⟨fun o ho => ?_, fun k hk => (w.1 t).2 k (ht.2 k hk)⟩
      obtain ⟨o', ho', he⟩ := ht.1 o ho
      rw [he]; exact (w.1 t).1 o' ho'
    · exact w.1 u
  record := fun h k f hk w => by
    have hp : k.place ≠ p := by
      obtain ⟨t, ⟨o, ho, rfl⟩ | ⟨o, ho, rfl⟩⟩ := hk
      · exact (w.1 t).1 o ho
      · exact (w.1 t).2 o ho
    refine ⟨?_, (modRecord_slot f hp).trans w.2⟩
    unfold Hall.modRecord; split <;> exact w.1
  finish := fun h t k o hk w => by
    have hp : k.place ≠ p := by
      obtain ⟨t, ⟨o, ho, rfl⟩ | ⟨o, ho, rfl⟩⟩ := hk
      · exact (w.1 t).1 o ho
      · exact (w.1 t).2 o ho
    refine ⟨?_, (finishRecord_slot hp).trans w.2⟩
    intro u; rw [finishRecord_ctx]; exact w.1 u
  notice := fun _ _ w => w
  send := fun _ _ _ w => w
  forget := fun _ w => w
  rest := fun _ _ c w => by
    refine ⟨?_, by rw [c.slots]; exact w.2⟩
    intro u; rw [c.ctx]; exact w.1 u

@[simp] theorem finishRecord_rest (t : Tx) (k : Handle) (o : LastOutcome) :
    (finishRecord e t k o h).links = h.links ∧ (finishRecord e t k o h).pos = h.pos ∧
    (finishRecord e t k o h).xps = h.xps ∧ (finishRecord e t k o h).stray = h.stray := by
  have hm : ∀ f, (h.modRecord k f).links = h.links ∧ (h.modRecord k f).pos = h.pos ∧ (h.modRecord k f).xps = h.xps ∧
      (h.modRecord k f).stray = h.stray := by
    intro f; unfold Hall.modRecord; split <;> exact ⟨rfl, rfl, rfl, rfl⟩
  have hc : ∀ h : Hall, (completeRetirement k h).links = h.links ∧ (completeRetirement k h).pos = h.pos ∧
      (completeRetirement k h).xps = h.xps ∧ (completeRetirement k h).stray = h.stray := by
    intro h; unfold completeRetirement; (repeat' split) <;> exact ⟨rfl, rfl, rfl, rfl⟩
  have ho : ∀ (h : Hall) x, (outcomeNotice x h).links = h.links ∧ (outcomeNotice x h).pos = h.pos ∧
      (outcomeNotice x h).xps = h.xps ∧ (outcomeNotice x h).stray = h.stray := by
    intro h x; unfold outcomeNotice; split <;> exact ⟨rfl, rfl, rfl, rfl⟩
  unfold finishRecord; dsimp only
  obtain ⟨a1, a2, a3, a4⟩ := ho { completeRetirement k (h.modRecord k (writeOutcome e (h.keptStart k) o)) with
    lastOutcome := (completeRetirement k (h.modRecord k (writeOutcome e (h.keptStart k) o))).lastOutcome.set t (some ⟨k, o⟩) } o.outcome
  obtain ⟨b1, b2, b3, b4⟩ := hc (h.modRecord k (writeOutcome e (h.keptStart k) o))
  obtain ⟨c1, c2, c3, c4⟩ := hm (writeOutcome e (h.keptStart k) o)
  exact ⟨a1.trans (b1.trans c1), a2.trans (b2.trans c2), a3.trans (b3.trans c3), a4.trans (b4.trans c4)⟩

/-- A property of the links, positioners, switches and stray latches alone, which `SameCore` keeps, is stable. -/
theorem plant_stable {P : Hall → Prop} (hs : ∀ h h', SameCore e h h' → P h → P h')
    (hp : ∀ h h' : Hall, h'.links = h.links → h'.pos = h.pos → h'.xps = h.xps → h'.stray = h.stray → P h → P h')
    (hm : ∀ h n, Sendable e h n → P h → P (sendMove e n h)) (hf : ∀ h, P h → P (forgetPositions h)) : Stable e P where
  ctx := fun h t c _ w => hp h (h.setCtx t c) rfl rfl rfl rfl w
  record := fun h k f _ w => by
    unfold Hall.modRecord; split
    · next r _ => exact hp h (h.setRecord k.place (some (f r))) rfl rfl rfl rfl w
    · exact w
  finish := fun h t k o _ w => by
    obtain ⟨a, b, c, d⟩ := finishRecord_rest (e := e) (h := h) t k o
    exact hp _ _ a b c d w
  notice := fun h n w => hp h (raiseNotice n h) rfl rfl rfl rfl w
  send := hm
  forget := hf
  rest := hs

/-- A link's telemetry, missed count and state are stable. -/
theorem link_stable (t : Tx) (l : Link) : Stable e fun h => SameLink l (h.links.get t) :=
  plant_stable (fun _ _ c w => ⟨(c.link t).1.trans w.1, (c.link t).2.1.trans w.2.1, (c.link t).2.2.trans w.2.2⟩)
    (fun _ _ a _ _ _ w => by rw [a]; exact w) (fun _ _ _ w => w) fun _ w => w

/-- A positioner's state, reported position, missed count and outstanding STOP are stable. -/
theorem pos_stable (a : Ant) (p : PosRec) : Stable e fun h => SamePos p (h.pos.get a) :=
  plant_stable
    (fun _ _ c w => ⟨(c.pos a).1.trans w.1, (c.pos a).2.1.trans w.2.1, (c.pos a).2.2.1.trans w.2.2.1,
      (c.pos a).2.2.2.1.trans w.2.2.2.1, (c.pos a).2.2.2.2.trans w.2.2.2.2⟩)
    (fun _ _ _ b _ _ w => by rw [b]; exact w) (fun _ _ _ w => w) fun _ w => w

/-- A crosspoint's STUCK flag is stable. -/
theorem stuck_stable (x : Xp) (b : Bool) : Stable e fun h => (h.xp x).stuck = b :=
  plant_stable (fun _ _ c w => (c.stuck x).trans w) (fun _ _ _ _ c _ w => by unfold Hall.xp at *; rw [c]; exact w)
    (fun h n _ w => by
      refine Eq.trans ?_ w
      show ((h.modXp n.xp _).xp x).stuck = _
      rw [Hall.modXp_xp]; split <;> rfl)
    fun h w => by simpa [forgetPositions, Hall.xp] using w

/-- A set STRAY latch is stable. -/
theorem stray_stable (r : Row) : Stable e fun h => h.stray.get r = true :=
  plant_stable (fun _ _ c w => by obtain h | h := c.stray r; exacts [h.trans w, h.2])
    (fun _ _ _ _ _ d w => by rw [d]; exact w) (fun _ _ _ w => w) fun _ w => w

/-- A clear STRAY latch is stable on a row whose RF is clear. -/
theorem clear_stable {r : Row} (hr : e.pins.rf.get r = false) : Stable e fun h => h.stray.get r = false :=
  plant_stable (fun _ _ c w => by
      obtain h | h := c.stray r
      · exact h.trans w
      · rw [hr] at h; cases h.1)
    (fun _ _ _ _ _ d w => by rw [d]; exact w) (fun _ _ _ w => w) fun _ w => w

/-! A settling. -/

theorem settle_base : (settle e h).base = h.base := (settle_stays ⟨base_stable h.base, rfl⟩).holds

theorem settle_notice (n : Notice) (w : h.noticeSet n = true) : (settle e h).noticeSet n = true :=
  (settle_stays ⟨notice_stable n, w⟩).holds

theorem settle_slot {p : PlaceNo} (w : h.uninvolved p) :
    (settle e h).uninvolved p ∧ (settle e h).slots.get p = h.slots.get p :=
  (settle_stays ⟨slot_stable p _, w, rfl⟩).holds

/-- A hall with nothing to do settles by its lines alone. -/
theorem settle_quiet (w : agendaStep e h = none) : settle e h = lowerFailed e h := by
  unfold settle Config.settleBound runAgenda
  rw [w]

@[simp] theorem fall_line (i : Nat) (g : Gate) : (g.fall i).line = false := by
  unfold Gate.fall; split <;> simp_all

theorem permitConditions_lowerFailed (t : Tx) : permitConditions e (lowerFailed e h) t = permitConditions e h t := rfl

/-- After a settling no line is high while a condition of its gate fails (R160). -/
theorem settle_permits (t : Tx) (w : ((settle e h).gates.get t).line = true) :
    permitConditions e (settle e h) t = true := by
  unfold settle at w ⊢
  rw [permitConditions_lowerFailed]
  by_contra hc
  simp [lowerFailed, hc] at w

/-! The end of an event. -/

section conclude
variable (b s : State) (f : Bool)

@[simp] theorem recompute_port : (recompute s).port = s.port := rfl
@[simp] theorem recompute_pending : (recompute s).pending = s.pending := rfl

/-- A recomputation changes the due list, and raises at most NO_ANTENNA. -/
theorem recompute_env : (recompute s).env = { s.env with due := (recompute s).env.due } := rfl

theorem recompute_hall : (recompute s).hall = s.hall ∨ (recompute s).hall = raiseNotice .noAntenna s.hall := by
  unfold recompute; dsimp only; split
  · exact .inr rfl
  · exact .inl rfl

@[simp] theorem conclude_port : (conclude b f s).port = s.port := by unfold conclude; dsimp only; split <;> rfl
@[simp] theorem conclude_pending : (conclude b f s).pending = s.pending := by
  unfold conclude; dsimp only; split <;> rfl

/-- The end of an event changes nothing of time, banks, mode, inputs and tables; only the due list may be new. -/
theorem conclude_env : (conclude b f s).env = { s.env with due := (conclude b f s).env.due } := by
  unfold conclude; dsimp only; split <;> rfl

@[simp] theorem conclude_mode : (conclude b f s).env.mode = s.env.mode := by rw [conclude_env]
@[simp] theorem conclude_clock : (conclude b f s).env.clock = s.env.clock := by rw [conclude_env]
@[simp] theorem conclude_elapsed : (conclude b f s).env.elapsed = s.env.elapsed := by rw [conclude_env]
@[simp] theorem conclude_minuteBegan : (conclude b f s).env.minuteBegan = s.env.minuteBegan := by rw [conclude_env]
@[simp] theorem conclude_banks : (conclude b f s).env.banks = s.env.banks := by rw [conclude_env]
@[simp] theorem conclude_pins : (conclude b f s).env.pins = s.env.pins := by rw [conclude_env]
@[simp] theorem conclude_tables : (conclude b f s).env.tables = s.env.tables := by rw [conclude_env]

/-- The hall after an event is the settled hall, with at most NO_ANTENNA raised. -/
theorem conclude_hall : (conclude b f s).hall = settle s.env s.hall ∨
    (conclude b f s).hall = raiseNotice .noAntenna (settle s.env s.hall) := by
  unfold conclude; dsimp only; split
  · exact recompute_hall _
  · exact .inl rfl

variable {s} in
/-- The end of an event keeps every stable property. -/
theorem conclude_stays {P : Hall → Prop} (hs : Stable s.env P) (w : P s.hall) : P (conclude b f s).hall := by
  obtain h | h := conclude_hall b s f <;> rw [h]
  · exact (settle_stays ⟨hs, w⟩).holds
  · exact (raiseNotice_stays _ (settle_stays ⟨hs, w⟩)).holds

theorem conclude_base : (conclude b f s).hall.base = s.hall.base := conclude_stays b f (base_stable _) rfl

variable {s} in
theorem conclude_notice (n : Notice) (w : s.hall.noticeSet n = true) : (conclude b f s).hall.noticeSet n = true :=
  conclude_stays b f (notice_stable n) w

variable {s} in
theorem conclude_slot {p : PlaceNo} (w : s.hall.uninvolved p) :
    (conclude b f s).hall.uninvolved p ∧ (conclude b f s).hall.slots.get p = s.hall.slots.get p :=
  conclude_stays b f (slot_stable p _) ⟨w, rfl⟩

theorem conclude_link (t : Tx) : SameLink (s.hall.links.get t) ((conclude b f s).hall.links.get t) :=
  conclude_stays b f (link_stable t _) ⟨rfl, rfl, rfl⟩

theorem conclude_pos (a : Ant) : SamePos (s.hall.pos.get a) ((conclude b f s).hall.pos.get a) :=
  conclude_stays b f (pos_stable a _) ⟨rfl, rfl, rfl, rfl, rfl⟩

theorem conclude_stuck (x : Xp) : ((conclude b f s).hall.xp x).stuck = (s.hall.xp x).stuck :=
  conclude_stays b f (stuck_stable x _) rfl

/-- After an event no line is high while a condition of its gate fails (R160). -/
theorem conclude_permits : PermitsGuarded (conclude b f s) := by
  intro t w
  have hp : ∀ d h, permitConditions { s.env with due := d } (raiseNotice .noAntenna h) t = permitConditions s.env h t :=
    fun _ _ => rfl
  have hq : ∀ d h, permitConditions { s.env with due := d } h t = permitConditions s.env h t := fun _ _ => rfl
  rw [conclude_env]
  obtain h | h := conclude_hall b s f <;> rw [h] at w ⊢
  · rw [hq]; exact settle_permits t w
  · rw [hp]; exact settle_permits t w

end conclude

end Sys2Proof.Machine
end

