-- ==== Sys2Proof/Laws/Events.lean ====
section
/-! SUPPORT. What the command port and the second boundaries can do, said once: how a request is refused, answered or
discarded, and what no boundary touches. -/

namespace Sys2Proof.Machine

/-! The command port (10.1, 10.2). -/

section port
variable {s s' before : State} {v : Verdict} {payload : List Byte} {st : Status} {lengthOk : Bool} {modeOk : Mode → Bool}
  {rule : State → Verdict} {force : Bool}

/-- An accepted request leaves its own state, with its reply in the buffer. -/
theorem carryOut_accept :
    carryOut s (accept s' payload) = { s' with port := s'.port.fill (some { status := .ok, payload := payload }) } := rfl

/-- A refused request leaves the state with its status in the buffer. -/
theorem carryOut_refuse :
    carryOut s (refuse st) = { s with port := s.port.fill (some { status := st, payload := [] }) } := rfl

/-- Whatever the verdict, the queue is that of the state it leaves. -/
theorem carryOut_pending : (carryOut s v).pending = (stateOf s v).pending := rfl

/-- A request that ends an event leaves what `conclude` leaves, answered OK. -/
theorem carryOut_acceptEvent {f : State → List Byte} :
    carryOut s (acceptEvent before force s' f) = { conclude before force s' with
      port := s'.port.fill (some { status := .ok, payload := f (conclude before force s') }) } := by
  simp [carryOut, acceptEvent, accept, stateOf, replyOf]

/-- A frame that is not received is discarded, whatever it asks. -/
theorem request_dropped (w : ¬Received s) : request lengthOk modeOk rule s = discardFrame s := by
  simp only [Received, Bool.not_eq_false] at w
  simp [request, w]

/-- A received request of a length its layout does not allow is refused with FIELD, in any mode. -/
theorem request_badLength (w : Received s) (hl : lengthOk = false) :
    request lengthOk modeOk rule s = carryOut s (refuse .field) := by
  simp only [Received] at w
  simp [request, w, hl]

/-- A received request of a good length in a mode that does not take it is refused with MODE. -/
theorem request_badMode (w : Received s) (hl : lengthOk = true) (hm : modeOk s.env.mode = false) :
    request lengthOk modeOk rule s = carryOut s (refuse .mode) := by
  simp only [Received] at w
  simp [request, w, hl, hm]

/-- A received request of a good length in a mode that takes it is decided by its own rule. -/
theorem request_taken (w : Received s) (hl : lengthOk = true) (hm : modeOk s.env.mode = true) :
    request lengthOk modeOk rule s = carryOut s (rule s) := by
  simp only [Received] at w
  simp [request, w, hl, hm]

/-- Everything a request can do: it is discarded, refused by the port, or decided by its own rule. -/
theorem request_cases :
    (¬Received s ∧ request lengthOk modeOk rule s = discardFrame s) ∨
    (Received s ∧ lengthOk = false ∧ request lengthOk modeOk rule s = carryOut s (refuse .field)) ∨
    (Received s ∧ lengthOk = true ∧ modeOk s.env.mode = false ∧
      request lengthOk modeOk rule s = carryOut s (refuse .mode)) ∨
    (Received s ∧ lengthOk = true ∧ modeOk s.env.mode = true ∧ request lengthOk modeOk rule s = carryOut s (rule s)) := by
  by_cases w : Received s
  · cases hl : lengthOk
    · exact .inr (.inl ⟨w, rfl, request_badLength w rfl⟩)
    · cases hm : modeOk s.env.mode
      · exact .inr (.inr (.inl ⟨w, rfl, rfl, request_badMode w rfl hm⟩))
      · exact .inr (.inr (.inr ⟨w, rfl, rfl, request_taken w rfl hm⟩))
  · exact .inl ⟨w, request_dropped w⟩

end port

/-! Second boundaries (R3). -/

/-- A stretch of work that passes no time and touches neither the port, the queue, the mode, the inputs, the tables nor
the count: only banks and due list of the environment may be new. -/
structure WorkOnly (s t : State) : Prop where
  port : t.port = s.port
  pending : t.pending = s.pending
  env : t.env = { s.env with banks := t.env.banks, due := t.env.due }

theorem WorkOnly.refl (s : State) : WorkOnly s s := ⟨rfl, rfl, rfl⟩

theorem WorkOnly.trans {s t u : State} (a : WorkOnly s t) (b : WorkOnly t u) : WorkOnly s u :=
  ⟨b.port.trans a.port, b.pending.trans a.pending, by rw [b.env, a.env]⟩

section boundary
variable {s t : State}

/-- The end of an event is such work. -/
theorem conclude_work (b : State) (f : Bool) (w : WorkOnly s t) : WorkOnly s (conclude b f t) :=
  w.trans ⟨by simp, by simp, by rw [conclude_env]⟩

theorem recompute_work (w : WorkOnly s t) : WorkOnly s (recompute t) := w.trans ⟨rfl, rfl, rfl⟩

/-- Another hall does not matter to it. -/
theorem WorkOnly.hall (w : WorkOnly s t) (h : Hall) : WorkOnly s { t with hall := h } := ⟨w.port, w.pending, w.env⟩

theorem phase_work (f : Env → Hall → Hall) (w : WorkOnly s t) : WorkOnly s (phase f t) := conclude_work _ _ (w.hall _)

/-- Settling moves the hall alone. -/
theorem settled_work (w : WorkOnly s t) : WorkOnly s t.settled := w.hall _

theorem takeHandover_work (hh : Nat) (w : WorkOnly s t) : WorkOnly s (takeHandover hh t) :=
  w.trans ⟨rfl, rfl, rfl⟩

theorem handoverPhase_work (w : WorkOnly s t) : WorkOnly s (handoverPhase t) := by
  unfold handoverPhase
  (repeat' split) <;> first | exact w | exact takeHandover_work _ w

theorem refreshBlocked_work (w : WorkOnly s t) : WorkOnly s (refreshBlocked t) := w.trans ⟨rfl, rfl, rfl⟩

theorem giveUpPhase_work (w : WorkOnly s t) : WorkOnly s (giveUpPhase t) := by
  unfold giveUpPhase; dsimp only; split
  · exact w
  · exact w.trans ⟨rfl, rfl, rfl⟩

theorem startPhase_work (w : WorkOnly s t) : WorkOnly s (startPhase t) := by
  unfold startPhase; dsimp only
  exact conclude_work _ _ (w.trans ⟨rfl, rfl, rfl⟩)

theorem beforeStarts_work (minute : Option Nat) (w : WorkOnly s t) : WorkOnly s (beforeStarts minute t) := by
  unfold beforeStarts; dsimp only
  refine giveUpPhase_work (refreshBlocked_work (handoverPhase_work ?_))
  split
  · exact settled_work (w.hall _)
  · exact w

theorem startsOf_work (b : State) (w : WorkOnly s t) : WorkOnly s (startsOf b t) := by
  unfold startsOf; dsimp only
  have listed : WorkOnly s (if plannerView t = plannerView b then t else refreshBlocked (recompute t)) := by
    split
    · exact w
    · exact refreshBlocked_work (recompute_work w)
  generalize (if plannerView t = plannerView b then t else refreshBlocked (recompute t)) = u at listed ⊢
  split
  · exact startPhase_work listed
  · exact recompute_work (startPhase_work listed)

theorem rampsAndEnds_work (w : WorkOnly s t) : WorkOnly s (rampsAndEnds t) := by
  unfold rampsAndEnds
  exact phase_work _ (phase_work _ w)

/-- What a second boundary leaves alone. -/
theorem secondBoundary_work (minute : Option Nat) (w : WorkOnly s t) : WorkOnly s (secondBoundary minute t) := by
  have starts := rampsAndEnds_work (startsOf_work t (beforeStarts_work minute w))
  unfold secondBoundary
  cases minute with
  | none => exact starts
  | some m => exact phase_work _ (recompute_work (starts.hall _))

/-- The boundaries of a count move nothing of the environment but the last boundary, the banks and the due list. -/
theorem boundaries_env : (boundaries s).env = { s.env with
    banks := (boundaries s).env.banks, due := (boundaries s).env.due
    clock := { s.env.clock with lastBoundary := (boundaries s).env.clock.lastBoundary } } := by
  unfold boundaries; dsimp only; split
  · rw [(secondBoundary_work _ (WorkOnly.refl _)).env]
  · rfl

/-- The last boundary after it is the instant of the count, when the count is valid and beyond it (R3). -/
theorem boundaries_last : (boundaries s).env.clock.lastBoundary =
    if s.env.clock.valid ∧ s.env.clock.lastBoundary < s.env.clock.now then s.env.clock.now
    else s.env.clock.lastBoundary := by
  unfold boundaries; dsimp only; split
  · rw [(secondBoundary_work _ (WorkOnly.refl _)).env]
  · rfl

@[simp] theorem boundaries_port : (boundaries s).port = s.port := by
  unfold boundaries; dsimp only; split
  · exact (secondBoundary_work _ (WorkOnly.refl _)).port
  · rfl

@[simp] theorem boundaries_pending : (boundaries s).pending = s.pending := by
  unfold boundaries; dsimp only; split
  · exact (secondBoundary_work _ (WorkOnly.refl _)).pending
  · rfl

@[simp] theorem boundaries_tables : (boundaries s).env.tables = s.env.tables := by rw [boundaries_env]
@[simp] theorem boundaries_mode : (boundaries s).env.mode = s.env.mode := by rw [boundaries_env]
@[simp] theorem boundaries_pins : (boundaries s).env.pins = s.env.pins := by rw [boundaries_env]
@[simp] theorem boundaries_elapsed : (boundaries s).env.elapsed = s.env.elapsed := by rw [boundaries_env]

@[simp] theorem advanceCount_port : (advanceCount s).port = s.port := by
  unfold advanceCount; dsimp only; split <;> simp
@[simp] theorem advanceCount_pending : (advanceCount s).pending = s.pending := by
  unfold advanceCount; dsimp only; split <;> simp
@[simp] theorem advanceCount_tables : (advanceCount s).env.tables = s.env.tables := by
  unfold advanceCount; dsimp only; split <;> simp
@[simp] theorem advanceCount_mode : (advanceCount s).env.mode = s.env.mode := by
  unfold advanceCount; dsimp only; split <;> simp
@[simp] theorem advanceCount_pins : (advanceCount s).env.pins = s.env.pins := by
  unfold advanceCount; dsimp only; split <;> simp
@[simp] theorem advanceCount_elapsed : (advanceCount s).env.elapsed = s.env.elapsed := by
  unfold advanceCount; dsimp only; split <;> simp

/-! No boundary leaves a line high whose condition fails. -/

theorem recompute_permits (w : PermitsGuarded t) : PermitsGuarded (recompute t) := by
  intro u hu
  have hp : ∀ d h, permitConditions { t.env with due := d } (raiseNotice .noAntenna h) u = permitConditions t.env h u :=
    fun _ _ => rfl
  have hq : ∀ d h, permitConditions { t.env with due := d } h u = permitConditions t.env h u := fun _ _ => rfl
  rw [recompute_env]
  obtain h | h := recompute_hall t <;> rw [h] at hu ⊢
  · rw [hq]; exact w u hu
  · rw [hp]; exact w u hu

theorem phase_permits (f : Env → Hall → Hall) (t : State) : PermitsGuarded (phase f t) := conclude_permits _ _ _

theorem rampsAndEnds_permits (t : State) : PermitsGuarded (rampsAndEnds t) := by
  unfold rampsAndEnds
  exact phase_permits _ _

/-- The second boundary ends with work of the hall, so its lines are guarded (R160). -/
theorem secondBoundary_permits (minute : Option Nat) (t : State) : PermitsGuarded (secondBoundary minute t) := by
  unfold secondBoundary; dsimp only
  cases minute with
  | none => exact rampsAndEnds_permits _
  | some m => exact phase_permits _ _

theorem boundaries_permits (w : PermitsGuarded s) : PermitsGuarded (boundaries s) := by
  unfold boundaries; dsimp only; split
  · exact secondBoundary_permits _ _
  · exact w

end boundary

end Sys2Proof.Machine
end

