-- ==== Sys2Proof/Laws/Acts.lean ====
section
/-! SUPPORT. What the direct effects of commands can do, said once: those that touch neither units, links, positioners,
STUCK flags nor other records keep every stable property (`Stable`). -/

namespace Sys2Proof.Machine

variable {e : Env} {P : Hall → Prop} {h : Hall}

/-! Contexts (Chapter 4). -/

@[simp] theorem freshFoldback_stays (t) (w : Stays e P h) : Stays e P (freshFoldback t h) := by
  simp (maxDischargeDepth := 12) [freshFoldback, w]
@[simp] theorem yieldColumn_stays (q) (w : Stays e P h) : Stays e P (yieldColumn q h) := by
  simp (maxDischargeDepth := 12) [yieldColumn, w]
@[simp] theorem enterMuting_stays (t) (w : Stays e P h) : Stays e P (enterMuting e t h) :=
  dropPermit_stays _ (modCtx_stays (fun _ => ⟨rfl, rfl⟩) w)
@[simp] theorem beginTune_stays (t o) (w : Stays e P h) : Stays e P (beginTune e t o h) :=
  handPreset_stays _ _ (modCtx_stays (fun _ => ⟨rfl, rfl⟩) w)
@[simp] theorem enterPreparing_stays (t) (w : Stays e P h) : Stays e P (enterPreparing e t h) := by
  unfold enterPreparing; dsimp only; split
  · exact w
  · exact claim_stays _ _ (beginTune_stays _ _ (modCtx_stays (fun _ => ⟨rfl, rfl⟩) w))
  · exact claim_stays _ _ (modCtx_stays (fun _ => ⟨rfl, rfl⟩) w)
@[simp] theorem beginHeld_stays (t) (w : Stays e P h) : Stays e P (beginHeld e t h) := by
  simp (maxDischargeDepth := 12) [beginHeld, w]

/-- A context stores a proving run: it holds and keeps no occurrence (R97). -/
theorem store_proving_stays (t row d) (w : Stays e P h) : Stays e P (store e t (.proving row) d h) := by
  unfold store
  refine ceiling_stays _ (freshFoldback_stays _ (yieldColumn_stays _ (setCtx_stays ⟨?_, ?_⟩ w)))
  · intro o ho; simp [Context.occ] at ho
  · intro k hk; simp [Context.idle] at hk

/-- A proving run starts (R176). -/
@[simp] theorem startRun_stays (t row) (w : Stays e P h) : Stays e P (startRun e t row h) :=
  beginHeld_stays _ (store_proving_stays _ _ _ (w.same (.plain rfl rfl rfl rfl rfl rfl rfl rfl rfl)))

@[simp] theorem rampStart_stays (t) (w : Stays e P h) : Stays e P (rampStart e t h) := by
  simp (maxDischargeDepth := 12) [rampStart, w]

/-- Forward power is confirmed (R81). -/
@[simp] theorem enterOnAir_stays (t) (w : Stays e P h) : Stays e P (enterOnAir e t h) := by
  have w1 := modCtx_stays (t := t) (f := fun c => { c with state := .onAir, timer := none, spellBegan := some e.now })
    (fun _ => ⟨rfl, rfl⟩) w
  have w2 := modCtx_stays (t := t) (f := fun c => { c with onAirAt := some e.now }) (fun _ => ⟨rfl, rfl⟩) w1
  unfold enterOnAir; dsimp only; split
  · next o ho _ =>
    have w3 := modRecord_stays (k := o.handle) (f := Record.onAired (min 65535 (e.now - o.start))) ?_ w2
    · split
      · exact raiseNotice_stays _ w3
      · exact w3
    · refine ⟨t, .inl ⟨o, ?_, rfl⟩⟩
      simpa [Context.occ] using ho
  · exact w1

/-- A natural end (R83). -/
@[simp] theorem naturalEnd_stays (t) (w : Stays e P h) : Stays e P (naturalEnd e t h) := by
  unfold naturalEnd; dsimp only; split
  · exact w
  · split
    · exact w
    · split <;> simp (maxDischargeDepth := 12) [w]

@[simp] theorem yieldRun_stays (t) (w : Stays e P h) : Stays e P (yieldRun e t h) := by
  simp (maxDischargeDepth := 12) [yieldRun, w]

/-- An old-bank occurrence at the handover (R11). -/
@[simp] theorem handoverContext_stays (old hh t) (w : Stays e P h) : Stays e P (handoverContext e old hh t h) := by
  unfold handoverContext; dsimp only
  refine ite_stays (dropKept_stays _ _ _ ?_) ?_
  all_goals (repeat' split) <;> simp (maxDischargeDepth := 12) [w]

/-- An occurrence of the STANDBY bank at a cancelled handover (R12). -/
@[simp] theorem cancelContext_stays (t) (w : Stays e P h) : Stays e P (cancelContext e t h) := by
  unfold cancelContext; dsimp only
  refine ite_stays (dropKept_stays _ _ _ ?_) ?_
  all_goals split <;> simp (maxDischargeDepth := 12) [w]

/-- A context that GO CONFIG with force takes back (R205). -/
@[simp] theorem forceContext_stays (t) (w : Stays e P h) : Stays e P (forceContext e h t) := by
  simp (maxDischargeDepth := 12) [forceContext, w]

@[simp] theorem haltAll_stays (w : Stays e P h) : Stays e P (haltAll e h) :=
  foldl_stays _ _ w fun _ _ w => haltContext_stays _ w

/-! Protection (Chapter 8). -/

/-- A unit's barring or taking out, as the contexts feel it (R172, R174). -/
@[simp] theorem strikeUnit_stays (u r x) (w : Stays e P h) : Stays e P (strikeUnit e u r x h) := by
  refine foldl_stays _ _ w fun h t w => ?_
  dsimp only
  have w1 : Stays e P (if concernsUnit h u t ∧ x ≠ some t then cut e t r h else h) := ite_stays (cut_stays _ _ w) w
  have w2 := ite_stays (c := u = .tx t) (endRun_stays t (.failed r) w1) w1
  exact ite_stays (dropKept_stays _ _ _ w2) w2

/-- A cut decision after a trip (R90). -/
@[simp] theorem cutDecision_stays (t b c) (w : Stays e P h) : Stays e P (cutDecision e t b c h) := by
  simp (maxDischargeDepth := 12) [cutDecision, w]

/-- A re-route after a trip (R89). -/
theorem reRoute_stays {t : Tx} {o : Occ} (c) (ho : (h.ctx.get t).occ = some o) (w : Stays e P h) :
    Stays e P (reRoute e t o c h) := by
  have w1 := modCtx_stays (t := t)
    (f := fun c => { c with reRouted := true, left := (h.ctx.get t).left ++ rowAntList o.row }) (fun _ => ⟨rfl, rfl⟩) w
  unfold reRoute; dsimp only; split
  · refine reRow_stays (o' := o) ?_ rfl (modCtx_stays (fun _ => ⟨rfl, rfl⟩) w1)
    simpa [Context.occ] using ho
  · exact cutDecision_stays _ _ _ w1

/-- What a context does after a trip, once it is scored (R171). -/
@[simp] theorem decideTrip_stays (t c row) (w : Stays e P h) : Stays e P (decideTrip e t c row h) := by
  unfold decideTrip; dsimp only
  refine ite_stays (cutDecision_stays _ _ _ w) (ite_stays (modCtx_stays (fun _ => ⟨rfl, rfl⟩) w) ?_)
  split
  · next ho => exact ite_stays (reRoute_stays _ ho w) (cutDecision_stays _ _ _ w)
  · exact cutDecision_stays _ _ _ w

/-! The matrix and the exercise on a change of mode (R95, R124, R195). -/

@[simp] theorem abortSweep_stays (w : Stays e P h) : Stays e P (abortSweep h) := by
  simp (maxDischargeDepth := 12) [abortSweep, w]
@[simp] theorem abortSurvey_stays (w : Stays e P h) : Stays e P (abortSurvey h) :=
  w.same (.plain rfl rfl rfl rfl rfl rfl rfl rfl rfl)
@[simp] theorem emptyWaiting_stays (w : Stays e P h) : Stays e P (emptyWaiting h) :=
  w.same (.plain rfl rfl rfl rfl rfl rfl rfl rfl rfl)

@[simp] theorem stopMatrix_stays (w : Stays e P h) : Stays e P (stopMatrix e h) :=
  emptyWaiting_stays (failEntries_stays _ _ (w.same (.plain rfl rfl rfl rfl rfl rfl rfl rfl rfl)))

/-- Every crosspoint becomes UNKNOWN and keeps STUCK (R124). -/
@[simp] theorem forgetPositions_stays (w : Stays e P h) : Stays e P (forgetPositions h) :=
  ⟨w.stable, w.stable.forget _ w.holds⟩

@[simp] theorem localMatrix_stays (w : Stays e P h) : Stays e P (localMatrix e h) :=
  emptyWaiting_stays (failEntries_stays _ _ (forgetPositions_stays
    (w.same (h' := { h with queue := [] }) (.plain rfl rfl rfl rfl rfl rfl rfl rfl rfl))))

/-- HALTED contexts become IDLE; they hold nothing (R95). -/
theorem unhalt_ctx (t : Tx) : (unhalt h).ctx.get t =
    if (h.ctx.get t).state = .halted then Context.idle else h.ctx.get t := by
  simp [unhalt]

@[simp] theorem failCommand_stays (n) (w : Stays e P h) : Stays e P (failCommand e h n) := by
  unfold failCommand; dsimp only; split <;> simp (maxDischargeDepth := 12) [w]
@[simp] theorem leaveConfig_stays (w : Stays e P h) : Stays e P (leaveConfig e h) :=
  foldl_stays _ _ w fun _ _ w => failCommand_stays _ w

/-- Auto exercise looks for a crosspoint (R188). -/
@[simp] theorem selectExercise_stays (m) (w : Stays e P h) : Stays e P (selectExercise m e h) := by
  unfold selectExercise; dsimp only; (repeat' split) <;> simp (maxDischargeDepth := 12) [w]

@[simp] theorem exerciseClosed_stays (w : Stays e P h) : Stays e P (exerciseClosed e h) := by
  unfold exerciseClosed; split
  · simp (maxDischargeDepth := 12) [w]
  · exact queueOp_stays _ _ _ (w.same (.plain rfl rfl rfl rfl rfl rfl rfl rfl rfl))
@[simp] theorem exerciseOpened_stays (w : Stays e P h) : Stays e P (exerciseOpened e h) := by
  simp (maxDischargeDepth := 12) [exerciseOpened, w]

/-- RF on the row of the move in flight is noted (R113). -/
@[simp] theorem noteRf_stays (r) (w : Stays e P h) : Stays e P (noteRf r h) := by
  unfold noteRf; split
  · exact ite_stays (modXp_stays (fun _ => ⟨rfl, rfl⟩) w) w
  · exact w

end Sys2Proof.Machine
end

