-- ==== Sys2Proof/Tests/Slice0.lean ====
section
/-! SUPPORT. Tests: what WellFormed refuses, frames written out from 11.1 and 11.4, the spec's worked cases, and for each
statement with hypotheses a concrete state that meets them (`test_meets_…`), a clause at a time. -/

namespace Sys2Proof.Tests
open Sys2Proof Sys2Proof.Machine

/-! States to test on: the reset state with one thing changed. -/

def z : State := State.reset
def inMode (m : Mode) (s : State := z) : State := { s with env := { s.env with mode := m } }
def withClock (f : Clock → Clock) : State := { z with env := { z.env with clock := f z.env.clock } }
def withTables (f : Tables → Tables) (s : State := z) : State :=
  { s with env := { s.env with tables := f s.env.tables } }
def withHall (f : Hall → Hall) (s : State := z) : State := { s with hall := f s.hall }
def withPins (f : Pins → Pins) : State := { z with env := { z.env with pins := f z.env.pins } }
def after (c : Instr) (s : State) : State :=
  match exec c s with
  | .next t => t
  | .fault _ | .refused _ => s

/-- What an idle step leaves. -/
def passIdle (s : State) : State := { s with env := passTime 1 s.env }

def txCfg : TxCfg :=
  { rating := 300, bandLow := 2300, bandHigh := 26100, muteTime := 3, tuneBase := 20, tuneRate := 40, ramp := 10 }
def fixedCfg : AntCfg :=
  { kind := .fixed 0 30, bandLow := 2300, bandHigh := 26100, maxPower := 600, tiltCount := 1 }
def turningCfg : AntCfg :=
  { kind := .rotatable 180 10 12, bandLow := 2300, bandHigh := 26100, maxPower := 600, tiltCount := 2 }
/-- T0 and A0 (FIXED) and A1 (ROTATABLE) are configured. -/
def equipped : State :=
  withTables fun t => { t with tx := t.tx.set 0 (some txCfg), ant := (t.ant.set 0 (some fixedCfg)).set 1 (some turningCfg) }

def sched : Schedule :=
  { bank := .b, tx := 0, startMinute := 720, duration := 60, days := 127, firstDay := none, lastDay := none, freq := 9410,
    target := .antenna 0, azimuth := none, tilt := 0, power := 250, programme := 1, cut := 60 }
def record (st : RecState) : Record := { newRecord sched { power := false, tilt := false, cut := false } with state := st }
def key : Handle := { place := 0, gen := 0 }
/-- Place 0 holds a record in a state. -/
def holding (st : RecState) : State := withHall (fun h => h.setRecord 0 (some (record st))) equipped
def occ : Occ :=
  { handle := key, bank := .b, start := 43200, finish := 46800, freq := 9410, programme := 1, target := .antenna 0, row := 0,
    azimuth := none, tilt := 0 }
/-- T0's context in a state, with a timer of a kind, holding an occurrence. -/
def context (st : CtxState) (k : TimerKind) (attempts : Nat := 1) : State :=
  withHall (fun h => h.modCtx 0 fun c =>
    { c with state := st, held := .occurrence occ, tune := .pending, tuneAttempts := attempts,
             timer := some { kind := k, expiry := 13000, length := 13000 } }) equipped
/-- Every crosspoint OPEN, (T0, row 0) CLOSED and CONNECTED, T0 on air in RUN with its line high. -/
def airing : State :=
  inMode .run (withHall (fun h =>
    { h with
      xps := (Tab.fill 26 (Tab.fill 16 { XpRec.powerUp with pos := .opened })).modify 0 fun w =>
        w.modify 0 fun x => { x with pos := .closed }
      rows := h.rows.set 0 { res := .connected 0, waiting := [] }
      ctx := h.ctx.modify 0 fun c => { c with state := .onAir, held := .occurrence occ }
      gates := h.gates.modify 0 fun g => { g with request := true, line := true } }) equipped)
/-- Every crosspoint OPEN. -/
def allOpen : State :=
  withHall fun h => { h with xps := Tab.fill 26 (Tab.fill 16 { XpRec.powerUp with pos := .opened }) }
def entry (d : Dir) : QEntry :=
  { xp := ⟨0, 0⟩, dir := d, reqs := [], exercise := false, commands := 1, arrival := 0, inFlight := false, timeoutAt := 10000,
    followOpen := none }
/-- A move of (T0, row 0) is in flight. -/
def flying (d : Dir) : State :=
  withHall fun h => { h with queue := [{ entry d with inFlight := true }], arrivals := 1 }
def barredTx : State :=
  withHall fun h => { h with txUnit := h.txUnit.set 0 { score := 255, service := .barred, provingMinutes := 0 } }
def outTx (score : Nat) : State :=
  withHall fun h => { h with txUnit := h.txUnit.set 0 { score := score, service := .out, provingMinutes := 0 } }
def polling : State := withHall (fun h => { h with hallPoll := [0], posPoll := [1] }) equipped
def going : State :=
  withHall (fun h => h.modPos 1 fun p =>
    { p with state := .moving, go := some { tx := some 0, azimuth := 90, tilt := 0, turn := .clockwise, outstanding := true,
                                            expiry := 5000 } }) polling
def reading (next : Option (Fin 416)) : State :=
  inMode .survey (withHall fun h => { h with reading := some { xp := ⟨15, 25⟩, expiry := 1000 }, surveyNext := next })

/-! WellFormed refuses a term that no frame carries. -/

theorem test_long_payload_refused : (Instr.addSlot (List.replicate 65 0)).wellFormed = false := by decide
theorem test_longest_payload_taken : (Instr.addSlot (List.replicate 64 0)).wellFormed = true := by decide
theorem test_known_code_is_no_unknown : (Instr.unknownCommand 0x94 []).wellFormed = false := by decide
theorem test_long_unknown_refused : (Instr.unknownCommand 0xFF (List.replicate 65 0)).wellFormed = false := by decide

/-! Frames, their bytes written out from 11.1 (R211, R213). -/

theorem test_read_status_frame : decodePeriod [0x94, 0] 0 = .readStatus [] := by decide
theorem test_set_time_frame : decodePeriod [0x10, 5, 0, 1, 0, 0x0E, 0x10, 0xFF] 0 = .setTime [0, 1, 0, 0x0E, 0x10] := by
  decide
theorem test_goConfig_frame : decodePeriod [0x91, 1, 1] 0 = .goConfig [1] := by decide
theorem test_stopProve_frame : decodePeriod [0x75, 1, 0x05] 0 = .stopProve [5] := by decide
theorem test_readGroups_frame : decodePeriod [0x55, 0] 0 = .readGroups [] := by decide
theorem test_unknown_frame : decodePeriod [0x95, 0] 0 = .unknownCommand 0x95 [] := by decide
theorem test_no_table_word : decodeTableWord 32 0 = none := rfl

/-- R217, R218: a drive request to close (T3, row 7) is 3, 7, 1 and the check byte 0xF5. -/
theorem test_drive_frame : driveFrame ⟨3, 7⟩ 1 = [3, 7, 1, 0xF5] := by decide
/-- R216, R218: a reply whose bytes do not sum to 0 modulo 256 is none. -/
theorem test_bad_telemetry : telemetryOf [0, 2, 0, 0, 0, 0, 0, 0, 0, 0, 0, 0] = none := by decide
theorem test_good_telemetry :
    (telemetryOf [5, 3, 0x24, 0xC2, 0x0B, 0xA4, 0, 0, 0, 1, 40, 0x3A]).map (fun f => (f.tx, f.report, f.freq, f.forward, f.ack))
      = some (5, .on, 9410, 2980, some 40) := by decide

/-! Worked cases of the spec. -/

/-- 6.3: the table of stop arithmetic. -/
theorem test_turns :
    turnOf 180 100 250 = (.counter, 210) ∧ turnOf 180 250 100 = (.clockwise, 210) ∧ turnOf 180 180 90 = (.clockwise, 270) ∧
    turnOf 0 350 10 = (.counter, 340) ∧ turnOf 0 10 350 = (.clockwise, 340) ∧ turnOf 200 40 300 = (.counter, 100) := by
  decide
/-- 2.5: the wrap across Sunday midnight overlaps; Tuesday 00:20 meets Monday 23:00 for 90 min, 00:40 does not. -/
theorem test_arcs :
    arcsOverlap 10050 60 15 30 = true ∧ arcsOverlap 15 30 10050 60 = true ∧ arcsOverlap 1380 90 1460 30 = true ∧
    arcsOverlap 1380 90 1480 30 = false ∧ arcsOverlap 4260 90 1480 30 = false := by decide
/-- 2.5: the validity ranges of the worked case, X from day 9000 to day 9130. -/
theorem test_ranges :
    let x := { sched with firstDay := some 9000, lastDay := some 9130 }
    x.meets { sched with firstDay := some 9131 } = false ∧ x.meets { sched with firstDay := some 9130 } = true ∧
    x.meets { sched with lastDay := some 8999 } = false ∧ x.meets sched = true := by decide
/-- 8.3: P2 = 300 kW and F = 60 give 250 kW at level 80 and 150 kW at level 130; the ratio of 320 to 2460 is 130. -/
theorem test_foldback : foldback 300 60 (some 80) = 250 ∧ foldback 300 60 (some 130) = 150 ∧ foldback 300 60 (some 95) = 213 := by decide

/-! One step. -/

theorem test_read_time :
    (after (.readTime []) z).port.buffer = some { status := .ok, payload := [0, 0, 0, 0, 0, 0, 0, 0, 0, 0] } := by decide
theorem test_clear_bank_live : (after (.clearBank [0]) z).port.buffer = some { status := .field, payload := [] } := by
  decide
theorem test_advance_wraps :
    (after .secondAdvance (withClock fun c => { c with second := 86399 })).env.clock.day = 1 := by decide
/-- R211: what follows the reply is 0xFF. -/
theorem test_fill_byte : (after .chipSelectAssert z).port.outByte 1 = some 0 ∧ (after .chipSelectAssert z).port.outByte 2 = some 0xFF := by
  decide
/-- R130, R143: from an unknown azimuth at 1° a second the azimuth term is 359 s, whatever the target; 12 s for the tilt. -/
theorem test_worst_case_estimate :
    turningCfg.estimate ⟨none, none⟩ none 0 = 359 ∧ turningCfg.estimate ⟨some 10, none⟩ none 0 = 12 := by decide
/-- R98, R212: a proving run is an absent occurrence and a present load row. -/
theorem test_run_bytes : (Held.proving 24).bytes = List.replicate 14 0 ++ [1, 24] := by decide
theorem test_idle_step : step z = .next { z with env := { z.env with
    elapsed := 1, clock := { z.env.clock with phase := 1 } } } := rfl

/-! States that meet the hypotheses of the statements, clause by clause. -/

theorem test_meets_StepTakesTheFrontCommand : z.pending = [] := rfl
theorem test_meets_PermitConditionsOneByOne :
    permitConditions airing.env airing.hall 0 = true ∧ permitConditions z.env z.hall 0 = false := by decide
theorem test_meets_PermitsStayGuarded :
    PermitsGuarded airing ∧ (airing.hall.gates.get 0).line = true ∧ step airing = .next (passIdle airing) :=
  ⟨by unfold PermitsGuarded; decide, by decide, rfl⟩
/-- With T0, a FIXED and a ROTATABLE antenna configured. -/
theorem test_meets_SettingsStayInRange : SettingsInRange equipped.env ∧ step equipped = .next (passIdle equipped) := by
  have tx : ∀ t c, equipped.env.tables.tx.get t = some c → c = txCfg := by
    intro t c h
    have := (by decide : ∀ t, (equipped.env.tables.tx.get t).all (· = txCfg) = true) t
    simpa [h] using this
  have ant : ∀ a c, equipped.env.tables.ant.get a = some c → c = fixedCfg ∨ c = turningCfg := by
    intro a c h
    have := (by decide : ∀ a, (equipped.env.tables.ant.get a).all (fun c => c = fixedCfg ∨ c = turningCfg) = true) a
    simpa [h] using this
  refine ⟨⟨by decide, by decide, by decide, by decide, by decide, by decide, by decide, by decide, by decide, by decide,
    by decide, fun t c h => ?_, fun a c h => ?_, by decide⟩, rfl⟩
  · rw [tx t c h]; constructor <;> decide
  · obtain h | h := ant a c h <;> subst h
    · exact ⟨⟨by decide, by decide⟩, by decide, by decide, by decide, fun _ _ _ => rfl⟩
    · exact ⟨⟨by decide, by decide, by decide, by decide⟩, by decide, by decide, by decide, fun _ _ h => by cases h⟩
theorem test_meets_ModeChangesAsTabled :
    (after .hallstopAssert z).env.mode = .stop ∧ (after (.goConfig [0]) (inMode .stop)).env.mode = .config ∧
    (after (.goConfig [0]) (inMode .localKey)).env.mode = .config := by decide +kernel
theorem test_meets_TablesChangeOnlyByTheirRequests : setsTables .nop = false ∧ exec .nop z = .next (after .nop z) :=
  ⟨rfl, rfl⟩
theorem test_meets_LatchedUnitsStayLatched :
    (barredTx.hall.unit (.tx 0)).service = .barred ∧ ((after (.restore [0]) barredTx).hall.unit (.tx 0)).service = .proving ∧
    ((outTx 95).hall.unit (.tx 0)).service = .out ∧
    ((after (.returnUnit [0]) (outTx 95)).hall.unit (.tx 0)).service = .normal := by decide
theorem test_meets_FramesAreReadBack :
    (Instr.addSlot (List.replicate 64 7)).wellFormed = true ∧
    encodeFrame (.addSlot (List.replicate 64 7)) = some (0x20 :: 64 :: List.replicate 64 7) ∧
    encodeFrame (.readTime []) = some [0x12, 0] ∧ (Instr.unknownCommand 0xFF [1]).wellFormed = true ∧
    encodeFrame (.unknownCommand 0xFF [1]) = some [0xFF, 1, 1] := by decide
/-- The boundaries between a frame, a frame error and an empty period. -/
theorem test_meets_PeriodsAreJudged_frames :
    (1 : Nat) ≠ 0 ∧ 64 < (65 : Byte).toNat ∧ ([] : List Byte).length < (1 : Byte).toNat ∧
    ((64 : Byte).toNat ≤ 64 ∧ (64 : Byte).toNat ≤ (List.replicate 64 (0 : Byte)).length) ∧
    (0 : Byte).toNat ≤ ([] : List Byte).length := by decide

def replied : State := { z with port := { z.port with buffer := some { status := .ok, payload := [1] } } }
def held : State := withPins fun p => { p with resetHeld := true }
def discarding : State := { z with port := { z.port with discard := true } }

theorem test_meets_PeriodsAreJudged :
    Received z ∧ ¬Received held ∧ ¬Received discarding ∧ (requestCode (.readTime [])).isSome = true ∧
    (z.port.selected = false ∧ z.port.buffer = none) ∧
    (replied.port.selected = false ∧ replied.port.buffer = some { status := .ok, payload := [1] }) ∧
    ((after .chipSelectAssert replied).port.shifting = some [0, 1, 1] ∧ [0, 1, 1][2]? = some 1 ∧ [0, 1, 1].length ≤ 3) := by
  unfold Received; decide
theorem test_meets_RefusedRequestsChangeNothing :
    Received z ∧ (requestCode (.readTime [0])).isSome = true ∧ exec (.readTime [0]) z = .next (after (.readTime [0]) z) ∧
    (after (.readTime [0]) z).port = z.port.fill (some { status := .field, payload := [] }) ∧
    (after (.readTime []) z).port.buffer.map Reply.status = some .ok :=
  ⟨rfl, rfl, rfl, rfl, rfl⟩
theorem test_meets_RefusalsStandInOrder :
    Received z ∧ requestCodes.contains (0x95 : Byte).toNat = false ∧
    (oneLayout (.readTime [0]) = some ([0], 0) ∧ ([0] : List Byte).length ≠ 0) ∧ ([0] : List Byte).length < 2 ∧
    7 < (List.replicate 8 (0 : Byte)).length ∧
    (configOnly (.setMatrix [1, 2]) = true ∧ oneLayout (.setMatrix [1, 2]) = some ([1, 2], 2) ∧
      Received (inMode .run) ∧ (inMode .run).env.mode ≠ .config) ∧
    (setTransmitterLength [0, 0, 0] = false ∧ setTransmitterLength [0, 0] = true) ∧
    (setAntennaLength [0, 1] = false ∧ setAntennaLength [0, 0] = true) ∧
    (inMode .survey).env.mode = .survey ∧ (inMode .run).env.mode = .run ∧ z.env.mode = .config := by
  unfold Received; decide
/-- The greatest flag set, and the least with a bit above bit 21. -/
theorem test_meets_SetNoticesReplacesEnablesAndRoutes :
    Received z ∧ (0x3F : Byte).toNat * 65536 + (0xFF : Byte).toNat * 256 + (0xFF : Byte).toNat < 2 ^ 22 ∧
    ¬(0x40 : Byte).toNat * 65536 + (0 : Byte).toNat * 256 + (0 : Byte).toNat < 2 ^ 22 := by unfold Received; decide
theorem test_meets_ClearNoticesClearsTheNamed :
    Received z ∧ (0x3F : Byte).toNat * 65536 + (0xFF : Byte).toNat * 256 + (0xFF : Byte).toNat < 2 ^ 22 ∧
    ¬(0x40 : Byte).toNat * 65536 + (0 : Byte).toNat * 256 + (0 : Byte).toNat < 2 ^ 22 := by unfold Received; decide

def marked (st : MarkState) (phase : Nat) : State :=
  withClock fun c => { c with markState := st, markWatch := some 3000, phase := phase }

theorem test_meets_TimeMarkFixesTheSecond :
    (z.env.pins.resetHeld = false ∧ z.env.clock.markState = .off) ∧
    ((marked .waiting 499).env.pins.resetHeld = false ∧ (marked .waiting 499).env.clock.markState ≠ .off ∧
      (marked .waiting 499).env.clock.phase < 500) ∧
    (500 ≤ (marked .lost 500).env.clock.phase ∧ (marked .lost 500).env.clock.markState ≠ .off) ∧
    (marked .waiting 0).env.clock.markWatch = some 3000 ∧ (marked .waiting 0).env.clock.markState = .waiting ∧
    (marked .locked 0).env.clock.markState = .locked := by decide

/-- Second 59 of day 0, a minute boundary with a handover due at the next instant. -/
def minuteEnd (s : State := airing) : State :=
  { s with env := { s.env with
      banks := { s.env.banks with handover := some 60 }
      clock := { s.env.clock with second := 59, valid := true } } }
/-- What T0's context holds, on air since second 0, at a minute boundary that makes units PROVEN and passes a run. -/
def cleaning (held : Held) : State :=
  minuteEnd (withHall (fun h =>
    let proved : UnitRec := { score := 0, service := .proving, provingMinutes := 19 }
    { h with
      ctx := h.ctx.modify 0 fun c => { c with state := .onAir, held := held, spellBegan := some 0 }
      txUnit := h.txUnit.set 0 proved
      antUnit := h.antUnit.set 0 proved
      runs := h.runs.set 0 { running := true, load := some 24, minutes := 19, startedAt := 0, result := .none } }) airing)
/-- The hall at rest in RUN, its crosspoints OPEN and a week old, (T0, row 0) the oldest. -/
def ageing : State :=
  inMode .run (withHall (fun h =>
    { h with ages := (Tab.fill 26 (Tab.fill 16 10080)).modify 0 fun w => w.set 0 10081 }) allOpen)

/-- At the minute boundary, and with the count at its last instant. -/
theorem test_meets_SecondAdvanceCounts :
    ((minuteEnd z).env.clock.advance.valid = true ∧ (minuteEnd z).env.clock.advance.now = 60 ∧
      (minuteEnd z).env.clock.lastBoundary < 60 ∧ (minuteEnd z).env.pins.resetHeld = false ∧
      (minuteEnd z).env.banks.handover = some 60) ∧ z.env.banks.handover = none ∧
    (withClock fun c => { c with day := 65535, second := 86399, valid := true }).env.clock.advance.valid = false := by decide
theorem test_meets_MinuteBoundaryCounts :
    (∀ held ∈ [Held.occurrence occ, .proving 24],
      let s := cleaning held
      s.env.clock.valid = true ∧ s.env.pins.resetHeld = false ∧ s.env.clock.second % 60 = 59 ∧
      ¬(s.env.clock.day = 65535 ∧ s.env.clock.second = 86399) ∧ s.env.clock.lastBoundary ≤ s.env.now ∧
      (s.hall.ctx.get 0).state = .onAir ∧ (s.hall.ctx.get 0).spellBegan = some 0 ∧ 0 + 60 ≤ s.env.now + 1 ∧
      (∀ v : Tx, (s.hall.ctx.get v).state = .onAir → v = 0) ∧
      (s.hall.txUnit.get 0).service = .proving ∧ 20 ≤ (s.hall.txUnit.get 0).provingMinutes + 1 ∧
      (s.hall.runs.get 0).running = true ∧ 20 ≤ (s.hall.runs.get 0).minutes + 1) ∧
    ((cleaning (.occurrence occ)).hall.ctx.get 0).heldRow = some (antRow 0) ∧
    ((cleaning (.proving 24)).hall.ctx.get 0).held = .proving 24 := by decide
/-- Second 10 of day 1 in a minute that has had its boundary, RUN, T0's context changed and its proving run RUNNING. -/
def atSecond (c : Context → Context) : State :=
  withHall (fun h => { (h.modCtx 0 c) with runs := h.runs.modify 0 fun r => { r with running := true } })
    (inMode .run { holding .waiting with env := { (holding .waiting).env with
      clock := { z.env.clock with day := 1, second := 10, valid := true, lastBoundary := 86410 } } })
/-- T0's latest telemetry is OFF with a forward power. -/
def heard (forward : Nat) (s : State) : State :=
  let m : Telemetry :=
    { report := .off, freq := none, forward := forward, reflected := 0, cause := none, ack := none, takenAt := 0 }
  withHall (fun h => h.modLink 0 fun l => { l with telemetry := some m }) s
/-- An entry of the record at place 0 that has come. -/
def comeEntry : DueEntry :=
  { tx := 0, handle := key, start := 86400, finish := 90000, resolved := some 0, lead := 0, long := false, beginAt := 86410
    expectedLate := 0, blocked := none, noAntennaGiven := false }
/-- An occurrence of another record, whose E has come. -/
def overOcc : Occ := { occ with handle := { place := 1, gen := 0 } }

theorem test_meets_SecondBoundaryMovesContexts :
    (∀ p ∈ [(0, true), (10, false)],
      let s := heard p.1 (atSecond id)
      s.env.clock.valid = true ∧ s.env.pins.resetHeld = false ∧ s.env.clock.second % 60 ≠ 59 ∧
      s.env.now - s.env.now % 60 ≤ s.env.clock.lastBoundary ∧ s.env.clock.lastBoundary ≤ s.env.now ∧
      s.hall.recordOf comeEntry.handle = some (record .waiting) ∧ comeEntry.resolved = some 0 ∧
      (s.hall.ctx.get 0).state = .idle ∧ s.hall.quiet 0 = p.2) ∧
    (∀ st ∈ [CtxState.onAir, .ending],
      let s := atSecond fun c => { c with state := st, held := .occurrence overOcc }
      (s.hall.ctx.get 0).state = st ∧ (s.hall.ctx.get 0).held = .occurrence overOcc ∧
      s.hall.recordOf comeEntry.handle = some (record .waiting) ∧ (s.hall.runs.get 0).running = true) ∧
    overOcc.handle.place ≠ comeEntry.handle.place := by decide
/-- The natural ends, each sub-task in its turn the first that is PENDING; the E of `comeEntry` is still to come. -/
theorem test_meets_natural_ends :
    ∀ st ∈ [CtxState.muting, .preparing, .standing, .ramping, .onAir, .restrike, .idle, .ending, .halted],
    ∀ air ∈ [none, some 86410], ∀ first ∈ [0, 1, 2],
      let task (n : Nat) : SubTask := if n < first then .done else .pending
      let s := atSecond fun c => { c with
        state := st, held := .occurrence overOcc, onAirAt := air, tune := task 0, path := task 1, position := task 2 }
      let c := s.hall.ctx.get 0
      c.state = st ∧ c.held = .occurrence overOcc ∧ c.wentOnAir = air.isSome ∧ overOcc.finish ≤ s.env.now ∧
      (first = 0 → c.tune = .pending) ∧ (0 < first → c.tune ≠ .pending) ∧ (first = 1 → c.path = .pending) ∧
      (first = 2 → c.path ≠ .pending) ∧ c.position = .pending ∧ s.env.now < comeEntry.finish := by decide

/-- One candidate beats all others; none is a candidate outside rest. -/
theorem test_meets_auto_exercise :
    ageing.env.mode = .run ∧ 0 < ageing.env.tables.interval ∧ ageing.hall.exercise.phase = .idle ∧
    candidate 60 ageing.env ageing.hall ⟨0, 0⟩ = true ∧
    (∀ y : Tx × Row, y ≠ (0, 0) → ageing.hall.age ⟨y.1, y.2⟩ < ageing.hall.age ⟨0, 0⟩) ∧
    (∀ y : Tx × Row, candidate 60 z.env z.hall ⟨y.1, y.2⟩ = false) := by decide +kernel

def validRun : State := inMode .run (withClock fun c => { c with day := 1, second := 10, valid := true })

/-- The seconds 86399 and 86400, and steps of 2 s and 3 s in RUN. -/
theorem test_meets_SetTimeTakesTheTime :
    Received z ∧ Received validRun ∧
    86399 < (1 : Byte).toNat * 65536 + (0x51 : Byte).toNat * 256 + (0x80 : Byte).toNat ∧
    ((1 : Byte).toNat * 65536 + (0x51 : Byte).toNat * 256 + (0x7F : Byte).toNat ≤ 86399 ∧ z.env.mode ≠ .run) ∧
    (validRun.env.mode = .run ∧ validRun.env.clock.valid = true ∧ validRun.env.now + 2 < 86400 + 13) ∧
    (validRun.env.now ≤ (86400 + 12) + 2 ∧ 86400 + 12 ≤ validRun.env.now + 2) := by unfold Received; decide
def withBanks (f : Banks → Banks) : State := { z with env := { z.env with banks := f z.env.banks } }

theorem test_meets_LocksAndFreeze :
    Received z ∧ z.env.banks.freeze = false ∧ Received (withBanks fun b => { b with freeze := true }) ∧
    (withBanks fun b => { b with freeze := true }).env.banks.freeze = true := by unfold Received; decide
/-- Minutes 1440 and 1439; no valid time; H set; H passed; H taken. -/
theorem test_meets_HandoverIsSetAndCancelled :
    Received z ∧ 1439 < (5 : Byte).toNat * 256 + (0xA0 : Byte).toNat ∧
    ¬1439 < (5 : Byte).toNat * 256 + (0x9F : Byte).toNat ∧ z.env.clock.valid = false ∧
    (Received validRun ∧ validRun.env.clock.valid = true ∧ validRun.env.banks.handover = none ∧
      (86400 + 0 * 60 ≤ validRun.env.now) ∧ ¬86400 + 1 * 60 ≤ validRun.env.now) ∧
    (withBanks fun b => { b with handover := some 60 }).env.banks.handover ≠ none := by unfold Received; decide
/-- H stands at `hh`; place 0 holds a record of B, the STANDBY bank, or of A, the LIVE one; T0's context is in a state with
an occurrence of the bank, or in ENDING keeps one. -/
def handing (hh : Nat) (k : Bank) (st : CtxState) : State :=
  let o := if st = .ending then Held.nothing else .occurrence { occ with bank := k }
  let kept := if st = .ending then some { handle := key, start := 43200, finish := 46800, row := 0 } else none
  let r := { record .waiting with sched := { sched with bank := k } }
  { z with
    env := { z.env with banks := { z.env.banks with handover := some hh } }
    hall := (z.hall.setRecord 0 (some r)).modCtx 0 fun c => { c with state := st, held := o, kept := kept } }
theorem test_meets_HandoverOfContexts :
    z.env.banks.live = .a ∧ (handing 1 .b .onAir).env.banks.handover ≠ none ∧ (handing 1 .b .onAir).env.now < 1 ∧
    (handing 0 .a .onAir).env.banks.handover = some 0 ∧ 0 ≤ (handing 0 .a .onAir).env.now ∧
    (∀ k ∈ [Bank.a, .b], ∀ st ∈ [CtxState.muting, .preparing, .standing, .ramping, .onAir, .restrike],
      let c := (handing 1 k st).hall.ctx.get 0
      c.state.working = true ∧ c.held = .occurrence { occ with bank := k } ∧ c.kept = none) ∧
    (∀ k ∈ [Bank.a, .b],
      let h := (handing 1 k .ending).hall
      (h.ctx.get 0).state.working = false ∧ (h.ctx.get 0).kept.isSome = true ∧ h.keepsAlone 0 ∧
      (h.recordOf key).any (fun r => r.sched.bank = k) = true) ∧
    ((holding .waiting).hall.uninvolved 0 ∧ (holding .waiting).hall.recordAt 0 = some (record .waiting) ∧
      (record .waiting).sched.bank = .b ∧ (record .waiting).state = .waiting) := by
  unfold Hall.keepsAlone Hall.uninvolved; decide

/-- The slot image of the test record; ADD SLOT's image, and AMEND SLOT's that names power alone. -/
def image : List Byte := imageBytes key sched
def amendImagePower : List Byte := (image.set 2 0x08).set 3 0

theorem test_meets_AddSlotStoresARecord :
    Received equipped ∧ image.length = 28 ∧ addLayout image = true ∧ addImage image = some sched ∧ sched.fieldsOk = true ∧
    configuredFor equipped.env sched = true ∧ equipped.env.banks.locked sched.bank = false ∧
    reachCheck equipped.env sched = none ∧ equipped.hall.lowestFree = some 0 ∧
    conflictOf equipped.hall none (clampSchedule equipped.env sched) = none ∧ equipped.hall.uninvolved 0 := by
  unfold Received Hall.uninvolved; decide +kernel
/-- R27: a rating of 300 kW, an antenna of 600 kW with one tilt, a load of 150 kW, a group; the cut allowance of 255 s. -/
theorem test_meets_clamps :
    equipped.env.tables.tx.get 0 = some txCfg ∧ equipped.env.tables.ant.get 0 = some fixedCfg ∧
    (∀ x ∈ [(Target.antenna 0, 300, 0), (.load 0, 150, 0), (.group 0, 300, 3)],
      let c := clampSchedule equipped.env { sched with target := x.1, power := 600, tilt := 3, cut := 255 }
      c.power = x.2.1 ∧ c.tilt = x.2.2 ∧ c.cut = 180) := by decide
/-- The bands and azimuths of R25, R26 and R129, and the conflicts of R29, met and not met. -/
theorem test_meets_checks :
    let s := withTables (fun t => { t with group := t.group.set 0 [0] }) (holding .waiting)
    let toGroup (g : GroupNo) (z : Option Nat) := { sched with target := .group g, azimuth := z }
    (bandOk s.env (toGroup 0 none) = true ∧ bandOk s.env (toGroup 1 none) = false) ∧
    (azimuthOk s.env (toGroup 0 (some 330)) = true ∧ azimuthOk s.env (toGroup 0 (some 31)) = false) ∧
    azimuthOk s.env { sched with target := .load 0, azimuth := some 0 } = false ∧
    conflictOf s.hall none { sched with tx := 1 } = some .conflictAnt ∧
    conflictOf s.hall none { sched with tx := 1, target := .load 0 } = none ∧ conflictOf s.hall (some 0) sched = none := by
  decide +kernel
/-- One state or image for each refusal: no such bank; a duration of 4 min; T0 unconfigured; bank B locked; 2299 kHz below
every band is a FIELD already, so a band that ends at 9000 kHz; an azimuth out of reach; the record itself standing. -/
theorem test_meets_AddSlotRefusesInOrder :
    Received equipped ∧ addImage (image.set 4 2) = none ∧
    ((addImage (image.set 9 4)).map Schedule.fieldsOk = some false) ∧ configuredFor z.env sched = false ∧
    (withBanks fun b => { b with lockB := true }).env.banks.locked sched.bank = true ∧
    bandOk (withTables (fun t => { t with tx := t.tx.set 0 (some { txCfg with bandHigh := 9000 }) }) equipped).env sched
      = false ∧
    azimuthOk equipped.env { sched with azimuth := some 90 } = false ∧
    conflictOf (holding .waiting).hall none (clampSchedule (holding .waiting).env sched) = some .conflictTx := by
  unfold Received; decide +kernel
theorem test_meets_AmendSlotReplacesTheFields :
    let s := holding .waiting
    Received s ∧ amendImagePower.length = 28 ∧
    namedRecord s.hall (wordAt amendImagePower 0) = .ok (key, record .waiting) ∧
    s.env.banks.locked (record .waiting).sched.bank = false ∧ amendLayout amendImagePower = true ∧
    (record .waiting).suspendPending = false ∧ amendImage amendImagePower (record .waiting).sched = some sched ∧
    sched.fieldsOk = true ∧ configuredFor s.env sched = true ∧ reachCheck s.env sched = none ∧
    conflictOf s.hall (some 0) (clampSchedule s.env sched) = none ∧ s.hall.uninvolved 0 := by
  unfold Received Hall.uninvolved; decide +kernel
theorem test_meets_AmendSuspended :
    (record .suspended).state = .suspended ∧ (record .suspended).suspendPending = false ∧
    namedRecord (holding .suspended).hall (wordAt amendImagePower 0) = .ok (key, record .suspended) := by decide
/-- Place 0 holds a record in flight, which T0 holds in a context state, or keeps. -/
def inFlight (r : Record) (st : CtxState) (kept : Bool := false) : State :=
  withHall (fun h => (h.setRecord 0 (some r)).modCtx 0 fun c =>
    if kept then { c with state := .ending, kept := some { handle := key, start := 43200, finish := 46800, row := 0 } }
    else { c with state := st, held := .occurrence occ }) equipped
def amendImageDuration : List Byte := ((image.set 2 0).set 3 8)

/-- On air and preparing; power and duration; an E to come and one that has come. -/
theorem test_meets_AmendInFlight :
    (∀ x ∈ [(RecState.onAir, CtxState.onAir), (.preparing, .preparing), (.preparing, .muting)],
      ∀ p ∈ [amendImagePower, amendImageDuration],
      let s := inFlight (record x.1) x.2
      Received s ∧ p.length = 28 ∧ namedRecord s.hall (wordAt p 0) = .ok (key, record x.1) ∧ amendLayout p = true ∧
      amendImage p sched = some sched ∧ conflictOf s.hall (some 0) (clampSchedule s.env sched) = none ∧
      s.hall.keptBy key = none ∧ s.hall.heldBy key = some 0 ∧ (s.hall.ctx.get 0).held = .occurrence occ ∧
      (s.hall.ctx.get 0).state.working = true) ∧
    (amends amendImagePower .duration = false ∧ amends amendImageDuration .duration = true) ∧
    (∀ f ∈ slotFields, amends amendImagePower f = true → f = .duration ∨ f = .power) ∧
    (∀ f ∈ slotFields, amends amendImageDuration f = true → f = .duration ∨ f = .power) ∧
    z.env.now < 46800 ∧ ¬(withClock fun c => { c with second := 46800 }).env.now < 46800 := by
  unfold Received; decide +kernel
/-- A handle of no place, a free place, bank B locked, the bank named, a record ENDING, a duration of 4 min. -/
theorem test_meets_AmendSlotRefusesInOrder :
    Received (holding .ending) ∧ 1024 ≤ wordAt (image.set 0 4) 0 % 4096 ∧
    wordAt image 0 = (0 : Fin 16).val * 4096 + (0 : PlaceNo).val ∧ z.hall.recordAt 0 = none ∧
    (holding .ending).hall.recordAt 0 = some (record .ending) ∧ ((holding .ending).hall.slots.get 0).gen = 0 ∧
    ((holding .ending).hall.slots.get 0).gen ≠ 1 ∧ (withBanks fun b => { b with lockB := true }).env.banks.locked .b = true ∧
    amendLayout image = false ∧ amendLayout amendImageDuration = true ∧
    (amendImage (amendImageDuration.set 9 4) sched).map Schedule.fieldsOk = some false ∧
    amendImage (((image.set 2 0).set 3 2).set 5 16) sched = none := by
  unfold Received; decide
/-- The forms of R36 and R38 on a record in flight. -/
theorem test_meets_RetireInFlight :
    (∀ x ∈ [(RecState.preparing, CtxState.preparing), (.preparing, .muting), (.onAir, .onAir), (.onAir, .standing)],
      let s := inFlight (record x.1) x.2
      Received s ∧ s.hall.inFlight key (record x.1) = true ∧ (record x.1).retire = none ∧ s.hall.keptBy key = none ∧
      s.hall.heldBy key = some 0 ∧ (s.hall.ctx.get 0).held = .occurrence occ ∧ (s.hall.ctx.get 0).state.working = true ∧
      (record x.1).current = none ∧ (record x.1).suspendPending = false) ∧
    (∀ st ∈ [CtxState.onAir, .ending], ∀ o ∈ [RetireOpt.now, .atEnd],
      let r := { record .retiring with retire := some o }
      (inFlight r st).hall.inFlight key r = true ∧ (inFlight r st).hall.keptBy key = none ∧
      (inFlight r st).hall.heldBy key = some 0 ∧ ((inFlight r st).hall.ctx.get 0).state = st) ∧
    (let s := inFlight (record .waiting) .ending true
     s.hall.inFlight key (record .waiting) = true ∧ s.hall.keptBy key = some 0 ∧ (record .waiting).current = none ∧
     (s.hall.ctx.get 0).kept = some { handle := key, start := 43200, finish := 46800, row := 0 }) := by
  unfold Received; decide
theorem test_meets_SuspendPending :
    { record .ending with suspendPending := true }.suspendPending = true ∧ (record .ending).state = .ending ∧
    (record .onAir).state ≠ .retiring ∧ (record .onAir).state ≠ .suspended := by decide
theorem test_meets_RetireSlotFreesThePlace :
    let s := holding .waiting
    let u := holding .onAir
    Received s ∧ byteAt [0, 0, 1] 2 ≤ 1 ∧ namedRecord s.hall (wordAt [0, 0, 1] 0) = .ok (key, record .waiting) ∧
    s.hall.inFlight key (record .waiting) = false ∧ s.hall.uninvolved 0 ∧
    namedRecord u.hall (wordAt [0, 0, 1] 0) = .ok (key, record .onAir) ∧ u.hall.inFlight key (record .onAir) = true ∧
    s.env.banks.locked sched.bank = false := by unfold Received Hall.uninvolved; decide
/-- The refusals of RETIRE SLOT, SUSPEND SLOT and RESUME SLOT: no such place, a free place, another generation, bank B
locked, no such option. -/
theorem test_meets_HandleRefusals :
    let locked : State := { holding .waiting with env := { equipped.env with banks := { equipped.env.banks with lockB := true } } }
    1023 < wordAt [4, 0] 0 % 4096 ∧ (0 : PlaceNo).val = wordAt [0, 0] 0 % 4096 ∧ Received z ∧ z.hall.recordAt 0 = none ∧
    Received locked ∧ locked.hall.recordAt 0 = some (record .waiting) ∧
    (locked.hall.slots.get 0).gen.val ≠ wordAt [16, 0] 0 / 4096 ∧ (locked.hall.slots.get 0).gen.val = wordAt [0, 0] 0 / 4096 ∧
    locked.env.banks.locked (record .waiting).sched.bank = true ∧ 1 < byteAt [0, 0, 2] 2 ∧
    namedRecord (holding .waiting).hall (wordAt [0, 0, 2] 0) = .ok (key, record .waiting) := by
  unfold Received; decide
theorem test_meets_SuspendAndResume :
    ∀ st ∈ [RecState.retiring, .dormant, .waiting, .suspended],
      Received (holding st) ∧ namedRecord (holding st).hall (wordAt [0, 0] 0) = .ok (key, record st) ∧
      (record st).suspendPending = false ∧ (holding st).hall.uninvolved 0 ∧
      (holding st).env.banks.locked (record st).sched.bank = false := by unfold Received Hall.uninvolved; decide
/-- Place 0 holds a STANDBY record at rest, place 1 a LIVE one that T0 has on air. -/
def liveOnAir : State :=
  withHall (fun h => (h.setRecord 1 (some { record .onAir with sched := { sched with bank := .a } })).modCtx 0 fun c =>
    { c with state := .onAir, held := .occurrence { occ with handle := ⟨1, 0⟩, bank := .a } }) (holding .waiting)
/-- Bank A is LIVE; B locked; B with a record in flight; B with a record at rest while the LIVE bank is on air. -/
theorem test_meets_ClearBankFreesTheStandby :
    Received z ∧ z.env.banks.live = .a ∧ (withBanks fun b => { b with lockB := true }).env.banks.locked .b = true ∧
    (holding .onAir).hall.bankInFlight .b ≠ 0 ∧ (holding .waiting).hall.bankInFlight .b = 0 ∧
    (Received liveOnAir ∧ liveOnAir.env.banks.locked .b = false ∧ liveOnAir.hall.bankInFlight .b = 0 ∧
      (∃ o, (liveOnAir.hall.ctx.get 0).occ = some o ∧ o.bank = .a) ∧
      ∀ q r, liveOnAir.hall.recordAt q = some r → r.sched.bank = .b → liveOnAir.hall.uninvolved q) := by
  have one : (liveOnAir.hall.recordAt 1).map (fun r => r.sched.bank) = some .a := by decide +kernel
  have rest : ∀ q, q ≠ 1 → liveOnAir.hall.uninvolved q := by unfold Hall.uninvolved; decide +kernel
  refine ⟨rfl, rfl, rfl, by decide +kernel, by decide +kernel, rfl, rfl, by decide +kernel, ⟨_, rfl, rfl⟩, fun q r hr hb => ?_⟩
  by_cases hq : q = 1
  · subst hq; rw [hr] at one; simp [hb] at one
  · exact rest q hq
theorem test_meets_ReadAndFindSlots :
    Received (holding .waiting) ∧ ([0, 0] : List Byte) = b2 (0 * 4096 + 0) ∧ ([0x10, 0] : List Byte) = b2 (1 * 4096 + 0) ∧
    (holding .waiting).hall.recordAt 0 = some (record .waiting) ∧ (holding .waiting).hall.recordAt 1 = none ∧
    1024 ≤ wordAt [4, 0] 0 % 4096 ∧
    findOf [0xFF, 0xFF, 0xFF, 0xFF, 0xFF, 0xFF] = some { bank := none, tx := none, target := none, after := none } ∧
    (1 < (2 : Byte).toNat ∧ (2 : Byte) ≠ 0xFF) ∧ (findOf [1, 15, 0, 23, 3, 0xFF]).isSome = true := by
  unfold Received; decide
/-- The boundary values of the clauses that refuse a field. -/
theorem test_meets_ReadsOfTheHallChangeNothing :
    Received z ∧ (15 : Byte).toNat ≤ 15 ∧ 15 < (16 : Byte).toNat ∧ 16 ≤ (16 : Byte).toNat ∧ 26 ≤ (26 : Byte).toNat ∧
    4 < (5 : Byte).toNat ∧ (4 : Byte).toNat ≤ 4 ∧ (63 : Byte).toNat ≤ 63 ∧ 63 < (64 : Byte).toNat ∧
    (31 : Byte).toNat < 32 ∧ 56 ≤ (56 : Byte).toNat ∧ (56 : Byte) ≠ 0xFF := by unfold Received; decide
theorem test_meets_ReadPlanGivesTheOutcomeOnce : Received z ∧ 16 ≤ (16 : Byte).toNat := by unfold Received; decide
theorem test_meets_NoticeLinesFollowTheFlags : Received z ∧ z.hall.flags = 0 := ⟨rfl, rfl⟩
theorem test_meets_NoticeRequestsOfAnotherLength : ([0, 0, 0, 0, 0] : List Byte).length ≠ 6 ∧ ([0, 0] : List Byte).length ≠ 3 := by
  decide
/-- For ReadTimeAndBanks. -/
theorem test_meets_Received : Received z := rfl

theorem test_meets_MuteFailureBars :
    ∀ st ∈ [CtxState.muting, .ending],
      ((context st .mute).hall.ctx.get 0).timer = some { kind := .mute, expiry := 13000, length := 13000 } ∧
      ((context st .mute).hall.ctx.get 0).state = st := by decide
/-- T0's context with its occurrence's record at place 0, another of an occurrence it may keep at place 1, and a run. -/
def failing (f : Context → Context) (s : State) : State :=
  withHall (fun h => { ((h.setRecord 0 (some (record .preparing))).setRecord 1 (some (record .waiting))).modCtx 0 f with
    runs := h.runs.set 0 { running := true, load := some 24, minutes := 3, startedAt := 0, result := .none } }) s
theorem test_meets_mute_failure_outcomes :
    let d : Decided := { outcome := .cut, reason := some .command, ended := 43300 }
    let k : Kept := { handle := ⟨1, 0⟩, start := 46800, finish := 50400, row := 0 }
    let m := failing id (context .muting .mute)
    let e := failing (fun c => { c with decided := some d, kept := some k }) (context .ending .mute)
    ((m.hall.ctx.get 0).state = .muting ∧ (m.hall.ctx.get 0).held = .occurrence occ ∧ (m.hall.runs.get 0).running = true ∧
      m.hall.recordOf key = some (record .preparing)) ∧
    (e.hall.ctx.get 0).state = .ending ∧ (e.hall.ctx.get 0).held = .occurrence occ ∧ (e.hall.ctx.get 0).decided = some d ∧
    (e.hall.ctx.get 0).kept = some k ∧ occ.handle.place ≠ k.handle.place ∧
    e.hall.recordOf k.handle = some (record .waiting) := by decide
theorem test_meets_TuningTimerRunsOut :
    ∀ n ∈ [1, 2],
      let s := context .preparing .tuning n
      (s.hall.ctx.get 0).timer = some { kind := .tuning, expiry := 13000, length := 13000 } ∧
      (s.hall.ctx.get 0).state = .preparing ∧ (s.hall.ctx.get 0).tune = .pending ∧
      (s.hall.ctx.get 0).held = .occurrence occ ∧ (s.hall.ctx.get 0).tuneAttempts = n := by decide
/-- R168, R170, R172: 8 is added to a score of 88, of 120, of 246, of 247, to a PROVING unit, and to none of BARRED. -/
theorem test_scored :
    [(88, Service.normal), (120, .watch), (246, .reduced), (247, .reduced), (0, .proving), (255, .barred)].map (fun x =>
      let u := UnitRec.scored { score := x.1, service := x.2, provingMinutes := 0 } 8
      (u.score, u.service)) =
      [(96, .watch), (128, .reduced), (254, .reduced), (255, .barred), (255, .barred), (255, .barred)] := by decide
theorem test_meets_RampAndPauseTimersRunOut :
    (let s := context .ramping .ramp
     (s.hall.ctx.get 0).timer = some { kind := .ramp, expiry := 13000, length := 13000 } ∧
     (s.hall.ctx.get 0).state = .ramping ∧ (s.hall.ctx.get 0).heldRow = some 0) ∧
    (let s := context .restrike .pause
     (s.hall.ctx.get 0).timer = some { kind := .pause, expiry := 13000, length := 13000 } ∧
     (s.hall.ctx.get 0).state = .restrike) := by decide
/-- After a trip of T0: trips few and too many, the limit of a REDUCED antenna, a BARRED antenna, and a proving run. -/
theorem test_meets_trip_decisions :
    (let count (n : Nat) := ((List.replicate n 0 ++ [z.env.now]).filter fun i => z.env.now < i + 60).length
     count 0 ≤ 1 ∧ ¬count 1 ≤ 1 ∧ count 2 ≤ 3 ∧ ¬count 3 ≤ 3) ∧
    ((z.hall.txUnit.get 0).scored 8).service = .normal ∧ rowAnt 0 = some 0 ∧
    (∀ v ∈ [Service.reduced, .proving, .barred],
      ((withHall (fun h => { h with antUnit := h.antUnit.set 0 { score := 0, service := v, provingMinutes := 0 } })
        (context .ramping .ramp)).hall.antUnit.get 0).service = v) ∧
    ((barredTx.hall.txUnit.get 0).scored 8).service = .barred ∧
    (let s := failing (fun c => { c with held := .proving 24 }) (context .ramping .ramp)
     (s.hall.ctx.get 0).heldRow = some 24 ∧ (s.hall.runs.get 0).running = true) := by decide

/-- SET TRANSMITTER of T0: a band of one frequency, one that is turned round, and NONE. -/
def txBytes (low high : Nat) : List Byte := [0, 1] ++ b2 40 ++ b2 low ++ b2 high ++ [1, 240, 100, 60]

theorem test_meets_TransmitterTableIsSet :
    Received z ∧ z.env.mode = .config ∧ byteAt (txBytes 2300 2300) 0 = (0 : Tx).val ∧ (txBytes 2300 2300).length = 12 ∧
    byteAt (txBytes 2300 2300) 1 = 1 ∧ (z.hall.ctx.get 0).state = .idle ∧ (z.hall.ctx.get 0).held = .nothing ∧
    (txBytes 2301 2300).length = 12 ∧ wordAt (txBytes 2301 2300) 4 = 2301 ∧ wordAt (txBytes 2301 2300) 6 = 2300 ∧
    (([0, 0] : List Byte).length = 2 ∧ byteAt [0, 0] 0 = 0 ∧ byteAt [0, 0] 1 = 0) ∧
    (([0, 0, 0] : List Byte).length ≠ 2 ∧ 15 < byteAt [16, 0] 0 ∧ 1 < byteAt [0, 2] 1 ∧ (inMode .run).env.mode ≠ .config) ∧
    (Received (context .halted .mute) ∧ ((context .halted .mute).hall.ctx.get 0).state ≠ .idle) ∧
    equipped.env.txConfigured 0 = true := by unfold Received; decide

/-- SET ANTENNA of A1 as FIXED: bearings 359 and 360, and a band turned round. -/
def antBytes (low bearing : Nat) : List Byte := [1, 1] ++ b2 low ++ b2 2300 ++ b2 600 ++ [1] ++ b2 bearing ++ [30]

theorem test_meets_AntennasLoadsAndGroupsAreSet :
    Received z ∧ z.env.mode = .config ∧ byteAt (antBytes 2300 359) 0 = (1 : Ant).val ∧
    (byteAt (antBytes 2300 359) 1 = 1 ∧ (antBytes 2300 359).length = 12) ∧ (antBytes 2300 359 ++ [1, 1]).length = 14 ∧
    (antBytes 2300 359 ++ [1]).length = 13 ∧
    wordAt (antBytes 2300 359) 9 = 359 ∧ wordAt (antBytes 2300 360) 9 = 360 ∧
    (wordAt (antBytes 2301 0) 2 = 2301 ∧ wordAt (antBytes 2301 0) 4 = 2300) ∧
    (z.hall.pos.get 1).state ≠ .moving ∧ (Received going ∧ (going.hall.pos.get 1).state = .moving) ∧
    ([24, 0, 9] : List Byte).length = 3 ∧ byteAt [24, 0, 9] 0 = 24 + (0 : LoadNo).val ∧ byteAt [23, 0, 9] 0 < 24 ∧
    25 < byteAt [26, 0, 9] 0 ∧ ([0, 1, 2, 3, 4, 23] : List Ant).length ≤ 6 ∧ ([0, 1, 2, 3, 4, 23] : List Ant).Nodup ∧
    ¬([1, 1] : List Ant).Nodup ∧ ([0, 1] : List Byte).length ≠ 12 ∧
    (([0, 0] : List Byte).length = 2 ∧ (inMode .run).env.mode ≠ .config) ∧ 23 < byteAt [24, 0] 0 ∧ 3 < byteAt [0, 4] 1 ∧
    7 < byteAt [8, 0] 0 ∧ (∃ b ∈ ([0, 24] : List Byte).tail, 23 < b.toNat) := by unfold Received; decide
/-- R126, R127: a SLEW entry with every field above its range, and a ROTATABLE one with every field below it. -/
theorem test_antenna_clamps :
    let s := after (.setAntenna ([1, 2] ++ b2 30000 ++ b2 30000 ++ b2 700 ++ [5] ++ b2 359 ++ [46, 31, 61])) z
    let r := after (.setAntenna ([1, 3] ++ b2 0 ++ b2 0 ++ b2 0 ++ [0] ++ b2 0 ++ [0, 0])) z
    (s.env.tables.ant.get 1).map AntCfg.kind = some (.slew 359 45 30 60) ∧
    s.port.buffer = some { status := .ok, payload := [4, 0xCF] } ∧
    (r.env.tables.ant.get 1).map AntCfg.kind = some (.rotatable 0 1 1) ∧
    r.port.buffer = some { status := .ok, payload := [6, 0x0F] } := by decide
theorem test_meets_SettingsAreClamped :
    Received z ∧ z.env.mode = .config ∧ z.env.clock.markState = .off ∧
    (Received (marked .lost 0) ∧ (marked .lost 0).env.clock.markState ≠ .off) ∧ 1 < (2 : Byte).toNat ∧
    6 < (7 : Byte).toNat ∧ (6 : Byte).toNat ≤ 6 := by unfold Received; decide

/-- T0's pending PRESET rides the poll of an ACTIVE link that holds telemetry; without telemetry it waits. -/
def handed (tel : Option Telemetry) : State :=
  withHall (fun h => { h with links := h.links.modify 0 fun l =>
    { l with pending := some { freq := 9410, programme := 1, power := 250, number := none, tuning := true }
             telemetry := tel } }) equipped
def telemetry : Telemetry :=
  { report := .ready, freq := some 9410, forward := 0, reflected := 0, cause := none, ack := none, takenAt := 0 }
/-- A1 has a request, a GO or an outstanding STOP when its poll goes out. -/
def steering (f : PosRec → PosRec) : State :=
  withHall (fun h => { (h.modPos 1 f) with
    rows := h.rows.modify 1 fun w => { w with res := .claimed 0 }
    claims := h.claims.set 0 (some { row := 1, deadline := 0, status := .granted, formers := [], deferred := [] }) }) equipped

theorem test_meets_PollCyclesBegin :
    (equipped.env.pins.resetHeld = false ∧ equipped.hall.hallPoll = [] ∧ equipped.hall.posPoll = [] ∧
      equipped.env.linksSilent = false) ∧
    (((handed (some telemetry)).hall.links.get 0).pending.isSome = true ∧
      ((handed (some telemetry)).hall.links.get 0).state = .active ∧
      ((handed (some telemetry)).hall.links.get 0).telemetry.isSome = true ∧
      ((handed none).hall.links.get 0).telemetry.isSome = false) ∧
    (after .hallPollCycle (handed none)).hall.hallPoll.head? = some 0 ∧
    (after .positionerPollCycle equipped).hall.posPoll.head? = some 1 ∧
    ((steering fun p => { p with stopOutstanding := true }).hall.pos.get 1).stopOutstanding = true ∧
    (equipped.hall.pos.get 1).stopOutstanding = false ∧ goNow equipped.env equipped.hall 1 = none ∧
    (going.hall.pos.get 1).stopOutstanding = false ∧
    goNow going.env going.hall 1 = some (going.hall.pos.get 1) := by decide +kernel

/-- A telemetry frame of T0: LOCAL, and TRIPPED with an unknown cause and powers above the range. -/
def localFrame : List Byte := withCheck ([0, 5] ++ b2 9410 ++ b2 0 ++ b2 0 ++ [0, 0, 0])
def otherFrame : List Byte := withCheck ([1, 0] ++ b2 9410 ++ b2 0 ++ b2 0 ++ [0, 0, 0])
def trippedFrame : List Byte := withCheck ([0, 4] ++ b2 26101 ++ b2 6001 ++ b2 6001 ++ [6, 1, 9])

theorem test_meets_TelemetryIsTaken :
    polling.hall.hallPoll = [0] ∧ (telemetryOf localFrame).map TelemetryFrame.tx = some 0 ∧
    (telemetryOf localFrame).map TelemetryFrame.report = some .localCtl ∧
    (telemetryOf trippedFrame).map TelemetryFrame.tx = some 0 ∧
    (telemetryOf trippedFrame).map TelemetryFrame.report = some .tripped ∧
    (∀ f, telemetryOf [0] = some f → f.tx ≠ 0) ∧ (∀ f, telemetryOf otherFrame = some f → f.tx ≠ 0) ∧
    (polling.hall.links.get 0).state ≠ .localCtl ∧ (polling.hall.links.get 0).state ≠ .silent := by
  refine ⟨by decide, by decide, by decide, by decide, by decide, fun f h => ?_, fun f h => ?_, by decide, by decide⟩
  · cases h
  · have : (telemetryOf otherFrame).map TelemetryFrame.tx = some 1 := by decide
    rw [h] at this; simp at this; simp [this]
/-- T0 is polled in a context state, on CONNECTED row 0, with one kept occurrence of another record in ENDING. -/
def stopping (st : CtxState) : State :=
  withHall (fun h =>
    { ((h.setRecord 1 (some (record .waiting))).modCtx 0 fun c =>
        { c with state := st, held := .occurrence occ
                 decided := if st = .ending then some { outcome := .complete, reason := none, ended := 46800 } else none
                 kept := if st = .ending then some { handle := ⟨1, 0⟩, start := 46800, finish := 50400, row := 0 }
                   else none }) with
      hallPoll := [0] }) airing
theorem test_meets_LinkStops :
    (∀ st ∈ [CtxState.muting, .preparing, .standing, .ramping, .onAir, .restrike],
      (stopping st).hall.hallPoll = [0] ∧ ((stopping st).hall.ctx.get 0).state.working = true ∧
      ((stopping st).hall.ctx.get 0).held = .occurrence occ) ∧
    ((stopping .ending).hall.ctx.get 0).decided = some { outcome := .complete, reason := none, ended := 46800 } ∧
    ((stopping .ending).hall.ctx.get 0).kept = some { handle := ⟨1, 0⟩, start := 46800, finish := 50400, row := 0 } ∧
    (stopping .ending).hall.recordOf ⟨1, 0⟩ = some (record .waiting) ∧ (record .waiting).state ≠ .retiring ∧
    ((stopping .onAir).hall.links.get 0).state = .active ∧ (stopping .onAir).hall.queue = [] ∧
    (stopping .onAir).hall.res 0 = .connected 0 ∧ (∀ q : Row, q ≠ 0 → (stopping .onAir).hall.res q ≠ .connected 0) := by
  decide

/-- A telemetry frame of T0 at 9410 kHz that acknowledges number 9. -/
def replyFrame (report forward : Nat) : List Byte :=
  withCheck ([0, BitVec.ofNat 8 report] ++ b2 9410 ++ b2 forward ++ b2 0 ++ [1, 1, 9])
/-- T0 is polled in a context state, with number 9 its tune PRESET's and 25.0 kW requested. -/
def listening (c : Context → Context) : State :=
  withHall (fun h => { (h.modCtx 0 c) with
    hallPoll := [0]
    power := h.power.modify 0 fun w => { w with requested := some 250 }
    links := h.links.modify 0 fun l => { l with ackNumbers := [9] } }) (holding .preparing)
theorem test_meets_TelemetryMovesTheContext :
    (∀ x ∈ [(2, TxReport.ready), (3, .on), (4, .tripped), (6, .fault)],
      (telemetryOf (replyFrame x.1 9)).map TelemetryFrame.tx = some 0 ∧
      (telemetryOf (replyFrame x.1 9)).map TelemetryFrame.report = some x.2 ∧
      (telemetryOf (replyFrame x.1 9)).map TelemetryFrame.freq = some 9410 ∧
      (telemetryOf (replyFrame x.1 9)).map TelemetryFrame.ack = some (some 9)) ∧
    (∀ st ∈ [CtxState.muting, .preparing, .ramping, .onAir, .ending], ∀ n ∈ [1, 2],
      let s := listening fun c => { c with
        state := st, held := .occurrence occ, tune := .pending, tuneAttempts := n
        kept := if n = 1 then none else some { handle := key, start := 43200, finish := 46800, row := 0 } }
      s.hall.hallPoll = [0] ∧ (s.hall.ctx.get 0).state = st ∧ (s.hall.ctx.get 0).held = .occurrence occ ∧
      (s.hall.ctx.get 0).tune = .pending ∧ (s.hall.ctx.get 0).tuneAttempts = n ∧ occ.freq = 9410 ∧
      9 ∈ (s.hall.links.get 0).ackNumbers ∧ (s.hall.power.get 0).requested = some 250 ∧
      9 * 250 ≤ min 2250 6000 ∧ ¬9 * 250 ≤ min 2249 6000 ∧ (s.hall.ctx.get 0).onAirAt = none ∧
      (s.hall.ctx.get 0).heldRow = some 0 ∧ (s.hall.ctx.get 0).trips = [] ∧ (s.hall.unit (.tx 0)).service = .normal ∧
      (s.hall.unit (.ant 0)).service = .normal ∧ (s.hall.unit (.tx 0)).score < 239 ∧
      s.hall.recordOf key = some (record .preparing)) ∧
    (∀ held ∈ [Held.nothing, .proving 24],
      ((listening fun c => { c with state := .ending, held := held }).hall.ctx.get 0).held = held) := by decide
theorem test_meets_TelemetryMissed :
    ∀ n ∈ [1, 2, 3], ((withHall (fun h => { h with links := h.links.modify 0 fun l => { l with missed := n } })
      polling).hall.links.get 0).missed = n := by decide
theorem test_meets_PositionerRepliesAreTaken :
    polling.hall.posPoll = [1] ∧ (1 : Ant) ∉ ([] : List Ant) ∧ polling.env.steers 1 = true ∧ motionOf (0 : Byte).toNat = some .idle ∧
    motionOf (1 : Byte).toNat = some .moving ∧ motionOf (2 : Byte).toNat = some .fault ∧
    (1 : Byte).toNat * 256 + (0x67 : Byte).toNat < 360 ∧ (polling.hall.pos.get 1).go = none ∧
    (polling.hall.pos.get 1).state ≠ .fault ∧ (going.hall.pos.get 1).go.isSome = true ∧ going.hall.posPoll = [1] ∧
    ((going.hall.pos.get 1).go.map GoRec.outstanding = some true ∧ (1 : Byte) = 1 ∧ (0 : Byte) ≠ 1) ∧
    ((0 : Byte).toNat = 0 ∧ angularDifference ((0 : Byte).toNat * 256 + (91 : Byte).toNat) 90 ≤ 1 ∧
      ¬angularDifference ((0 : Byte).toNat * 256 + (92 : Byte).toNat) 90 ≤ 1) := by
  decide
theorem test_meets_PositionerMissed :
    ∀ n ∈ [1, 2, 3], ((withHall (fun h => h.modPos 1 fun p => { p with missed := n }) polling).hall.pos.get 1).missed = n := by
  decide
theorem test_meets_TurnsNeverPassTheStop :
    turnOf 359 0 0 = (.none, 0) ∧ turnOf 180 100 250 = (.counter, 210) ∧ turnOf 0 359 1 = (.counter, 358) ∧
    turnOf 1 0 359 = (.counter, 1) ∧ turnOf 180 180 179 = (.clockwise, 359) := by decide

theorem test_meets_MovesEnd :
    (flying .close).hall.flying = some { entry .close with inFlight := true } ∧
    (flying .openIt).hall.flying = some { entry .openIt with inFlight := true } ∧ z.hall.flying = none ∧
    ((flying .close).hall.xp ⟨0, 0⟩).rfSeen = false ∧
    ((withHall (fun h => h.modXp ⟨0, 0⟩ fun x => { x with rfSeen := true }) (flying .close)).hall.xp ⟨0, 0⟩).rfSeen = true ∧
    driveReplyOf (withCheck [1, 0, 1]) = some (⟨1, 0⟩, .closed) ∧ driveReplyOf [0, 0, 1, 0] = none := by
  decide

/-- Every crosspoint OPEN, with a commanded close of (T0, row 0) and an exercise's close of (T1, row 1) queued. -/
def twoQueued : State :=
  withHall (fun h => { h with
    queue := [{ entry .close with xp := ⟨1, 1⟩, commands := 0, exercise := true }, { entry .close with arrival := 1 }]
    arrivals := 2 }) allOpen

/-- Every crosspoint OPEN, with a commanded close of (T0, row 0) queued. -/
def queuedOpen : State := withHall (fun h => { h with queue := [entry .close], arrivals := 1 }) allOpen

/-- R112, R113: the commanded close goes before the exercise's; with RF sensed on its row it is picked and not sent. -/
theorem test_meets_MovesAreSentSafely :
    ((agendaStep twoQueued.env twoQueued.hall).map fun h => ((h.xp ⟨0, 0⟩).pos, (h.xp ⟨1, 1⟩).pos)) =
      some (.movingClosed, .opened) ∧
    pickEntry twoQueued.env twoQueued.hall = some { entry .close with arrival := 1 } ∧
    (withPins fun p => { p with rf := p.rf.set 0 true }).env.pins.rf.get 0 = true := by decide
/-- A command at whose end the queued close is sent. -/
theorem test_command_sends :
    exec .hallResetRelease queuedOpen = .next (conclude queuedOpen false queuedOpen) ∧
    ((conclude queuedOpen false queuedOpen).hall.xp ⟨0, 0⟩).pos = .movingClosed := by
  have sent : ((settle queuedOpen.env queuedOpen.hall).xp ⟨0, 0⟩).pos = .movingClosed := by decide
  refine ⟨rfl, ?_⟩
  obtain h | h := conclude_hall (b := queuedOpen) (f := false) (s := queuedOpen) <;> rw [h] <;> exact sent

/-- Row 0 in a reservation, its open of (T0, row 0) queued or in flight if asked; T0 also holds row 1 PARKED. -/
def claiming (res : Reservation) (own : Option Bool) : Hall :=
  { ((allOpen.hall.setRes 0 res).setRes 1 (.parked 0)) with
    queue := match own with
      | none => []
      | some flies => [{ entry .openIt with commands := 0, inFlight := flies }]
    arrivals := 1
    claims := allOpen.hall.claims.set 0 (some ⟨0, 43200, .waiting, [], []⟩) }
theorem test_meets_ClaimsProceedByTheReservation :
    (z.hall.claims.get 0 = none ∧ z.hall.work = [] ∧ z.hall.stray.get 0 = false ∧
      (∀ r : Row, (z.hall.xp ⟨0, r⟩).stuck = false) ∧ (∀ t : Tx, (z.hall.xp ⟨t, 0⟩).stuck = false)) ∧
    (∀ res ∈ [Reservation.free, .parked 0, .parked 1, .connected 0, .connected 1, .claimed 0, .claimed 1, .exercise, .releasing],
      (claiming res none).claims.get 0 = some ⟨0, 43200, .waiting, [], []⟩ ∧ (claiming res none).res 0 = res ∧
      (claiming res none).exercise.phase = .idle ∧ (claiming res none).res 1 = .parked 0) ∧
    (∀ flies ∈ [false, true], ∃ n ∈ (claiming .releasing (some flies)).queue,
      n.xp = ⟨0, 0⟩ ∧ n.dir = .openIt ∧ n.inFlight = flies) ∧
    (((claiming .free none).setWaiting 0 [⟨1, 50000⟩, ⟨2, 50000⟩]).rows.get 0).waiting = [⟨1, 50000⟩, ⟨2, 50000⟩] := by
  decide
/-- R104, R105: PARKED(T1) is granted with the open of (T1, row 0), the close of (T0, row 0) and that of the former row.
R108: an OPEN row is settled FREE, one whose only CLOSED crosspoint is T0's PARKED to T0. -/
theorem test_rows_are_granted_and_settled :
    let h := proceed ⟨0, 43200⟩ 0 (claiming (.parked 1) none)
    h.res 0 = .claimed 0 ∧ h.res 1 = .releasing ∧
    h.queue.map (fun n => (n.xp, n.dir)) = [(⟨0, 1⟩, .openIt), (⟨1, 0⟩, .openIt), (⟨0, 0⟩, .close)] ∧
    (settleRow 0 ((claiming (.claimed 1) none).setRes 1 .free)).res 0 = .free ∧
    (settleRow 0 (airing.hall.setRes 0 .releasing)).res 0 = .parked 0 := by decide

def queued (n : Nat) (res : Reservation) : State :=
  withHall fun h => { h.setRes 0 res with queue := [{ entry .close with commands := n }], arrivals := 1 }

theorem test_meets_CrosspointRequests :
    (Received z ∧ z.env.mode = .config ∧ ¬(4 ≤ z.hall.commanded) ∧ z.hall.res 0 ≠ .exercise) ∧
    (4 ≤ (queued 4 .free).hall.commanded ∧ ¬4 ≤ (queued 3 .free).hall.commanded) ∧
    (queued 1 .exercise).hall.res 0 = .exercise ∧ ((queued 1 .free).hall.queue.map QEntry.arrival).Nodup ∧
    (∀ n ∈ (queued 1 .free).hall.queue, n.xp = ⟨0, 0⟩ → n.dir ≠ .openIt) ∧
    rfOff z.env z.hall 0 = true ∧ rfOff equipped.env equipped.hall 0 = false ∧
    (∃ n ∈ (queued 1 .free).hall.queue, n.xp = ⟨0, 0⟩) ∧ (∃ y ∈ otherXps ⟨1, 0⟩, (airing.hall.xp y).pos = .closed) ∧
    (∀ y ∈ otherXps ⟨0, 0⟩, (z.hall.xp y).pos ≠ .closed) ∧ z.hall.res 0 = .free ∧ airing.hall.res 0 = .connected 0 ∧
    (15 < (16 : Byte).toNat ∧ ¬15 < (15 : Byte).toNat ∧ 25 < (26 : Byte).toNat ∧ ¬25 < (25 : Byte).toNat ∧
      1 < (2 : Byte).toNat ∧ ¬1 < (1 : Byte).toNat ∧ (0 : Byte).toNat ≠ 1 ∧ (3 : Byte).toNat ≠ 2) := by
  unfold Received; decide
/-- The last read of a survey, and one before it. -/
theorem test_meets_SurveyReadsAreApplied :
    (reading none).hall.reading = some { xp := ⟨15, 25⟩, expiry := 1000 } ∧ (reading none).env.mode = .survey ∧
    (reading none).hall.surveyNext = none ∧ (reading (some 415)).hall.reading = some { xp := ⟨15, 25⟩, expiry := 1000 } ∧
    (reading (some 415)).hall.surveyNext ≠ none ∧ 1 < (2 : Byte).toNat ∧ z.hall.reading = none ∧
    frameGood 4 [15, 25, 1, 0] = false ∧ byteAt (withCheck [0, 25, 1]) 0 ≠ 15 ∧ byteAt (withCheck [15, 0, 1]) 1 ≠ 25 := by
  decide
/-- R122: one CLOSED crosspoint alone in row and column parks its row; a second of its column leaves both rows FREE. -/
theorem test_survey_builds_rows :
    let second := withHall (fun h => h.setPos ⟨0, 1⟩ .closed) airing
    (endSurvey airing.env airing.hall).res 0 = .parked 0 ∧ (endSurvey airing.env airing.hall).res 1 = .free ∧
    (endSurvey second.env second.hall).res 0 = .free ∧ ((endSurvey second.env second.hall).xp ⟨0, 1⟩).stuck = true := by
  decide +kernel
theorem test_meets_FaultsAndLatchesAreCleared :
    Received z ∧ (z.hall.pos.get 0).state ≠ .fault ∧
    ((withHall fun h => h.modPos 23 fun p => { p with state := .fault, missed := 3 }).hall.pos.get 23).state = .fault ∧
    24 ≤ (24 : Byte).toNat ∧ 26 ≤ (26 : Byte).toNat ∧
    (Received (withPins fun p => { p with rf := p.rf.set 25 true }) ∧
      (withPins fun p => { p with rf := p.rf.set 25 true }).env.pins.rf.get 25 = true) ∧
    z.env.pins.rf.get 25 = false ∧ (withHall fun h => { h with stray := h.stray.set 3 true }).hall.stray.get 3 = true := by
  unfold Received; decide
theorem test_meets_UnitsLeaveAndReturnToService :
    Received barredTx ∧ unitOf 16 = none ∧ unitOf 15 = some (.tx 15) ∧ unitOf 32 = some (.ant 0) ∧ unitOf 55 = some (.ant 23) ∧
    unitOf 56 = none ∧ (barredTx.hall.unit (.tx 0)).service = .barred ∧ (z.hall.unit (.tx 0)).service ≠ .barred ∧
    ∀ n ∈ [95, 96, 127, 128, 254, 255], Received (outTx n) ∧ ((outTx n).hall.unit (.tx 0)).service = .out ∧
      ((outTx n).hall.unit (.tx 0)).score = n := by unfold Received; decide
/-- What TAKE OUT of T0 or of A0 concerns: T0's occurrence on row 0, its proving run, its kept occurrence. -/
theorem test_meets_TakeOutStops :
    (Received airing ∧ (airing.hall.unit (.tx 0)).service ≠ .out ∧ (airing.hall.unit (.ant 0)).service ≠ .out) ∧
    ((airing.hall.ctx.get 0).state.working = true ∧ (airing.hall.ctx.get 0).held = .occurrence occ ∧ occ.row = antRow 0 ∧
      (airing.hall.ctx.get 0).kept = none ∧ (airing.hall.ctx.get 1).state.working = false) ∧
    ((stopping .ending).hall.ctx.get 0).kept = some { handle := ⟨1, 0⟩, start := 46800, finish := 50400, row := antRow 0 } := by
  unfold Received; decide

def runState (st : CtxState) : State :=
  inMode .run (withHall (fun h => { h.modCtx 0 (fun c => { c with state := st, held := .proving 24 }) with
    runs := h.runs.set 0 { running := true, load := some 24, minutes := 3, startedAt := 0, result := .none } }) equipped)

theorem test_meets_ProvingRunsStartAndStop :
    Received z ∧ z.env.mode ≠ .run ∧
    ((inMode .run).env.mode = .run ∧ (inMode .run).env.txConfigured 0 = false) ∧
    (Received (inMode .run equipped) ∧ (inMode .run equipped).env.txConfigured 0 = true ∧
      proveBusy (inMode .run equipped).env equipped.hall 0 (loadRow 0) = false) ∧
    proveBusy airing.env airing.hall 0 (loadRow 0) = true ∧ 16 ≤ (16 : Byte).toNat ∧ (23 : Byte).toNat < 24 ∧
    26 ≤ (26 : Byte).toNat ∧
    (((runState .onAir).hall.ctx.get 0).run.isSome = true ∧ ((runState .onAir).hall.ctx.get 0).state.working = true) ∧
    ((runState .ending).hall.ctx.get 0).state.working = false ∧ (z.hall.ctx.get 0).run = none := by
  unfold Received; decide

def sweeping (queue : List QEntry) : State :=
  withHall (fun h => { h with sweep := { Sweep.started with next := some 1 }, queue := queue
                              exercise := { h.exercise with phase := .closing, xp := ⟨0, 0⟩, origin := .sweep } }) allOpen

/-- No crosspoint qualifies while all are UNKNOWN; with all OPEN the first qualifies. -/
theorem test_meets_SweepsStartAndStop :
    Received z ∧ z.env.mode = .config ∧ z.hall.sweep.state = .idle ∧ z.hall.exercise.phase = .idle ∧
    (∀ j : Fin 416, exercisable z.env z.hall (xpAt j) = false) ∧ exercisable allOpen.env allOpen.hall (xpAt 0) = true ∧
    (∀ k : Fin 416, k < 0 → exercisable allOpen.env allOpen.hall (xpAt k) = false) ∧
    (sweeping []).hall.sweep.state ≠ .idle ∧ (sweeping []).hall.exercise.phase ≠ .idle ∧
    ((sweeping []).hall.sweep.state = .running ∧ (sweeping []).hall.unsentClose = none) ∧
    (allOpen.hall.busyXp (xpAt 0) = false ∧
      exercisable (queuedOpen).env queuedOpen.hall (xpAt 0) = true ∧ queuedOpen.hall.busyXp (xpAt 0) = true) ∧
    (sweeping [{ entry .close with exercise := true, commands := 0 }]).hall.unsentClose =
      some { entry .close with exercise := true, commands := 0 } := by unfold Received; decide +kernel

/-- T0's line has fallen and it has not been quiet since: its path covers row 0. -/
def covered : State :=
  withHall (fun h => { h with gates := h.gates.modify 0 fun g => { g with request := false, line := false, lastDrop := some 0 } })
    airing

theorem test_meets_RfSenseIsFollowed :
    (z.env.pins.resetHeld = false ∧ z.env.pins.rf.get 0 = false ∧ held.env.pins.resetHeld = true) ∧
    (flying .close).hall.flying = some { entry .close with inFlight := true } ∧
    (rowAnt 1 = some 1 ∧ (going.hall.pos.get 1).go.isSome = true) ∧ coverers z.env z.hall 0 = [] ∧
    coverers covered.env covered.hall 0 = [0] ∧ (covered.hall.gates.get 0).line = false ∧
    (covered.hall.gates.get 0).lastDrop = some 0 ∧ coverers airing.env airing.hall 0 = [0] ∧
    (z.hall.work = [] ∧ (z.hall.pos.get 0).go = none ∧ (∀ u : Tx, (z.hall.gates.get u).line = false ∧
      (z.hall.gates.get u).request = false ∧ covers z.env z.hall u = false) ∧
      (∀ q : Row, z.env.pins.rf.get q = false) ∧ z.hall.stray.get 0 = false) ∧
    (let s := withPins fun p => { p with rf := p.rf.set 0 true }
     s.env.pins.resetHeld = false ∧ s.env.pins.rf.get 0 = true ∧ (∀ q : Row, q ≠ 0 → s.env.pins.rf.get q = false) ∧
     s.hall = z.hall) := by decide +kernel

theorem test_meets_ResetsGiveTheirValues :
    z.env.noRf ∧ (withPins fun p => { p with hallstop := true }).env.pins.hallstop = true ∧
    (marked .locked 0).env.clock.markState ≠ .off ∧
    (withHall fun h => { h with stray := h.stray.set 3 true }).hall.stray.get 3 = true ∧ z.hall.uninvolved 0 ∧
    z.hall.sweep.state = .idle := by
  unfold Env.noRf Hall.uninvolved; decide
/-! Handing on, and the items of two replies that may be absent. -/

/-- T0 is ENDING on row 0, where T1's claim waits, and keeps an occurrence of place 1 on the same row. -/
def endingKept : State :=
  withHall (fun h =>
    { (h.setRecord 1 (some (record .waiting))) with
      rows := h.rows.set 0 { res := .connected 0, waiting := [⟨1, 50000⟩] }
      claims := (h.claims.set 0 (some ⟨0, 43200, .connected, [], []⟩)).set 1 (some ⟨0, 50000, .waiting, [], []⟩)
      ctx := h.ctx.modify 0 fun c =>
        { c with state := .ending, kept := some { handle := ⟨1, 0⟩, start := 46800, finish := 50400, row := 0 } } }) airing

/-- R106, R107: the row parked at the end of the ending goes to its waiting claim before the kept occurrence claims it. -/
theorem test_parked_row_is_handed_on :
    (finishEnding endingKept.env 0 endingKept.hall).res 0 = .claimed 1 ∧
    ((finishEnding endingKept.env 0 endingKept.hall).rows.get 0).waiting.map Req.tx = [0] := by decide
/-- R67, R212: an IDLE context has no item present. -/
theorem test_idle_context_bytes : Context.idle.bytes z.env = List.replicate 49 0 := by decide
/-- R132, R212: a GO with 5 s left on its timer, and none. -/
theorem test_timer_seconds_have_a_presence_byte :
    (antennaBytes going.env going.hall 1).drop 27 = [1, 0, 5] ∧ (antennaBytes z.env z.hall 1).drop 27 = [0, 0, 0] := by
  decide

theorem test_meets_ModeLinesActAtOnce :
    z.env.mode ≠ .stop ∧ z.env.mode ≠ .localKey ∧ z.env.pins.resetHeld = false ∧ equipped.env.steers 1 = true ∧
    (airing.hall.ctx.get 0).state ≠ .idle := by decide

def ready : State := withTables (fun t => { t with tx := t.tx.set 0 (some txCfg) }) (withClock fun c => { c with valid := true })

theorem test_meets_GoRunAndGoConfig :
    Received ready ∧ ready.env.mode ≠ .survey ∧ ready.env.mode ≠ .run ∧ ready.env.clock.valid = true ∧
    (∃ u, ready.env.tables.tx.get u ≠ none) ∧ ready.hall.sweep.state = .idle ∧
    ((inMode .stop (context .halted .mute)).env.mode = .stop ∧ ((context .halted .mute).hall.ctx.get 0).state = .halted) ∧
    (((runState .onAir).hall.ctx.get 0).held = .proving 24 ∧ (stopping .ending).env.mode = .run ∧
      ((stopping .ending).hall.ctx.get 0).kept.isSome = true) ∧ (reading none).env.mode = .survey ∧ (sweeping []).hall.sweep.state ≠ .idle ∧
    z.env.clock.valid = false ∧ (∀ u, z.env.tables.tx.get u = none) ∧
    ((inMode .stop (withPins fun p => { p with localKey := true })).env.mode = .stop ∧
      (inMode .stop (withPins fun p => { p with localKey := true })).env.pins.localKey = true) ∧
    ((z.hall.xp ⟨0, 0⟩).pos = .unknown ∧ (z.hall.xp ⟨0, 0⟩).stuck = false) ∧
    (airing.env.mode = .run ∧ (airing.hall.ctx.get 0).state ≠ .idle ∧ airing.env.mode ≠ .config) := by
  unfold Received; decide
theorem test_meets_GoRunEntersRun : (allFin 16).all fun t => (allFin 26).all fun r => (allOpen.hall.xp ⟨t, r⟩).pos != .unknown := by
  decide

end Sys2Proof.Tests
end

section
/-! PROOFS. The turn of a ROTATABLE antenna (R131): a sweep as the degrees that bring one azimuth onto another,
an equation of `turnOf` for each row of R131's table, and where the turn of each row ends and what it does not reach. -/

namespace Sys2Proof.Machine

variable {stop current target x y k : Nat}

/-! Sweeps. -/

theorem angleSub_lt (x y : Nat) : angleSub x y < 360 := Nat.mod_lt _ (by decide)

theorem angleSub_of_lt (hx : x < 360) (hy : y < 360) : angleSub x y = (x + 360 - y) % 360 := by
  rw [angleSub, Nat.mod_eq_of_lt hx, Nat.mod_eq_of_lt hy]

theorem angleSub_eq_zero_iff (hx : x < 360) (hy : y < 360) : angleSub x y = 0 ↔ x = y := by
  rw [angleSub_of_lt hx hy]; omega

/-- From one azimuth, different azimuths lie at different clockwise sweeps. -/
theorem angleSub_left_inj {z : Nat} (hx : x < 360) (hz : z < 360) (hy : y < 360) :
    angleSub x y = angleSub z y ↔ x = z := by
  rw [angleSub_of_lt hx hy, angleSub_of_lt hz hy]; omega

/-- Two opposite sweeps between different azimuths make a full circle. -/
theorem angleSub_add_angleSub (hx : x < 360) (hy : y < 360) (hne : x ≠ y) : angleSub x y + angleSub y x = 360 := by
  rw [angleSub_of_lt hx hy, angleSub_of_lt hy hx]; omega

/-- Within a circle, the clockwise sweep is the one number of degrees that brings `y` onto `x`. -/
theorem clockwise_meets_iff (hx : x < 360) (hy : y < 360) (hk : k < 360) :
    (y + k) % 360 = x ↔ k = angleSub x y := by
  rw [angleSub_of_lt hx hy]; omega

/-- Within a circle, the counter-clockwise sweep is the one number of degrees that brings `y` onto `x`. -/
theorem counter_meets_iff (hx : x < 360) (hy : y < 360) (hk : k < 360) :
    (y + 360 - k) % 360 = x ↔ k = angleSub y x := by
  rw [angleSub_of_lt hy hx]; omega

/-! The table of R131. -/

/-- The clockwise turn from `current` to `target` passes the stop (R131). -/
def PassesStop (stop current target : Nat) : Prop :=
  1 ≤ angleSub stop current ∧ angleSub stop current ≤ angleSub target current

theorem passesStop_iff : PassesStop stop current target ↔
    1 ≤ angleSub stop current ∧ angleSub stop current ≤ angleSub target current := Iff.rfl

theorem turnOf_same (hcur : current < 360) : turnOf stop current current = (.none, 0) := by
  simp [turnOf, (angleSub_eq_zero_iff hcur hcur).2]

theorem turnOf_of_passesStop (h : PassesStop stop current target) :
    turnOf stop current target = (.counter, angleSub current target) := by
  obtain ⟨hpos, hle⟩ := h
  have hcw : angleSub target current ≠ 0 := by omega
  simp [turnOf, hcw, hpos, hle]

theorem turnOf_of_not_passesStop (hcur : current < 360) (htar : target < 360) (hne : target ≠ current)
    (h : ¬PassesStop stop current target) : turnOf stop current target = (.clockwise, angleSub target current) := by
  have hcw : angleSub target current ≠ 0 := mt (angleSub_eq_zero_iff htar hcur).1 hne
  rw [turnOf, if_neg hcw, if_neg (mt passesStop_iff.2 h)]

theorem not_passesStop_at_stop (hstop : stop < 360) : ¬PassesStop stop stop target := fun ⟨hpos, _⟩ => by
  rw [(angleSub_eq_zero_iff hstop hstop).2 rfl] at hpos; omega

/-! Where a turn goes. -/

/-- A clockwise turn that does not pass the stop reaches its target, and the stop at no degree on the way. -/
theorem clockwise_turn_avoids_stop (hstop : stop < 360) (hcur : current < 360) (htar : target < 360)
    (h : ¬PassesStop stop current target) :
    (current + angleSub target current) % 360 = target ∧
      ∀ k, 1 ≤ k → k ≤ angleSub target current → (current + k) % 360 ≠ stop := by
  have hcw := angleSub_lt target current
  refine ⟨(clockwise_meets_iff htar hcur hcw).2 rfl, fun k hpos hle hmeets => h ?_⟩
  have hk : k = angleSub stop current := (clockwise_meets_iff hstop hcur (by omega)).1 hmeets
  subst hk
  exact ⟨hpos, hle⟩

/-- When the clockwise turn passes the stop, the stop lies strictly inside the clockwise sweep, since it is not the
target; so the counter-clockwise turn ends before it. -/
theorem counter_turn_avoids_stop (hstop : stop < 360) (hcur : current < 360) (htar : target < 360)
    (hts : target ≠ stop) (h : PassesStop stop current target) :
    (current + 360 - angleSub current target) % 360 = target ∧
      ∀ k, 1 ≤ k → k ≤ angleSub current target → (current + 360 - k) % 360 ≠ stop := by
  obtain ⟨hpos, hle⟩ := h
  have hccw := angleSub_lt current target
  refine ⟨(counter_meets_iff htar hcur hccw).2 rfl, fun k _ hk hmeets => ?_⟩
  have hkStop : k = angleSub current stop := (counter_meets_iff hstop hcur (by omega)).1 hmeets
  have hstopNe : stop ≠ current := fun e => by
    rw [(angleSub_eq_zero_iff hstop hcur).2 e] at hpos; omega
  have htarNe : target ≠ current := fun e => by
    rw [(angleSub_eq_zero_iff htar hcur).2 e] at hle; omega
  have hstopCircle := angleSub_add_angleSub hstop hcur hstopNe
  have htarCircle := angleSub_add_angleSub htar hcur htarNe
  have hsame : angleSub target current = angleSub stop current := by omega
  exact hts ((angleSub_left_inj htar hstop hcur).1 hsame)

/-- Settles O49, by the three rows of R131's table. -/
theorem turnsNeverPassTheStop : Obligations.TurnsNeverPassTheStop := by
  intro stop current target hstop hcur htar hts
  simp only [← angleSub_of_lt htar hcur, ← angleSub_of_lt hcur htar, ← angleSub_of_lt hstop hcur]
  by_cases hsame : target = current
  · subst hsame
    simp [turnOf_same hcur, hts]
  by_cases hpass : PassesStop stop current target
  · have hnotStop : current ≠ stop := fun e => not_passesStop_at_stop hstop (e ▸ hpass)
    obtain ⟨hend, havoids⟩ := counter_turn_avoids_stop hstop hcur htar hts hpass
    rw [turnOf_of_passesStop hpass, if_neg hsame, if_pos (passesStop_iff.1 hpass)]
    exact ⟨rfl, fun e => absurd e hnotStop, (angleSub_lt current target).le, hend, havoids⟩
  · rw [turnOf_of_not_passesStop hcur htar hsame hpass, if_neg hsame, if_neg (mt passesStop_iff.2 hpass)]
    exact ⟨rfl, fun _ => rfl, clockwise_turn_avoids_stop hstop hcur htar hpass⟩

end Sys2Proof.Machine
end

section
/-! PROOFS. The two notice lines (R207): the flags of 10.5 are the bits of a 22-bit set, one notice to each bit, so a line
is active exactly when some notice has a set flag that is enabled and routed to it; and READ STATUS shows the set. -/

namespace Sys2Proof.Machine

/-! Notices and the bits of a flag set (R219). -/

/-- The 22 notices in the order of their bits. -/
def Notice.inBitOrder : List Notice :=
  [.late, .missed, .cut, .trip, .reflection, .watch, .barred, .proven, .stuck, .strayRf, .hotSwitch, .muteFail,
    .txSilent, .txLocal, .positionerFault, .noAntenna, .handover, .markLost, .frameError, .surveyDone, .sweepDone,
    .hallStop]

theorem Notice.map_bit_inBitOrder : Notice.inBitOrder.map Notice.bit = List.range 22 := by decide

/-- No bit of a flag set is without its notice. -/
theorem Notice.exists_bit_eq {i : Nat} (hi : i < 22) : ∃ n : Notice, n.bit = i := by
  have hmem : i ∈ Notice.inBitOrder.map Notice.bit := Notice.map_bit_inBitOrder ▸ List.mem_range.2 hi
  obtain ⟨n, -, hn⟩ := List.mem_map.1 hmem
  exact ⟨n, hn⟩

theorem Notice.bit_lt (n : Notice) : n.bit < 22 := by cases n <;> decide

/-- A flag set is not empty exactly when it holds some notice. -/
theorem flagSet_ne_zero_iff (m : BitVec 22) : m ≠ 0 ↔ ∃ n : Notice, m.getLsbD n.bit = true := by
  constructor
  · contrapose!
    intro hnone
    refine BitVec.eq_of_getLsbD_eq fun i hi => ?_
    obtain ⟨n, rfl⟩ := Notice.exists_bit_eq hi
    simpa using hnone n
  · rintro ⟨n, hn⟩ rfl
    simp at hn

/-! The lines (R207). -/

section lines
variable {h : Hall}

theorem alertActive_iff : h.alertActive = true ↔
    ∃ n : Notice, h.flags.getLsbD n.bit = true ∧ h.enables.getLsbD n.bit = true ∧ h.routes.getLsbD n.bit = true := by
  simp only [Hall.alertActive, bne_iff_ne, flagSet_ne_zero_iff, BitVec.getLsbD_and, Bool.and_eq_true, and_assoc]

theorem noteActive_iff : h.noteActive = true ↔
    ∃ n : Notice, h.flags.getLsbD n.bit = true ∧ h.enables.getLsbD n.bit = true ∧ h.routes.getLsbD n.bit = false := by
  simp only [Hall.noteActive, bne_iff_ne, flagSet_ne_zero_iff, BitVec.getLsbD_and, BitVec.getLsbD_not, Bool.and_eq_true,
    Bool.not_eq_true', Notice.bit_lt, decide_true, true_and, and_assoc]

/-- An active line needs a flag that is set, so with none set both are released. -/
theorem lines_released_of_no_flags (hflags : h.flags = 0) : h.alertActive = false ∧ h.noteActive = false := by
  have hclear : ∀ n : Notice, h.flags.getLsbD n.bit ≠ true := by simp [hflags]
  constructor
  · exact Bool.eq_false_iff.2 fun ha =>
      have ⟨n, hset, _⟩ := alertActive_iff.1 ha
      hclear n hset
  · exact Bool.eq_false_iff.2 fun ha =>
      have ⟨n, hset, _⟩ := noteActive_iff.1 ha
      hclear n hset

end lines

/-! READ STATUS (R210). -/

theorem exec_readStatus (payload : List Byte) (s : State) :
    exec (.readStatus payload) s = .next (request (payload.length == 0) anyMode readStatusRule s) := rfl

/-- After the mode and the two inputs, the reply shows the whole flag set, which no enable masks. -/
theorem readStatusRule_shows_flags (s : State) : ∃ head tail, head.length = 3 ∧
    readStatusRule s = accept s (head ++ b3 s.hall.flags.toNat ++ tail) := by
  refine ⟨b1 s.env.mode.code ++ bBool s.env.pins.hallstop ++ bBool s.env.pins.localKey, ?tail, ?length, ?reply⟩
  case length => rfl
  case reply =>
    simp only [readStatusRule, List.append_assoc]
    rfl

theorem readStatus_answers_flags {s : State} (w : Received s) : ∃ head tail, head.length = 3 ∧
    OnlyAnswers (.readStatus []) (head ++ b3 s.hall.flags.toNat ++ tail) s := by
  obtain ⟨head, tail, hlen, hrule⟩ := readStatusRule_shows_flags s
  refine ⟨head, tail, hlen, ?_⟩
  rw [OnlyAnswers, exec_readStatus, List.length_nil, request_taken w BEq.rfl rfl, hrule, carryOut_accept]

/-- Settles O15: R207's two lines bit by bit, released at power-up since no flag is set, and the reply of R210. -/
theorem noticeLinesFollowTheFlags : Obligations.NoticeLinesFollowTheFlags :=
  ⟨lines_released_of_no_flags rfl, fun _ => readStatus_answers_flags,
    fun _ => ⟨lines_released_of_no_flags, alertActive_iff, noteActive_iff⟩⟩

end Sys2Proof.Machine
end

section
/-! PROOFS. What the commands keep (O2, O6 to O9, O13): most commands touch neither the queue, the tables, the mode nor
the date, and end with the lines guarded (`Keeps`); the others are the few that 10.3 and 10.4 name. A request's rule
speaks through its verdict (`Leaves`). -/

namespace Sys2Proof.Machine

/-! Verdicts. -/

/-- A property of the state that a verdict leaves, if it accepts. -/
def Leaves (P : State → Prop) : Verdict → Prop
  | .ok (t, _) => P t
  | .error _ => True

section verdicts
variable {P Q : State → Prop} {s t before : State} {p : List Byte} {st : Status} {v : Verdict} {force lengthOk : Bool}
  {modeOk : Mode → Bool} {rule : State → Verdict}

@[simp] theorem leaves_refuse : Leaves P (refuse st) := trivial

@[simp] theorem leaves_accept : Leaves P (accept t p) ↔ P t := Iff.rfl

@[simp] theorem leaves_acceptEvent {f : State → List Byte} :
    Leaves P (acceptEvent before force t f) ↔ P (conclude before force t) := Iff.rfl

theorem Leaves.imp (h : ∀ t, P t → Q t) : Leaves P v → Leaves Q v := by
  cases v with
  | error st => exact id
  | ok x => exact h _

/-- A property that the port does not matter to, held before a request and by the state its rule leaves, holds after. -/
theorem request_leaves (port : ∀ t q, P t → P { t with port := q }) (same : P s) (w : Leaves P (rule s)) :
    P (request lengthOk modeOk rule s) := by
  have carried : ∀ v, Leaves P v → P (carryOut s v) := by
    intro v w
    cases v with
    | error st => exact port _ _ same
    | ok x => exact port _ _ w
  obtain ⟨-, h⟩ | ⟨-, -, h⟩ | ⟨-, -, -, h⟩ | ⟨-, -, -, h⟩ :=
    request_cases (s := s) (lengthOk := lengthOk) (modeOk := modeOk) (rule := rule) <;> rw [h]
  · exact port _ _ same
  · exact carried _ trivial
  · exact carried _ trivial
  · exact carried _ w

end verdicts

/-! Guarded lines. -/

section guarded
variable {s t : State} {e e' : Env} {h h' : Hall}

/-- The gate's conditions read of the environment the mode and HALLSTOP alone. -/
theorem permitConditions_env (u : Tx) (mode : e'.mode = e.mode) (line : e'.pins.hallstop = e.pins.hallstop) :
    permitConditions e' h u = permitConditions e h u := by
  simp only [permitConditions, mode, line]

/-- Guarded lines stay guarded when neither the gates nor their conditions change. -/
theorem PermitsGuarded.congr (w : PermitsGuarded s) (gates : t.hall.gates = s.hall.gates)
    (same : ∀ u, permitConditions t.env t.hall u = permitConditions s.env s.hall u) : PermitsGuarded t := by
  intro u hu
  rw [same]
  rw [gates] at hu
  exact w u hu

/-- Guarded lines stay guarded when time passes, and when banks, tables and due list change. -/
theorem PermitsGuarded.env (w : PermitsGuarded s) (hall : t.hall = s.hall) (mode : t.env.mode = s.env.mode)
    (line : t.env.pins.hallstop = s.env.pins.hallstop) : PermitsGuarded t :=
  w.congr (by rw [hall]) fun u => by rw [hall, permitConditions_env u mode line]

/-- No line is high whose condition fails once the failed ones have fallen (R160). -/
theorem lowerFailed_permits (s : State) : PermitsGuarded { s with hall := lowerFailed s.env s.hall } := by
  intro u hu
  rw [permitConditions_lowerFailed]
  by_contra hc
  simp [lowerFailed, hc] at hu

/-- With every line low they are guarded. -/
theorem PermitsGuarded.of_low (low : ∀ u, s.hall.lineLow u) : PermitsGuarded s := by
  intro u hu
  rw [low u] at hu
  cases hu

end guarded

/-! What most commands keep. -/

/-- The queue, the tables, the mode and the date stand, and guarded lines stay guarded. -/
structure Keeps (s t : State) : Prop where
  pending : t.pending = s.pending
  tables : t.env.tables = s.env.tables
  mode : t.env.mode = s.env.mode
  day : t.env.clock.day = s.env.clock.day
  second : t.env.clock.second = s.env.clock.second
  weekdayBase : t.env.clock.weekdayBase = s.env.clock.weekdayBase
  permits : PermitsGuarded s → PermitsGuarded t

/-- What the rule of a request keeps beside: the port, which is for `carryOut` to fill. -/
structure RuleKeeps (s t : State) : Prop extends Keeps s t where
  port : t.port = s.port

section keeps
variable {s t d before : State} {h : Hall} {force : Bool}

@[simp] theorem Keeps.refl (s : State) : Keeps s s := ⟨rfl, rfl, rfl, rfl, rfl, rfl, id⟩

@[simp] theorem RuleKeeps.refl (s : State) : RuleKeeps s s := ⟨.refl s, rfl⟩

theorem Keeps.trans (a : Keeps s t) (b : Keeps t d) : Keeps s d where
  pending := b.pending.trans a.pending
  tables := b.tables.trans a.tables
  mode := b.mode.trans a.mode
  day := b.day.trans a.day
  second := b.second.trans a.second
  weekdayBase := b.weekdayBase.trans a.weekdayBase
  permits := b.permits ∘ a.permits

/-- What touches the environment only in its time, banks and due list, and the hall only where no gate reads it. -/
theorem Keeps.of_same (pending : t.pending = s.pending) (tables : t.env.tables = s.env.tables)
    (mode : t.env.mode = s.env.mode) (day : t.env.clock.day = s.env.clock.day)
    (second : t.env.clock.second = s.env.clock.second) (base : t.env.clock.weekdayBase = s.env.clock.weekdayBase)
    (line : t.env.pins.hallstop = s.env.pins.hallstop) (gates : t.hall.gates = s.hall.gates)
    (conditions : ∀ u, permitConditions s.env t.hall u = permitConditions s.env s.hall u) : Keeps s t :=
  ⟨pending, tables, mode, day, second, base,
    fun w => w.congr gates fun u => (permitConditions_env u mode line).trans (conditions u)⟩

/-- An event ends with what it kept before, and its lines guarded. -/
theorem conclude_keeps (pending : d.pending = s.pending) (tables : d.env.tables = s.env.tables)
    (mode : d.env.mode = s.env.mode) (day : d.env.clock.day = s.env.clock.day)
    (second : d.env.clock.second = s.env.clock.second) (base : d.env.clock.weekdayBase = s.env.clock.weekdayBase) :
    Keeps s (conclude before force d) where
  pending := by simpa using pending
  tables := by simpa using tables
  mode := by simpa using mode
  day := by simpa using day
  second := by simpa using second
  weekdayBase := by simpa using base
  permits _ := conclude_permits _ _ _

/-- Work of the hall that ends as an event. -/
@[simp] theorem conclude_hall_keeps : Keeps s (conclude before force { s with hall := h }) :=
  conclude_keeps rfl rfl rfl rfl rfl rfl

/-- Work of the hall at an expiry. -/
@[simp] theorem conclude_passTo_keeps {i : Nat} : Keeps s (conclude before force { s.passTo i with hall := h }) :=
  conclude_keeps rfl rfl rfl rfl rfl rfl

@[simp] theorem conclude_hall_ruleKeeps : RuleKeeps s (conclude before force { s with hall := h }) :=
  ⟨conclude_hall_keeps, conclude_port _ _ _⟩

/-- A recomputation of the due list. -/
theorem recompute_keeps (s : State) : Keeps s (recompute s) := ⟨rfl, rfl, rfl, rfl, rfl, rfl, recompute_permits⟩

theorem passTo_keeps (i : Nat) (s : State) : Keeps s (s.passTo i) :=
  .of_same rfl rfl rfl rfl rfl rfl rfl rfl fun _ => rfl

/-- A request whose rule keeps all this keeps it. -/
theorem request_keeps {lengthOk : Bool} {modeOk : Mode → Bool} {rule : State → Verdict}
    (w : Leaves (RuleKeeps s) (rule s)) : Keeps s (request lengthOk modeOk rule s) :=
  request_leaves (P := Keeps s) (fun _ _ k => ⟨k.pending, k.tables, k.mode, k.day, k.second, k.weekdayBase, k.permits⟩)
    (.refl s) (w.imp fun _ k => k.toKeeps)

end keeps

end Sys2Proof.Machine
end

section
/-! PROOFS. The rules of the requests that set no table, no mode and no date. -/

namespace Sys2Proof.Machine

variable {p : List Byte} {s : State}

/-! Time and banks (Chapter 1). -/

theorem setClockRule_keeps : Leaves (RuleKeeps s) (setClockRule p s) := by
  have clock : ∀ b, ((s.env.clock.enableMarks s.env.elapsed b).day = s.env.clock.day ∧
      (s.env.clock.enableMarks s.env.elapsed b).second = s.env.clock.second ∧
      (s.env.clock.enableMarks s.env.elapsed b).weekdayBase = s.env.clock.weekdayBase) := by
    intro b; unfold Clock.enableMarks; split <;> exact ⟨rfl, rfl, rfl⟩
  unfold setClockRule
  split
  · exact leaves_refuse
  · next b _ =>
    obtain ⟨day, second, base⟩ := clock b
    exact ⟨.of_same rfl rfl rfl day second base rfl rfl fun _ => rfl, rfl⟩

theorem setHandoverRule_keeps : Leaves (RuleKeeps s) (setHandoverRule p s) := by
  unfold setHandoverRule; dsimp only
  split_ifs
  case neg => exact ⟨conclude_keeps rfl rfl rfl rfl rfl rfl, conclude_port _ _ _⟩
  all_goals exact leaves_refuse

theorem cancelHandoverRule_keeps : Leaves (RuleKeeps s) (cancelHandoverRule s) := by
  unfold cancelHandoverRule
  split
  · exact .refl s
  · exact ⟨conclude_keeps rfl rfl rfl rfl rfl rfl, conclude_port _ _ _⟩

/-- The banks alone are changed. -/
theorem modBanks_keeps (f : Banks → Banks) : RuleKeeps s (s.modBanks f) :=
  ⟨.of_same rfl rfl rfl rfl rfl rfl rfl rfl fun _ => rfl, rfl⟩

theorem lockRule_keeps {v : Bool} : Leaves (RuleKeeps s) (lockRule v p s) := by
  unfold lockRule
  split
  · exact leaves_refuse
  · split
    · exact leaves_refuse
    · exact modBanks_keeps _

theorem freezeRule_keeps : Leaves (RuleKeeps s) (freezeRule s) := modBanks_keeps _

/-! The slot table (Chapter 2). -/

theorem storeNew_keeps {place : PlaceNo} {raw : Schedule} : Leaves (RuleKeeps s) (storeNew s place raw) := by
  unfold storeNew; dsimp only
  split <;> simp

theorem addSlotRule_keeps : Leaves (RuleKeeps s) (addSlotRule p s) := by
  unfold addSlotRule
  split
  · exact leaves_refuse
  · split_ifs
    case neg => split <;> simp [storeNew_keeps]
    all_goals exact leaves_refuse

/-- A request that names a record keeps what its own rule keeps. -/
theorem editRule_leaves {P : State → Prop} {rule : Handle → Record → State → Verdict}
    (w : ∀ k r, Leaves P (rule k r s)) : Leaves P (editRule p rule s) := by
  unfold editRule
  split
  · exact leaves_refuse
  · split
    · exact leaves_refuse
    · exact w _ _

theorem storeAmended_keeps {k : Handle} {r : Record} {raw : Schedule} :
    Leaves (RuleKeeps s) (storeAmended p k r raw s) := by
  unfold storeAmended; dsimp only
  split <;> simp

theorem amendSlotRule_keeps {k : Handle} {r : Record} : Leaves (RuleKeeps s) (amendSlotRule p k r s) := by
  unfold amendSlotRule
  (repeat' split) <;> simp [storeAmended_keeps]

theorem retireSlotRule_keeps {k : Handle} {r : Record} : Leaves (RuleKeeps s) (retireSlotRule p k r s) := by
  unfold retireSlotRule
  (repeat' split) <;> simp

theorem suspendSlotRule_keeps {k : Handle} {r : Record} : Leaves (RuleKeeps s) (suspendSlotRule k r s) := by
  unfold suspendSlotRule
  split <;> simp

theorem resumeSlotRule_keeps {k : Handle} {r : Record} : Leaves (RuleKeeps s) (resumeSlotRule k r s) := by
  unfold resumeSlotRule
  split <;> simp

theorem clearBankRule_keeps : Leaves (RuleKeeps s) (clearBankRule p s) := by
  unfold clearBankRule
  (repeat' split) <;> simp

theorem readSlotRule_keeps : Leaves (RuleKeeps s) (readSlotRule p s) := by
  unfold readSlotRule
  split <;> simp

theorem findSlotsRule_keeps : Leaves (RuleKeeps s) (findSlotsRule p s) := by
  unfold findSlotsRule
  split <;> simp

/-! Plans and contexts (Chapters 3 and 4). -/

theorem readDueListRule_keeps : Leaves (RuleKeeps s) (readDueListRule p s) := by
  unfold readDueListRule; dsimp only
  split <;> simp

theorem readPlanRule_keeps : Leaves (RuleKeeps s) (readPlanRule p s) := by
  unfold readPlanRule
  split
  · exact leaves_refuse
  · exact ⟨.of_same rfl rfl rfl rfl rfl rfl rfl rfl fun _ => rfl, rfl⟩

theorem readChangeoverRule_keeps : Leaves (RuleKeeps s) (readChangeoverRule p s) := by
  unfold readChangeoverRule
  split <;> simp

/-! The matrix (Chapter 5). -/

theorem moveCrosspointRule_keeps : Leaves (RuleKeeps s) (moveCrosspointRule p s) := by
  unfold moveCrosspointRule
  (repeat' split) <;> simp

theorem clearCrosspointRule_keeps : Leaves (RuleKeeps s) (clearCrosspointRule p s) := by
  unfold clearCrosspointRule
  (repeat' split) <;> simp

theorem readRowRule_keeps : Leaves (RuleKeeps s) (readRowRule p s) := by
  unfold readRowRule
  (repeat' split) <;> simp

theorem readQueueRule_keeps : Leaves (RuleKeeps s) (readQueueRule p s) := by
  unfold readQueueRule; dsimp only
  split <;> simp

/-! Antennas and transmitters (Chapters 6 and 7). -/

theorem clearPositionerRule_keeps : Leaves (RuleKeeps s) (clearPositionerRule p s) := by
  unfold clearPositionerRule
  split <;> simp

theorem readAntennaRule_keeps : Leaves (RuleKeeps s) (readAntennaRule p s) := by
  unfold readAntennaRule
  (repeat' split) <;> simp

theorem readTransmitterRule_keeps : Leaves (RuleKeeps s) (readTransmitterRule p s) := by
  unfold readTransmitterRule
  split <;> simp

/-! Protection (Chapter 8). -/

theorem unitRule_keeps {wanted : Service} {f : UnitRec → UnitRec} : Leaves (RuleKeeps s) (unitRule p wanted f s) := by
  unfold unitRule
  (repeat' split) <;> simp

theorem takeOutRule_keeps : Leaves (RuleKeeps s) (takeOutRule p s) := by
  unfold takeOutRule
  split <;> simp

theorem proveRule_keeps : Leaves (RuleKeeps s) (proveRule p s) := by
  unfold proveRule
  (repeat' split) <;> simp

theorem stopProveRule_keeps : Leaves (RuleKeeps s) (stopProveRule p s) := by
  unfold stopProveRule
  split
  · exact leaves_refuse
  · dsimp only
    split <;> simp

theorem clearStrayRule_keeps : Leaves (RuleKeeps s) (clearStrayRule p s) := by
  unfold clearStrayRule
  (repeat' split) <;> simp

theorem readProtectionRule_keeps : Leaves (RuleKeeps s) (readProtectionRule p s) := by
  unfold readProtectionRule
  (repeat' split) <;> simp

/-! Sweeps and notices (Chapters 9 and 10). -/

theorem startSweepRule_keeps : Leaves (RuleKeeps s) (startSweepRule s) := by
  unfold startSweepRule
  split <;> simp

theorem stopSweepRule_keeps : Leaves (RuleKeeps s) (stopSweepRule s) := by
  unfold stopSweepRule
  split
  case h_2 => exact ⟨.of_same rfl rfl rfl rfl rfl rfl rfl rfl fun _ => rfl, rfl⟩
  all_goals simp

theorem setNoticesRule_keeps : Leaves (RuleKeeps s) (setNoticesRule p s) := by
  unfold setNoticesRule
  split
  · exact ⟨.of_same rfl rfl rfl rfl rfl rfl rfl rfl fun _ => rfl, rfl⟩
  · exact leaves_refuse

theorem clearNoticesRule_keeps : Leaves (RuleKeeps s) (clearNoticesRule p s) := by
  unfold clearNoticesRule
  split
  · exact ⟨.of_same rfl rfl rfl rfl rfl rfl rfl rfl fun _ => rfl, rfl⟩
  · exact leaves_refuse

end Sys2Proof.Machine
end

section
/-! PROOFS. The requests that set the tables, the clock or the mode, and the events: what each of them keeps. -/

namespace Sys2Proof.Machine

variable {p : List Byte} {s t d before : State} {force : Bool}

/-! What every request keeps. -/

/-- What the rule of any request keeps: the port and the queue, and guarded lines stay guarded. -/
structure RuleAnswers (s t : State) : Prop where
  port : t.port = s.port
  pending : t.pending = s.pending
  permits : PermitsGuarded s → PermitsGuarded t

theorem RuleKeeps.answers (w : RuleKeeps s t) : RuleAnswers s t := ⟨w.port, w.pending, w.permits⟩

/-- A rule that ends as an event answers. -/
theorem conclude_answers (port : d.port = s.port) (pending : d.pending = s.pending) :
    RuleAnswers s (conclude before force d) :=
  ⟨by simpa using port, by simpa using pending, fun _ => conclude_permits _ _ _⟩

/-- What the rule of a request that sets the tables or the clock keeps beside: the mode, and the ranges. -/
structure RuleSets (s t : State) : Prop extends RuleAnswers s t where
  mode : t.env.mode = s.env.mode
  settings : SettingsInRange s.env → SettingsInRange t.env

/-! Ranges. -/

theorem clampTo_mem {lo hi v : Nat} (h : lo ≤ hi) : lo ≤ clampTo lo hi v ∧ clampTo lo hi v ≤ hi := by
  unfold clampTo; omega

/-- Ranges speak of the date and of the tables alone. -/
theorem SettingsInRange.congr {e e' : Env} (w : SettingsInRange e) (day : e'.clock.day = e.clock.day)
    (second : e'.clock.second = e.clock.second) (base : e'.clock.weekdayBase = e.clock.weekdayBase)
    (tables : e'.tables = e.tables) : SettingsInRange e' where
  day := day ▸ w.day
  second := second ▸ w.second
  weekdayBase := base ▸ w.weekdayBase
  guard := tables ▸ w.guard
  expectedTravel := tables ▸ w.expectedTravel
  travelTimeout := tables ▸ w.travelTimeout
  warnLevel := tables ▸ w.warnLevel
  foldStart := tables ▸ w.foldStart
  pause := tables ▸ w.pause
  interval := tables ▸ w.interval
  load := tables ▸ w.load
  tx := tables ▸ w.tx
  ant := tables ▸ w.ant
  group := tables ▸ w.group

theorem Keeps.settings (k : Keeps s t) (w : SettingsInRange s.env) : SettingsInRange t.env :=
  w.congr k.day k.second k.weekdayBase k.tables

/-- The end of an event leaves settings in their ranges. -/
theorem conclude_settings (w : SettingsInRange d.env) : SettingsInRange (conclude before force d).env :=
  w.congr (by simp) (by simp) (by simp) (by simp)

/-- A rule that sets tables and ends as an event. -/
theorem conclude_sets (port : d.port = s.port) (pending : d.pending = s.pending) (mode : d.env.mode = s.env.mode)
    (settings : SettingsInRange s.env → SettingsInRange d.env) : RuleSets s (conclude before force d) :=
  ⟨conclude_answers port pending, by simpa using mode, fun w => conclude_settings (settings w)⟩

/-- A change of one entry of a table keeps every entry in range when the new one is. -/
theorem Tab.get_set_all {α : Type} {n : Nat} {P : α → Prop} {l : Tab α n} {i : Fin n} {a : α} (new : P a)
    (old : ∀ j, P (l.get j)) (j : Fin n) : P ((l.set i a).get j) := by
  rw [Tab.get_set]
  split
  · exact new
  · exact old j

/-! The tables and their requests. -/

theorem TxCfg.clamp_inRange (c : TxCfg) (h : ¬ c.clamp.bandHigh < c.clamp.bandLow) : c.clamp.InRange where
  rating := clampTo_mem (by decide)
  band := ⟨(clampTo_mem (by decide)).1, Nat.le_of_not_lt h, (clampTo_mem (by decide)).2⟩
  muteTime := clampTo_mem (by decide)
  tuneBase := (clampTo_mem (by decide)).2
  tuneRate := (clampTo_mem (by decide)).2
  ramp := (clampTo_mem (by decide)).2

theorem storeTx_settings {u : Tx} {cfg : Option TxCfg} (h : ∀ c, cfg = some c → c.InRange)
    (w : SettingsInRange s.env) : SettingsInRange (storeTx u cfg s).env :=
  { w with tx := fun t => Tab.get_set_all (P := fun o => ∀ c : TxCfg, o = some c → c.InRange) h w.tx t }

theorem setTransmitterRule_sets : Leaves (RuleSets s) (setTransmitterRule p s) := by
  unfold setTransmitterRule; dsimp only
  split
  · exact leaves_refuse
  · split_ifs with _ _ _ hband
    · exact leaves_refuse
    · exact leaves_refuse
    · exact conclude_sets rfl rfl rfl (storeTx_settings (s := s) fun _ hc => nomatch hc)
    · exact leaves_refuse
    · exact conclude_sets rfl rfl rfl (storeTx_settings (s := s) fun c hc => by
        obtain rfl := Option.some.inj hc
        exact TxCfg.clamp_inRange _ hband)

theorem AntKind.clamp_inRange (k : AntKind) (h : k.bearing ≤ 359) : k.clamp.InRange := by
  cases k with
  | fixed b d => exact ⟨h, (clampTo_mem (by decide)).2⟩
  | slew b w st tt =>
    exact ⟨h, clampTo_mem (by decide), clampTo_mem (by decide), (clampTo_mem (by decide)).1, (clampTo_mem (by decide)).2⟩
  | rotatable b r tt => exact ⟨h, clampTo_mem (by decide), (clampTo_mem (by decide)).1, (clampTo_mem (by decide)).2⟩

theorem AntKind.tiltCount_mem (k : AntKind) (n : Nat) : 1 ≤ k.tiltCount n ∧ k.tiltCount n ≤ 4 := by
  cases k with
  | fixed => exact ⟨Nat.le_refl 1, Nat.le_add_left 1 3⟩
  | slew => exact clampTo_mem (by decide)
  | rotatable => exact clampTo_mem (by decide)

theorem AntCfg.clamp_inRange (c : AntCfg) (hb : c.kind.bearing ≤ 359) (h : ¬ c.clamp.bandHigh < c.clamp.bandLow) :
    c.clamp.InRange where
  kind := AntKind.clamp_inRange _ hb
  band := ⟨(clampTo_mem (by decide)).1, Nat.le_of_not_lt h, (clampTo_mem (by decide)).2⟩
  maxPower := clampTo_mem (by decide)
  tiltCount := AntKind.tiltCount_mem _ _
  fixedTilt b d hk := by
    simp only [AntCfg.clamp] at hk ⊢
    cases hc : c.kind with
    | fixed => rfl
    | slew => simp [hc, AntKind.clamp] at hk
    | rotatable => simp [hc, AntKind.clamp] at hk

theorem storeAnt_settings {a : Ant} {cfg : Option AntCfg} (h : ∀ c, cfg = some c → c.InRange)
    (w : SettingsInRange s.env) : SettingsInRange (storeAnt a cfg s).env :=
  { w with ant := fun b => Tab.get_set_all (P := fun o => ∀ c : AntCfg, o = some c → c.InRange) h w.ant b }

theorem setAntennaRule_sets : Leaves (RuleSets s) (setAntennaRule p s) := by
  unfold setAntennaRule; dsimp only
  split
  · exact leaves_refuse
  · split_ifs
    · exact leaves_refuse
    · exact leaves_refuse
    · exact conclude_sets rfl rfl rfl (storeAnt_settings (s := s) fun _ hc => nomatch hc)
  · split_ifs with hb _ hband
    · exact leaves_refuse
    · exact leaves_refuse
    · exact leaves_refuse
    · exact conclude_sets rfl rfl rfl (storeAnt_settings (s := s) fun c hc => by
        obtain rfl := Option.some.inj hc
        exact AntCfg.clamp_inRange _ (Nat.le_of_not_lt hb) hband)

theorem setLoadRule_sets : Leaves (RuleSets s) (setLoadRule p s) := by
  unfold setLoadRule; dsimp only
  split
  · exact leaves_refuse
  · exact conclude_sets rfl rfl rfl fun w => { w with
      load := Tab.get_set_all (P := fun v => 10 ≤ v ∧ v ≤ 600) (clampTo_mem (by decide)) w.load }

/-- The bytes of a group name as many antennas. -/
theorem antList_length {l : List Byte} {r : List Ant} (h : antList l = some r) : r.length = l.length := by
  induction l generalizing r with
  | nil => cases h; rfl
  | cons v l ih =>
    unfold antList at h
    split at h
    · next hl => cases h; simp [ih hl]
    · cases h

theorem distinct_nodup {l : List Ant} (h : distinct l = true) : l.Nodup := by
  induction l with
  | nil => exact .nil
  | cons a l ih =>
    simp only [distinct, Bool.and_eq_true, Bool.not_eq_true', List.contains_iff_mem, ← Bool.not_eq_true] at h
    exact List.nodup_cons.2 ⟨h.1, ih h.2⟩

theorem setGroupRule_sets (hp : p.length ≤ 7) : Leaves (RuleSets s) (setGroupRule p s) := by
  unfold setGroupRule; dsimp only
  split
  · next hl =>
    split
    · next hd =>
      have hlen := antList_length hl
      refine conclude_sets rfl rfl rfl fun w => { w with
        group := Tab.get_set_all (P := fun l : List Ant => l.length ≤ 6 ∧ l.Nodup) ⟨?_, distinct_nodup hd⟩ w.group }
      simp only [List.length_drop] at hlen
      omega
    · exact leaves_refuse
  · exact leaves_refuse

theorem setMatrixRule_sets : Leaves (RuleSets s) (setMatrixRule p s) :=
  conclude_sets rfl rfl rfl fun w => { w with
    expectedTravel := clampTo_mem (by decide)
    travelTimeout := by
      have ht := clampTo_mem (lo := 1) (hi := 20) (v := byteAt p 0) (by decide)
      have hm := clampTo_mem (lo := 2) (hi := 60) (v := byteAt p 1) (by decide)
      dsimp only [clampTimeout]
      omega }

theorem setProtectionRule_sets : Leaves (RuleSets s) (setProtectionRule p s) :=
  conclude_sets rfl rfl rfl fun w => { w with
    warnLevel := by
      have hw := clampTo_mem (lo := 5) (hi := 200) (v := byteAt p 0) (by decide)
      have hf := clampTo_mem (lo := 10) (hi := 300) (v := wordAt p 1) (by decide)
      dsimp only
      omega
    foldStart := clampTo_mem (by decide)
    pause := clampTo_mem (by decide) }

theorem setExerciseRule_sets : Leaves (RuleSets s) (setExerciseRule p s) :=
  ⟨⟨rfl, rfl, fun w => w.env rfl rfl rfl⟩, rfl, fun w => { w with interval := Nat.min_le_right _ _ }⟩

/-- A due list built anew leaves the rest of the environment, and the lines guarded. -/
theorem rebuildDue_permits (w : PermitsGuarded s) : PermitsGuarded (rebuildDue s) :=
  recompute_permits (w.env rfl rfl rfl)

theorem setPlanningRule_sets : Leaves (RuleSets s) (setPlanningRule p s) := by
  unfold setPlanningRule; dsimp only
  split
  · exact leaves_refuse
  · next hb =>
    exact ⟨⟨rfl, rfl, fun w => rebuildDue_permits (w.env rfl rfl rfl)⟩, rfl, fun w => { w with
      weekdayBase := Nat.le_of_not_lt hb
      guard := Nat.min_le_right _ _ }⟩

theorem byteAt_lt (i : Nat) : byteAt p i < 256 := (p.getD i 0).isLt

theorem wordAt_lt (i : Nat) : wordAt p i < 65536 := by
  have h0 := byteAt_lt (p := p) i
  have h1 := byteAt_lt (p := p) (i + 1)
  unfold wordAt
  omega

/-- SET TIME leaves the tables too. -/
theorem setTimeRule_sets : Leaves (fun t => RuleSets s t ∧ t.env.tables = s.env.tables) (setTimeRule p s) := by
  have hday := wordAt_lt (p := p) 0
  unfold setTimeRule; dsimp only
  split
  · exact leaves_refuse
  next hsec =>
  split
  · split
    · exact leaves_refuse
    · refine ⟨⟨⟨by simp, by simp, fun w => boundaries_permits (w.env rfl rfl rfl)⟩, by simp, fun w => ?_⟩, by simp⟩
      have set : SettingsInRange (s.modClock (Clock.setTo (wordAt p 0) (tripleAt p 2))).env :=
        { w with day := Nat.le_of_lt_succ hday, second := Nat.le_of_not_lt hsec }
      exact set.congr (by rw [boundaries_env]) (by rw [boundaries_env]) (by rw [boundaries_env]) (by simp)
  · refine ⟨⟨⟨?_, ?_, fun w => ?_⟩, ?_, fun w => ?_⟩, ?_⟩
    · split <;> rfl
    · split <;> rfl
    · refine rebuildDue_permits ?_
      split
      · exact w.env rfl rfl rfl
      · exact w.congr rfl fun _ => rfl
    · split <;> rfl
    · have set : SettingsInRange (s.modClock (Clock.setFreely (wordAt p 0) (tripleAt p 2))).env :=
        { w with day := Nat.le_of_lt_succ hday, second := Nat.le_of_not_lt hsec }
      split <;> exact set.congr rfl rfl rfl rfl
    · split <;> rfl

/-! GO RUN and GO CONFIG. -/

/-- What the rule of a request that changes the mode keeps: tables and date. A mode line does not hold the mode left, and
the mode entered is the one given. -/
structure RuleEnters (mode : Mode) (s t : State) : Prop extends RuleAnswers s t where
  tables : t.env.tables = s.env.tables
  clock : t.env.clock = s.env.clock
  entered : t.env.mode = mode
  free : lineHolds s.env = false

theorem goRunRule_enters : Leaves (RuleEnters (runEntry s.env.mode s.hall) s) (goRunRule s) := by
  unfold goRunRule; dsimp only
  split_ifs with hline
  case neg =>
    exact ⟨conclude_answers rfl rfl, conclude_tables _ _ _, conclude_clock _ _ _, conclude_mode _ _ _,
      Bool.eq_false_iff.2 hline⟩
  all_goals exact leaves_refuse

theorem goConfigRule_enters : Leaves (RuleEnters .config s) (goConfigRule p s) := by
  unfold goConfigRule; dsimp only
  split
  · exact leaves_refuse
  · split
    · exact leaves_refuse
    next hline =>
    split
    · exact leaves_refuse
    · exact ⟨conclude_answers rfl rfl, conclude_tables _ _ _, conclude_clock _ _ _, conclude_mode _ _ _,
        Bool.eq_false_iff.2 hline⟩

end Sys2Proof.Machine
end

section
/-! PROOFS. The events: what each of them keeps, and what the mode lines and the resets make of the mode. -/

namespace Sys2Proof.Machine

variable {s t d before : State} {force : Bool} {u : Tx}

/-! Time (Chapter 1). -/

/-- The count, advanced, keeps to its ranges and leaves the weekday base. -/
theorem Clock.advance_inRange {c : Clock} (day : c.day ≤ 65535) (second : c.second ≤ 86399) :
    c.advance.day ≤ 65535 ∧ c.advance.second ≤ 86399 := by
  unfold Clock.advance
  split_ifs <;> dsimp only <;> omega

theorem Clock.advance_weekdayBase (c : Clock) : c.advance.weekdayBase = c.weekdayBase := by
  unfold Clock.advance
  split_ifs <;> rfl

theorem advanceCount_clock : (advanceCount s).env.clock.day = s.env.clock.advance.day ∧
    (advanceCount s).env.clock.second = s.env.clock.advance.second ∧
    (advanceCount s).env.clock.weekdayBase = s.env.clock.weekdayBase := by
  unfold advanceCount; dsimp only
  split
  · exact ⟨rfl, rfl, Clock.advance_weekdayBase _⟩
  · rw [boundaries_env]
    exact ⟨rfl, rfl, Clock.advance_weekdayBase _⟩

theorem advanceCount_settings (w : SettingsInRange s.env) : SettingsInRange (advanceCount s).env := by
  obtain ⟨day, second, base⟩ := advanceCount_clock (s := s)
  have range := Clock.advance_inRange w.day w.second
  have counted : SettingsInRange { s.env with clock := { s.env.clock with
      day := s.env.clock.advance.day, second := s.env.clock.advance.second } } :=
    { w with day := range.1, second := range.2 }
  exact counted.congr day second base (by simp)

theorem advanceCount_permits (w : PermitsGuarded s) : PermitsGuarded (advanceCount s) := by
  unfold advanceCount; dsimp only
  split
  · exact w.env rfl rfl rfl
  · exact boundaries_permits (w.env rfl rfl rfl)

theorem timeMark_cases {P : State → Prop} (same : P s)
    (restart : P ((s.modClock (Clock.marked s.env.elapsed)).modClock fun c => { c with phase := 0 }))
    (advance : P (advanceCount (s.modClock (Clock.marked s.env.elapsed)))) :
    ∃ t, exec .timeMark s = .next t ∧ P t := by
  refine ⟨_, rfl, ?_⟩
  split
  · exact same
  · dsimp only
    split
    · exact restart
    · exact advance

theorem markWatchExpiry_keeps : ∃ t, exec .markWatchExpiry s = .next t ∧ Keeps s t := by
  refine ⟨_, rfl, ?_⟩
  split
  · exact .refl s
  · split
    · exact .refl s
    · dsimp only
      split <;> exact .of_same rfl rfl rfl rfl rfl rfl rfl rfl fun _ => rfl

/-! Timers and links (Chapters 4, 5 and 7). -/

theorem timerExpiry_keeps {k : TimerKind} {f : Env → Hall → Hall} : Keeps s (timerExpiry u k f s) := by
  unfold timerExpiry
  (repeat' split)
  · exact .refl s
  · exact conclude_passTo_keeps
  · exact .refl s

/-- A poll that goes out changes no gate and nothing that a gate reads. -/
theorem nextHallPoll_gates (e : Env) (h : Hall) :
    (nextHallPoll h).gates = h.gates ∧ permitConditions e (nextHallPoll h) u = permitConditions e h u := by
  unfold nextHallPoll
  split
  · exact ⟨rfl, rfl⟩
  · unfold sendHallPoll; dsimp only
    split <;> exact ⟨rfl, rfl⟩

theorem endHallPoll_keeps (s : State) : Keeps s (endHallPoll s) :=
  .of_same rfl rfl rfl rfl rfl rfl rfl (nextHallPoll_gates (u := 0) s.env _).1 fun _ => (nextHallPoll_gates s.env _).2

theorem beginHallCycle_keeps (s : State) : Keeps s (beginHallCycle s) :=
  .of_same rfl rfl rfl rfl rfl rfl rfl (nextHallPoll_gates (u := 0) s.env _).1 fun _ => (nextHallPoll_gates s.env _).2

theorem hallPollCycle_keeps : ∃ t, exec .hallPollCycle s = .next t ∧ Keeps s t := by
  refine ⟨_, rfl, ?_⟩
  split
  · exact .refl s
  · split
    · exact (passTo_keeps _ s).trans (beginHallCycle_keeps _)
    · exact beginHallCycle_keeps s

theorem telemetryReply_keeps {frame : List Byte} : ∃ t, exec (.telemetryReply frame) s = .next t ∧ Keeps s t := by
  refine ⟨_, rfl, ?_⟩
  split
  · split
    · exact conclude_hall_keeps.trans (endHallPoll_keeps _)
    · exact .refl s
  · exact .refl s

theorem telemetryMissed_keeps : ∃ t, exec .telemetryMissed s = .next t ∧ Keeps s t := by
  refine ⟨_, rfl, ?_⟩
  split
  · exact conclude_hall_keeps.trans (endHallPoll_keeps _)
  · exact .refl s

theorem driveReply_keeps {frame : List Byte} : ∃ t, exec (.driveReply frame) s = .next t ∧ Keeps s t := by
  refine ⟨_, rfl, ?_⟩
  (repeat' split) <;> simp

theorem travelTimeout_keeps : ∃ t, exec .travelTimeout s = .next t ∧ Keeps s t := by
  refine ⟨_, rfl, ?_⟩
  split
  · exact conclude_passTo_keeps
  · exact .refl s

/-! Positioners (Chapter 6). -/

theorem endPosPoll_keeps (s : State) : Keeps s (endPosPoll s) := conclude_hall_keeps

theorem beginPosCycle_keeps (s : State) : Keeps s (beginPosCycle s) := conclude_hall_keeps

theorem positionerPollCycle_keeps : ∃ t, exec .positionerPollCycle s = .next t ∧ Keeps s t := by
  refine ⟨_, rfl, ?_⟩
  split
  · exact .refl s
  · split
    · exact (passTo_keeps _ s).trans (beginPosCycle_keeps _)
    · exact beginPosCycle_keeps s

theorem positionerReply_keeps {frame : List Byte} : ∃ t, exec (.positionerReply frame) s = .next t ∧ Keeps s t := by
  refine ⟨_, rfl, ?_⟩
  split
  · split
    · exact conclude_hall_keeps.trans (endPosPoll_keeps _)
    · exact .refl s
  · exact .refl s

theorem positionerReplyMissed_keeps : ∃ t, exec .positionerReplyMissed s = .next t ∧ Keeps s t := by
  refine ⟨_, rfl, ?_⟩
  split
  · exact conclude_hall_keeps.trans (endPosPoll_keeps _)
  · exact .refl s

theorem positionerTimerExpiry_keeps {a : Ant} :
    ∃ t, exec (.positionerTimerExpiry a) s = .next t ∧ Keeps s t := by
  refine ⟨_, rfl, ?_⟩
  split
  · exact conclude_passTo_keeps
  · exact .refl s

/-! RF sense (Chapter 8). -/

theorem rfSenseChange_keeps {r : Row} {on : Bool} : ∃ t, exec (.rfSenseChange r on) s = .next t ∧ Keeps s t := by
  refine ⟨_, rfl, ?_⟩
  split
  · exact .of_same rfl rfl rfl rfl rfl rfl rfl rfl fun _ => rfl
  · exact conclude_keeps rfl rfl rfl rfl rfl rfl

theorem coverEnd_keeps {r : Row} : ∃ t, exec (.coverEnd r) s = .next t ∧ Keeps s t := by
  refine ⟨_, rfl, ?_⟩
  split
  · exact .refl s
  · exact conclude_keeps rfl rfl rfl rfl rfl rfl

/-! The command port (Chapter 10). -/

/-- A change of the port alone. -/
theorem port_keeps (q : Port) : Keeps s { s with port := q } := .of_same rfl rfl rfl rfl rfl rfl rfl rfl fun _ => rfl

theorem ite_keeps {c : Prop} [Decidable c] {x y : State} (hx : Keeps s x) (hy : Keeps s y) :
    Keeps s (if c then x else y) := by
  split
  · exact hx
  · exact hy

theorem periods_keep :
    (∃ t, exec .nop s = .next t ∧ Keeps s t) ∧ (∃ t, exec .emptyPeriod s = .next t ∧ Keeps s t) ∧
    (∃ t, exec .frameError s = .next t ∧ Keeps s t) ∧ ∃ t, exec .chipSelectAssert s = .next t ∧ Keeps s t :=
  ⟨⟨_, rfl, ite_keeps (port_keeps _) (port_keeps _)⟩, ⟨_, rfl, ite_keeps (port_keeps _) (port_keeps _)⟩,
    ⟨_, rfl, ite_keeps (port_keeps _) (.of_same rfl rfl rfl rfl rfl rfl rfl rfl fun _ => rfl)⟩,
    ⟨_, rfl, ite_keeps (.refl s) (port_keeps _)⟩⟩

theorem releases_keep :
    (∃ t, exec .hallstopRelease s = .next t ∧ Keeps s t) ∧ ∃ t, exec .localRelease s = .next t ∧ Keeps s t := by
  refine ⟨⟨_, rfl, rfl, rfl, rfl, rfl, rfl, rfl, fun w u hu => ?_⟩,
    ⟨_, rfl, .of_same rfl rfl rfl rfl rfl rfl rfl rfl fun _ => rfl⟩⟩
  have := w u hu
  simp only [permitConditions, Bool.and_eq_true, Bool.not_eq_true'] at this ⊢
  exact ⟨⟨⟨⟨this.1.1.1.1, rfl⟩, this.1.1.2⟩, this.1.2⟩, this.2⟩

/-! The mode lines and the resets (10.4). -/

theorem Env.mode_same {e : Env} {m : Mode} (h : e.mode = m) : { e with mode := m } = e := by subst h; rfl

theorem takeHallstop_env (s : State) : (takeHallstop s).env = { s.env with mode := .stop } := by
  unfold takeHallstop; dsimp only
  split
  · next h => exact (Env.mode_same h).symm
  · rfl

theorem takeLocal_env (s : State) :
    (takeLocal s).env = { s.env with mode := if s.env.mode = .stop then .stop else .localKey } := by
  unfold takeLocal
  split <;> next h => simp only [h, reduceCtorEq, if_true, if_false, State.inMode, Env.mode_same]

theorem takeHallstop_queue (s : State) : (takeHallstop s).pending = s.pending ∧ (takeHallstop s).port = s.port := by
  unfold takeHallstop; dsimp only
  split <;> exact ⟨rfl, rfl⟩

theorem takeLocal_queue (s : State) : (takeLocal s).pending = s.pending ∧ (takeLocal s).port = s.port := by
  unfold takeLocal
  split <;> exact ⟨rfl, rfl⟩

/-- The end of a mode line's event leaves the queue and everything of the environment but the due list, and guards the
lines. -/
theorem concludeLine_queue : (concludeLine before d).pending = d.pending ∧ (concludeLine before d).port = d.port := by
  unfold concludeLine
  split <;> simp

theorem concludeLine_env : (concludeLine before d).env = { d.env with due := (concludeLine before d).env.due } := by
  unfold concludeLine
  split
  · rfl
  · exact conclude_env _ _ _

theorem concludeLine_permits : PermitsGuarded (concludeLine before d) := by
  unfold concludeLine
  split
  · exact lowerFailed_permits d
  · exact conclude_permits _ _ _

/-- After a reset HALLSTOP, then LOCAL, gives the mode; the rest of the environment stands. -/
theorem examineLines_env (s : State) : (examineLines s).env = { s.env with mode :=
    if s.env.pins.hallstop then .stop
    else if s.env.pins.localKey then (if s.env.mode = .stop then .stop else .localKey)
    else s.env.mode } := by
  unfold examineLines
  by_cases hs : s.env.pins.hallstop = true
  · simp only [if_pos hs]; exact takeHallstop_env s
  · simp only [if_neg hs]
    by_cases hl : s.env.pins.localKey = true
    · simp only [if_pos hl]; exact takeLocal_env s
    · simp only [if_neg hl]

theorem examineLines_queue (s : State) : (examineLines s).pending = s.pending ∧ (examineLines s).port = s.port := by
  unfold examineLines
  (repeat' split)
  · exact takeHallstop_queue s
  · exact takeLocal_queue s
  · exact ⟨rfl, rfl⟩

theorem Env.powerUp_inRange (pins : Pins) : SettingsInRange (Env.powerUp pins) := by
  have released : SettingsInRange (Env.powerUp Pins.released) :=
    { day := by decide
      second := by decide
      weekdayBase := by decide
      guard := by decide
      expectedTravel := by decide
      travelTimeout := by decide
      warnLevel := by decide
      foldStart := by decide
      pause := by decide
      interval := by decide
      load := by simp [Env.powerUp, Tables.powerUp]
      tx := by simp [Env.powerUp, Tables.powerUp]
      ant := by simp [Env.powerUp, Tables.powerUp]
      group := by simp [Env.powerUp, Tables.powerUp] }
  exact released.congr rfl rfl rfl rfl

/-- The state of a hall reset before the lines are examined. -/
def afterReset (s : State) : State :=
  rebuildAfterReset { env := s.env.hallReset, port := s.port.hallReset, hall := s.hall.hallReset s.env.hallReset
                      pending := s.pending }

theorem exec_hallReset : exec .hallReset s = .next (conclude
    { env := s.env.hallReset, port := s.port.hallReset, hall := s.hall.hallReset s.env.hallReset, pending := s.pending }
    false (examineLines (afterReset s))) := rfl

theorem afterReset_env (s : State) :
    (afterReset s).env = { s.env.hallReset with due := (afterReset s).env.due } := by
  unfold afterReset rebuildAfterReset
  split <;> rfl

theorem afterReset_queue (s : State) : (afterReset s).pending = s.pending ∧ (afterReset s).port = s.port.hallReset := by
  unfold afterReset rebuildAfterReset
  split <;> exact ⟨rfl, rfl⟩

theorem Clock.hallReset_date (elapsed : Nat) (c : Clock) : (c.hallReset elapsed).day = c.day ∧
    (c.hallReset elapsed).second = c.second ∧ (c.hallReset elapsed).weekdayBase = c.weekdayBase := by
  unfold Clock.hallReset
  split <;> exact ⟨rfl, rfl, rfl⟩

/-! The survey (Chapter 5). -/

/-- A survey read ends with what most commands keep; but the last one enters RUN out of SURVEY. -/
theorem endRead_keeps (x : Xp) (p : Option Pos) (before s : State) :
    let t := endRead x p before s
    t.pending = s.pending ∧ t.env.tables = s.env.tables ∧ t.env.clock = s.env.clock ∧ PermitsGuarded t ∧
    (t.env.mode = s.env.mode ∨ (s.env.mode = .survey ∧ t.env.mode = .run)) := by
  unfold endRead; dsimp only
  split
  · next h => exact ⟨by simp, by simp, by simp, conclude_permits _ _ _, .inr ⟨h.1, by simp⟩⟩
  · exact ⟨by simp, by simp, by simp, conclude_permits _ _ _, .inl (by simp)⟩

end Sys2Proof.Machine
end

section
/-! PROOFS. What every command keeps (O2, O4, O6 to O9, O13, and O1): the commands that most of 10.3 and 10.4 leaves
alone at once, the others one by one. -/

namespace Sys2Proof.Machine

variable {s t : State} {c : Instr}

/-- The commands that change the tables, the date or the mode. -/
def reshapes : Instr → Bool
  | .powerUp | .hallReset | .hallstopAssert | .localAssert | .secondAdvance | .timeMark | .surveyReadReply _
  | .surveyReadTimeout | .setTime _ | .setPlanning _ | .setMatrix _ | .setAntenna _ | .setLoad _ | .setGroup _
  | .setTransmitter _ | .setProtection _ | .setExercise _ | .goRun _ | .goConfig _ => true
  | _ => false

/-- Every other command keeps the queue, the tables, the mode and the date, and guarded lines. -/
theorem exec_keeps (h : reshapes c = false) (s : State) : ∃ t, exec c s = .next t ∧ Keeps s t := by
  cases c with
  | powerUp | hallReset | hallstopAssert | localAssert | secondAdvance | timeMark | surveyReadReply | surveyReadTimeout
  | setTime | setPlanning | setMatrix | setAntenna | setLoad | setGroup | setTransmitter | setProtection | setExercise
  | goRun | goConfig => cases h
  | hallResetRelease => exact ⟨_, rfl, conclude_keeps rfl rfl rfl rfl rfl rfl⟩
  | hallstopRelease => exact releases_keep.1
  | localRelease => exact releases_keep.2
  | markWatchExpiry => exact markWatchExpiry_keeps
  | nop => exact periods_keep.1
  | emptyPeriod => exact periods_keep.2.1
  | frameError => exact periods_keep.2.2.1
  | chipSelectAssert => exact periods_keep.2.2.2
  | unknownCommand => exact ⟨_, rfl, ite_keeps (port_keeps _) (port_keeps _)⟩
  | setClock => exact ⟨_, rfl, request_keeps setClockRule_keeps⟩
  | readTime => exact ⟨_, rfl, request_keeps (.refl s)⟩
  | setHandover => exact ⟨_, rfl, request_keeps setHandoverRule_keeps⟩
  | cancelHandover => exact ⟨_, rfl, request_keeps cancelHandoverRule_keeps⟩
  | lockBank => exact ⟨_, rfl, request_keeps lockRule_keeps⟩
  | unlockBank => exact ⟨_, rfl, request_keeps lockRule_keeps⟩
  | freezeBanks => exact ⟨_, rfl, request_keeps freezeRule_keeps⟩
  | readBanks => exact ⟨_, rfl, request_keeps (.refl s)⟩
  | addSlot => exact ⟨_, rfl, request_keeps addSlotRule_keeps⟩
  | amendSlot => exact ⟨_, rfl, request_keeps (editRule_leaves fun _ _ => amendSlotRule_keeps)⟩
  | retireSlot => exact ⟨_, rfl, request_keeps (editRule_leaves fun _ _ => retireSlotRule_keeps)⟩
  | suspendSlot => exact ⟨_, rfl, request_keeps (editRule_leaves fun _ _ => suspendSlotRule_keeps)⟩
  | resumeSlot => exact ⟨_, rfl, request_keeps (editRule_leaves fun _ _ => resumeSlotRule_keeps)⟩
  | clearBank => exact ⟨_, rfl, request_keeps clearBankRule_keeps⟩
  | readSlot => exact ⟨_, rfl, request_keeps readSlotRule_keeps⟩
  | findSlots => exact ⟨_, rfl, request_keeps findSlotsRule_keeps⟩
  | readDueList => exact ⟨_, rfl, request_keeps readDueListRule_keeps⟩
  | readPlan => exact ⟨_, rfl, request_keeps readPlanRule_keeps⟩
  | readChangeover => exact ⟨_, rfl, request_keeps readChangeoverRule_keeps⟩
  | muteTimerExpiry => exact ⟨_, rfl, timerExpiry_keeps⟩
  | tuningTimerExpiry => exact ⟨_, rfl, timerExpiry_keeps⟩
  | rampTimerExpiry => exact ⟨_, rfl, timerExpiry_keeps⟩
  | pauseTimerExpiry => exact ⟨_, rfl, timerExpiry_keeps⟩
  | hallPollCycle => exact hallPollCycle_keeps
  | telemetryReply => exact telemetryReply_keeps
  | telemetryMissed => exact telemetryMissed_keeps
  | readTransmitter => exact ⟨_, rfl, request_keeps readTransmitterRule_keeps⟩
  | driveReply => exact driveReply_keeps
  | travelTimeout => exact travelTimeout_keeps
  | moveCrosspoint => exact ⟨_, rfl, request_keeps moveCrosspointRule_keeps⟩
  | clearCrosspoint => exact ⟨_, rfl, request_keeps clearCrosspointRule_keeps⟩
  | readRow => exact ⟨_, rfl, request_keeps readRowRule_keeps⟩
  | readQueue => exact ⟨_, rfl, request_keeps readQueueRule_keeps⟩
  | clearPositioner => exact ⟨_, rfl, request_keeps clearPositionerRule_keeps⟩
  | readAntenna => exact ⟨_, rfl, request_keeps readAntennaRule_keeps⟩
  | readGroups => exact ⟨_, rfl, request_keeps (.refl s)⟩
  | positionerPollCycle => exact positionerPollCycle_keeps
  | positionerReply => exact positionerReply_keeps
  | positionerReplyMissed => exact positionerReplyMissed_keeps
  | positionerTimerExpiry => exact positionerTimerExpiry_keeps
  | rfSenseChange => exact rfSenseChange_keeps
  | coverEnd => exact coverEnd_keeps
  | restore => exact ⟨_, rfl, request_keeps unitRule_keeps⟩
  | takeOut => exact ⟨_, rfl, request_keeps takeOutRule_keeps⟩
  | returnUnit => exact ⟨_, rfl, request_keeps unitRule_keeps⟩
  | prove => exact ⟨_, rfl, request_keeps proveRule_keeps⟩
  | stopProve => exact ⟨_, rfl, request_keeps stopProveRule_keeps⟩
  | clearStray => exact ⟨_, rfl, request_keeps clearStrayRule_keeps⟩
  | readProtection => exact ⟨_, rfl, request_keeps readProtectionRule_keeps⟩
  | ageMinute => exact ⟨_, rfl, .of_same rfl rfl rfl rfl rfl rfl rfl rfl fun _ => rfl⟩
  | startSweep => exact ⟨_, rfl, request_keeps startSweepRule_keeps⟩
  | stopSweep => exact ⟨_, rfl, request_keeps stopSweepRule_keeps⟩
  | readSweep => exact ⟨_, rfl, request_keeps (.refl s)⟩
  | setNotices => exact ⟨_, rfl, request_keeps setNoticesRule_keeps⟩
  | clearNotices => exact ⟨_, rfl, request_keeps clearNoticesRule_keeps⟩
  | readStatus => exact ⟨_, rfl, request_keeps (.refl s)⟩

/-! The queue and the lines (O2, O6). -/

/-- A next state with the queue that waited and, where it was so before, with guarded lines. -/
def StepsSafely (c : Instr) (s : State) : Prop :=
  ∃ t, exec c s = .next t ∧ t.pending = s.pending ∧ (PermitsGuarded s → PermitsGuarded t)

theorem request_safely {lengthOk : Bool} {modeOk : Mode → Bool} {rule : State → Verdict}
    (arm : exec c s = .next (request lengthOk modeOk rule s)) (w : Leaves (RuleAnswers s) (rule s)) : StepsSafely c s :=
  ⟨_, arm, request_leaves (P := fun t => t.pending = s.pending ∧ (PermitsGuarded s → PermitsGuarded t))
    (fun _ _ k => k) ⟨rfl, id⟩ (w.imp fun _ k => ⟨k.pending, k.permits⟩)⟩

theorem sets_safely {lengthOk : Bool} {modeOk : Mode → Bool} {rule : State → Verdict}
    (arm : exec c s = .next (request lengthOk modeOk rule s)) (w : Leaves (RuleSets s) (rule s)) : StepsSafely c s :=
  request_safely arm (w.imp fun _ k => k.toRuleAnswers)

/-- SET GROUP with more bytes than its layout allows is refused, so its rule meets at most seven. -/
theorem exec_setGroup (p : List Byte) (s : State) : ∃ rule : State → Verdict,
    exec (.setGroup p) s = .next (request (2 ≤ p.length && p.length ≤ 7) anyMode rule s) ∧ Leaves (RuleSets s) (rule s) := by
  by_cases h : p.length ≤ 7
  · exact ⟨_, rfl, setGroupRule_sets h⟩
  · refine ⟨fun _ => refuse .field, ?_, leaves_refuse⟩
    simp [exec, execSetGroup, request, h]

theorem exec_safely (c : Instr) (s : State) : StepsSafely c s := by
  by_cases h : reshapes c = false
  · obtain ⟨t, ht, k⟩ := exec_keeps h s
    exact ⟨t, ht, k.pending, k.permits⟩
  cases c with
  | powerUp => exact ⟨_, rfl, by simp [examineLines_queue], fun _ => conclude_permits _ _ _⟩
  | hallReset =>
    exact ⟨_, exec_hallReset, by simp [examineLines_queue, afterReset_queue], fun _ => conclude_permits _ _ _⟩
  | hallstopAssert =>
    exact ⟨_, rfl, concludeLine_queue.1.trans (takeHallstop_queue _).1, fun _ => concludeLine_permits⟩
  | localAssert => exact ⟨_, rfl, concludeLine_queue.1.trans (takeLocal_queue _).1, fun _ => concludeLine_permits⟩
  | secondAdvance => exact ⟨_, rfl, by simp, fun w => advanceCount_permits (w.env rfl rfl rfl)⟩
  | timeMark =>
    exact timeMark_cases ⟨rfl, id⟩ ⟨rfl, fun w => w.env rfl rfl rfl⟩
      ⟨by simp, fun w => advanceCount_permits (w.env rfl rfl rfl)⟩
  | surveyReadReply frame =>
    refine ⟨_, rfl, ?_⟩
    split
    · split
      · have k := endRead_keeps
        exact ⟨(k _ _ _ _).1, fun _ => (k _ _ _ _).2.2.2.1⟩
      · exact ⟨rfl, id⟩
    · exact ⟨rfl, id⟩
  | surveyReadTimeout =>
    refine ⟨_, rfl, ?_⟩
    split
    · have k := endRead_keeps
      exact ⟨(k _ _ _ _).1, fun _ => (k _ _ _ _).2.2.2.1⟩
    · exact ⟨rfl, id⟩
  | setTime => exact request_safely rfl (setTimeRule_sets.imp fun _ k => k.1.toRuleAnswers)
  | setPlanning => exact sets_safely rfl setPlanningRule_sets
  | setMatrix => exact sets_safely rfl setMatrixRule_sets
  | setAntenna => exact sets_safely rfl setAntennaRule_sets
  | setLoad => exact sets_safely rfl setLoadRule_sets
  | setGroup p =>
    obtain ⟨rule, arm, w⟩ := exec_setGroup p s
    exact sets_safely arm w
  | setTransmitter => exact sets_safely rfl setTransmitterRule_sets
  | setProtection => exact sets_safely rfl setProtectionRule_sets
  | setExercise => exact sets_safely rfl setExerciseRule_sets
  | goRun => exact request_safely rfl (goRunRule_enters.imp fun _ k => k.toRuleAnswers)
  | goConfig => exact request_safely rfl (goConfigRule_enters.imp fun _ k => k.toRuleAnswers)
  | _ => exact absurd rfl h

/-- The one next state of a command. -/
theorem exec_next_inj {u : State} (h : exec c s = .next t) (h' : exec c s = .next u) : t = u := by
  rw [h] at h'
  exact Host.Outcome.next.inj h'

/-- Settles O2. -/
theorem everyCommandTakesANextState : Obligations.EveryCommandTakesANextState := fun c s =>
  have ⟨t, next, pending, _⟩ := exec_safely c s
  ⟨t, next, pending⟩

/-- A step with a command waiting is that command's on the state with the rest. -/
theorem step_cons {rest : List Instr} (h : s.pending = c :: rest) : step s = exec c { s with pending := rest } := by
  unfold step; rw [h]

/-- A step with none waiting lets a millisecond pass. -/
theorem step_nil (h : s.pending = []) : step s = .next { s with env := passTime 1 s.env } := by
  unfold step; rw [h]

/-- What every command keeps whatever waits, and a passing millisecond too, every step keeps. -/
theorem step_keeps {P : State → Prop} (queue : ∀ s q, P s → P { s with pending := q })
    (time : ∀ s, P s → P { s with env := passTime 1 s.env })
    (commands : ∀ c s, P s → ∃ t, exec c s = .next t ∧ P t) (w : P s) (h : step s = .next t) : P t := by
  cases hq : s.pending with
  | nil =>
    rw [step_nil hq] at h
    exact Host.Outcome.next.inj h ▸ time s w
  | cons c rest =>
    rw [step_cons hq] at h
    obtain ⟨u, hu, wu⟩ := commands c _ (queue s rest w)
    exact exec_next_inj h hu ▸ wu

/-- Settles O6: every command leaves guarded lines guarded, by what it keeps or by the end of its event. -/
theorem permitsStayGuarded : Obligations.PermitsStayGuarded := fun _ _ =>
  step_keeps (P := PermitsGuarded) (fun _ _ w => w) (fun _ w => w.env rfl rfl rfl) fun c s w =>
    have ⟨t, next, _, permits⟩ := exec_safely c s
    ⟨t, next, permits w⟩

/-- Settles O1. -/
theorem stepTakesTheFrontCommand : Obligations.StepTakesTheFrontCommand :=
  ⟨fun _ _ _ => rfl, fun _ h => step_nil h⟩

/-! Settings (O7, O4). -/

theorem request_settings {lengthOk : Bool} {modeOk : Mode → Bool} {rule : State → Verdict} (w : SettingsInRange s.env)
    (h : Leaves (RuleSets s) (rule s)) : SettingsInRange (request lengthOk modeOk rule s).env :=
  request_leaves (P := fun t => SettingsInRange t.env) (fun _ _ k => k) w (h.imp fun _ k => k.settings w)

theorem RuleEnters.settings {m : Mode} (k : RuleEnters m s t) (w : SettingsInRange s.env) : SettingsInRange t.env :=
  w.congr (by rw [k.clock]) (by rw [k.clock]) (by rw [k.clock]) k.tables

theorem request_enters_settings {lengthOk : Bool} {modeOk : Mode → Bool} {rule : State → Verdict} {m : Mode}
    (w : SettingsInRange s.env) (h : Leaves (RuleEnters m s) (rule s)) :
    SettingsInRange (request lengthOk modeOk rule s).env :=
  request_leaves (P := fun t => SettingsInRange t.env) (fun _ _ k => k) w (h.imp fun _ k => k.settings w)

theorem exec_settings (c : Instr) (s : State) (w : SettingsInRange s.env) :
    ∃ t, exec c s = .next t ∧ SettingsInRange t.env := by
  by_cases h : reshapes c = false
  · obtain ⟨t, ht, k⟩ := exec_keeps h s
    exact ⟨t, ht, k.settings w⟩
  have read (x : Xp) (p : Option Pos) (before u : State) (wu : SettingsInRange u.env) :
      SettingsInRange (endRead x p before u).env := by
    obtain ⟨-, tables, clock, -, -⟩ := endRead_keeps x p before u
    exact wu.congr (by rw [clock]) (by rw [clock]) (by rw [clock]) tables
  cases c with
  | powerUp =>
    refine ⟨_, rfl, conclude_settings ?_⟩
    rw [examineLines_env]
    exact (Env.powerUp_inRange s.env.pins).congr rfl rfl rfl rfl
  | hallReset =>
    refine ⟨_, exec_hallReset, conclude_settings ?_⟩
    obtain ⟨day, second, base⟩ := Clock.hallReset_date s.env.elapsed s.env.clock
    rw [examineLines_env, afterReset_env]
    exact w.congr day second base rfl
  | hallstopAssert =>
    refine ⟨_, rfl, ?_⟩
    rw [concludeLine_env, takeHallstop_env]
    exact w.congr rfl rfl rfl rfl
  | localAssert =>
    refine ⟨_, rfl, ?_⟩
    rw [concludeLine_env, takeLocal_env]
    exact w.congr rfl rfl rfl rfl
  | secondAdvance => exact ⟨_, rfl, advanceCount_settings (w.congr rfl rfl rfl rfl)⟩
  | timeMark =>
    exact timeMark_cases (P := fun t => SettingsInRange t.env) w (w.congr rfl rfl rfl rfl)
      (advanceCount_settings (w.congr rfl rfl rfl rfl))
  | surveyReadReply frame =>
    refine ⟨_, rfl, ?_⟩
    split
    · split
      · exact read _ _ _ _ w
      · exact w
    · exact w
  | surveyReadTimeout =>
    refine ⟨_, rfl, ?_⟩
    split
    · exact read _ _ _ _ (w.congr rfl rfl rfl rfl)
    · exact w
  | setTime => exact ⟨_, rfl, request_settings w (setTimeRule_sets.imp fun _ k => k.1)⟩
  | setPlanning => exact ⟨_, rfl, request_settings w setPlanningRule_sets⟩
  | setMatrix => exact ⟨_, rfl, request_settings w setMatrixRule_sets⟩
  | setAntenna => exact ⟨_, rfl, request_settings w setAntennaRule_sets⟩
  | setLoad => exact ⟨_, rfl, request_settings w setLoadRule_sets⟩
  | setGroup p =>
    obtain ⟨rule, arm, k⟩ := exec_setGroup p s
    exact ⟨_, arm, request_settings w k⟩
  | setTransmitter => exact ⟨_, rfl, request_settings w setTransmitterRule_sets⟩
  | setProtection => exact ⟨_, rfl, request_settings w setProtectionRule_sets⟩
  | setExercise => exact ⟨_, rfl, request_settings w setExerciseRule_sets⟩
  | goRun => exact ⟨_, rfl, request_enters_settings w goRunRule_enters⟩
  | goConfig => exact ⟨_, rfl, request_enters_settings w goConfigRule_enters⟩
  | _ => exact absurd rfl h

/-- Settles O7: the requests clamp what they set, the count rolls over, and no other command touches either. -/
theorem settingsStayInRange : Obligations.SettingsStayInRange := fun _ _ =>
  step_keeps (P := fun s => SettingsInRange s.env) (fun _ _ w => w) (fun _ w => w.congr rfl rfl rfl rfl) exec_settings

/-- Settles O4: no line is high at power-up, and the settings are those of the reset tables. -/
theorem invariantsHoldAfterPowerUp : Obligations.InvariantsHoldAfterPowerUp :=
  ⟨.of_low fun u => by simp [Hall.lineLow, State.reset, Hall.powerUp, Gate.low], Env.powerUp_inRange _⟩

/-! Tables (O9). -/

theorem request_tables {lengthOk : Bool} {modeOk : Mode → Bool} {rule : State → Verdict}
    (h : Leaves (fun t => t.env.tables = s.env.tables) (rule s)) :
    (request lengthOk modeOk rule s).env.tables = s.env.tables :=
  request_leaves (P := fun t => t.env.tables = s.env.tables) (fun _ _ k => k) rfl h

theorem exec_tables (h : setsTables c = false) (s : State) : ∃ t, exec c s = .next t ∧ t.env.tables = s.env.tables := by
  by_cases hc : reshapes c = false
  · obtain ⟨t, ht, k⟩ := exec_keeps hc s
    exact ⟨t, ht, k.tables⟩
  cases c with
  | hallReset => exact ⟨_, exec_hallReset, by rw [conclude_tables, examineLines_env, afterReset_env]; rfl⟩
  | hallstopAssert => exact ⟨_, rfl, by rw [concludeLine_env, takeHallstop_env]; rfl⟩
  | localAssert => exact ⟨_, rfl, by rw [concludeLine_env, takeLocal_env]; rfl⟩
  | secondAdvance => exact ⟨_, rfl, advanceCount_tables⟩
  | timeMark => exact timeMark_cases (P := fun t => t.env.tables = s.env.tables) rfl rfl advanceCount_tables
  | surveyReadReply frame =>
    refine ⟨_, rfl, ?_⟩
    split
    · split
      · exact (endRead_keeps _ _ _ _).2.1
      · rfl
    · rfl
  | surveyReadTimeout =>
    refine ⟨_, rfl, ?_⟩
    split
    · exact (endRead_keeps _ _ _ _).2.1
    · rfl
  | setTime => exact ⟨_, rfl, request_tables (setTimeRule_sets.imp fun _ k => k.2)⟩
  | goRun => exact ⟨_, rfl, request_tables (goRunRule_enters.imp fun _ k => k.tables)⟩
  | goConfig => exact ⟨_, rfl, request_tables (goConfigRule_enters.imp fun _ k => k.tables)⟩
  | powerUp | setPlanning | setMatrix | setAntenna | setLoad | setGroup | setTransmitter | setProtection | setExercise =>
    cases h
  | _ => exact absurd rfl hc

/-- Settles O9. -/
theorem tablesChangeOnlyByTheirRequests : Obligations.TablesChangeOnlyByTheirRequests := fun _ s _ next h =>
  have ⟨_, next', tables⟩ := exec_tables h s
  exec_next_inj next next' ▸ tables

/-! The mode (O8). -/

/-- A request that changes the mode is one that its mode takes, and whose rule accepts. -/
theorem request_mode {lengthOk : Bool} {modeOk : Mode → Bool} {rule : State → Verdict} {m : Mode}
    (h : Leaves (RuleEnters m s) (rule s)) :
    (request lengthOk modeOk rule s).env.mode = s.env.mode ∨
    (modeOk s.env.mode = true ∧ lineHolds s.env = false ∧ (request lengthOk modeOk rule s).env.mode = m) := by
  obtain ⟨-, hr⟩ | ⟨-, -, hr⟩ | ⟨-, -, -, hr⟩ | ⟨-, -, hm, hr⟩ :=
    request_cases (s := s) (lengthOk := lengthOk) (modeOk := modeOk) (rule := rule) <;> rw [hr]
  · exact .inl rfl
  · exact .inl rfl
  · exact .inl rfl
  · cases hv : rule s with
    | error st => exact .inl rfl
    | ok x => rw [hv] at h; exact .inr ⟨hm, h.free, h.entered⟩

theorem lines_free (h : lineHolds s.env = false) (m : s.env.mode = .stop ∨ s.env.mode = .localKey) :
    s.env.pins.hallstop = false ∧ s.env.pins.localKey = false := by
  obtain m | m := m <;> simpa [lineHolds, m] using h

/-- The modes that a reset enters (R200). -/
theorem reset_mode {u : State} (h : u.env.mode = .config) :
    (examineLines u).env.mode = .config ∨ (examineLines u).env.mode = .stop ∨
    (examineLines u).env.mode = .localKey := by
  rw [examineLines_env]; dsimp only
  split_ifs <;> simp_all

/-- A command either leaves the mode or changes it by the table, and STOP and LOCAL only with the lines released. -/
def ChangesAsTabled (c : Instr) (s t : State) : Prop :=
  t.env.mode = s.env.mode ∨ modeTable c s.env.mode t.env.mode ∧
    ((s.env.mode = .stop ∨ s.env.mode = .localKey) →
      c = .powerUp ∨ c = .hallReset ∨ c = .hallstopAssert ∨
        (s.env.pins.hallstop = false ∧ s.env.pins.localKey = false))

theorem sets_mode {lengthOk : Bool} {modeOk : Mode → Bool} {rule : State → Verdict}
    (h : Leaves (RuleSets s) (rule s)) : (request lengthOk modeOk rule s).env.mode = s.env.mode :=
  request_leaves (P := fun t => t.env.mode = s.env.mode) (fun _ _ k => k) rfl (h.imp fun _ k => k.mode)

/-- The last survey read enters RUN out of SURVEY. -/
theorem endRead_mode (x : Xp) (p : Option Pos) (before s : State) :
    (endRead x p before s).env.mode = s.env.mode ∨ (s.env.mode = .survey ∧ (endRead x p before s).env.mode = .run) :=
  (endRead_keeps x p before s).2.2.2.2

theorem exec_mode (c : Instr) (s : State) : ∃ t, exec c s = .next t ∧ ChangesAsTabled c s t := by
  by_cases h : reshapes c = false
  · obtain ⟨t, ht, k⟩ := exec_keeps h s
    exact ⟨t, ht, .inl k.mode⟩
  cases c with
  | powerUp =>
    refine ⟨_, rfl, .inr ⟨?_, fun _ => .inl rfl⟩⟩
    rw [conclude_mode]; exact reset_mode rfl
  | hallReset =>
    refine ⟨_, exec_hallReset, .inr ⟨?_, fun _ => .inr (.inl rfl)⟩⟩
    rw [conclude_mode]
    exact reset_mode (by rw [afterReset_env]; rfl)
  | hallstopAssert =>
    refine ⟨_, rfl, .inr ⟨?_, fun _ => .inr (.inr (.inl rfl))⟩⟩
    rw [concludeLine_env, takeHallstop_env]; rfl
  | localAssert =>
    refine ⟨_, rfl, ?_⟩
    unfold ChangesAsTabled
    rw [concludeLine_env, takeLocal_env]
    cases hm : s.env.mode <;> simp [State.modPins, modeTable, hm]
  | secondAdvance => exact ⟨_, rfl, .inl advanceCount_mode⟩
  | timeMark => exact timeMark_cases (P := ChangesAsTabled .timeMark s) (.inl rfl) (.inl rfl) (.inl advanceCount_mode)
  | surveyReadReply frame =>
    refine ⟨_, rfl, ?_⟩
    split
    · split
      · exact (endRead_mode _ _ s s).imp id fun m => ⟨m, by simp [m.1]⟩
      · exact .inl rfl
    · exact .inl rfl
  | surveyReadTimeout =>
    refine ⟨_, rfl, ?_⟩
    split
    · next g _ =>
      have survey := endRead_mode g.xp none s (s.passTo g.expiry)
      exact survey.imp id fun m => ⟨m, by have := m.1; simp_all⟩
    · exact .inl rfl
  | setTime => exact ⟨_, rfl, .inl (sets_mode (setTimeRule_sets.imp fun _ k => k.1))⟩
  | setPlanning => exact ⟨_, rfl, .inl (sets_mode setPlanningRule_sets)⟩
  | setMatrix => exact ⟨_, rfl, .inl (sets_mode setMatrixRule_sets)⟩
  | setAntenna => exact ⟨_, rfl, .inl (sets_mode setAntennaRule_sets)⟩
  | setLoad => exact ⟨_, rfl, .inl (sets_mode setLoadRule_sets)⟩
  | setGroup p =>
    obtain ⟨rule, arm, k⟩ := exec_setGroup p s
    exact ⟨_, arm, .inl (sets_mode k)⟩
  | setTransmitter => exact ⟨_, rfl, .inl (sets_mode setTransmitterRule_sets)⟩
  | setProtection => exact ⟨_, rfl, .inl (sets_mode setProtectionRule_sets)⟩
  | setExercise => exact ⟨_, rfl, .inl (sets_mode setExerciseRule_sets)⟩
  | goRun =>
    refine ⟨_, rfl, (request_mode goRunRule_enters).imp id fun m => ?_⟩
    obtain ⟨taken, free, entered⟩ := m
    refine ⟨?_, fun h => .inr (.inr (.inr (lines_free free h)))⟩
    rw [entered]
    cases hm : s.env.mode <;> cases hu : s.hall.unread <;> simp_all [goRunMode, runEntry, modeTable]
  | goConfig =>
    refine ⟨_, rfl, (request_mode goConfigRule_enters).imp id fun m => ?_⟩
    obtain ⟨taken, free, entered⟩ := m
    refine ⟨?_, fun h => .inr (.inr (.inr (lines_free free h)))⟩
    rw [entered]
    exact ⟨fun h => by simp [goConfigMode, h] at taken, rfl⟩
  | _ => exact absurd rfl h

/-- Settles O8. -/
theorem modeChangesAsTabled : Obligations.ModeChangesAsTabled := fun c s _ next changed => by
  obtain ⟨u, next', h⟩ := exec_mode c s
  obtain rfl := exec_next_inj next next'
  exact h.resolve_left changed

/-! Refused requests (O13). -/

/-- A request is checked by the port, then by its rule, which leaves the port for the reply. -/
theorem exec_request (h : (requestCode c).isSome = true) (nop : c ≠ .nop) (s : State) :
    ∃ (lengthOk : Bool) (modeOk : Mode → Bool) (rule : State → Verdict),
      exec c s = .next (request lengthOk modeOk rule s) ∧ Leaves (fun t => t.port = s.port) (rule s) := by
  have keeps {v : Verdict} (w : Leaves (RuleKeeps s) v) : Leaves (fun t => t.port = s.port) v := w.imp fun _ k => k.port
  have sets {v : Verdict} (w : Leaves (RuleSets s) v) : Leaves (fun t => t.port = s.port) v := w.imp fun _ k => k.port
  cases c with
  | nop => exact absurd rfl nop
  | unknownCommand => exact ⟨true, anyMode, fun _ => refuse .unknownCommand, rfl, leaves_refuse⟩
  | setTime => exact ⟨_, _, _, rfl, sets (setTimeRule_sets.imp fun _ k => k.1)⟩
  | setClock => exact ⟨_, _, _, rfl, keeps setClockRule_keeps⟩
  | readTime => exact ⟨_, _, _, rfl, rfl⟩
  | setPlanning => exact ⟨_, _, _, rfl, sets setPlanningRule_sets⟩
  | setHandover => exact ⟨_, _, _, rfl, keeps setHandoverRule_keeps⟩
  | cancelHandover => exact ⟨_, _, _, rfl, keeps cancelHandoverRule_keeps⟩
  | lockBank => exact ⟨_, _, _, rfl, keeps lockRule_keeps⟩
  | unlockBank => exact ⟨_, _, _, rfl, keeps lockRule_keeps⟩
  | freezeBanks => exact ⟨_, _, _, rfl, rfl⟩
  | readBanks => exact ⟨_, _, _, rfl, rfl⟩
  | addSlot => exact ⟨_, _, _, rfl, keeps addSlotRule_keeps⟩
  | amendSlot => exact ⟨_, _, _, rfl, keeps (editRule_leaves fun _ _ => amendSlotRule_keeps)⟩
  | retireSlot => exact ⟨_, _, _, rfl, keeps (editRule_leaves fun _ _ => retireSlotRule_keeps)⟩
  | suspendSlot => exact ⟨_, _, _, rfl, keeps (editRule_leaves fun _ _ => suspendSlotRule_keeps)⟩
  | resumeSlot => exact ⟨_, _, _, rfl, keeps (editRule_leaves fun _ _ => resumeSlotRule_keeps)⟩
  | clearBank => exact ⟨_, _, _, rfl, keeps clearBankRule_keeps⟩
  | readSlot => exact ⟨_, _, _, rfl, keeps readSlotRule_keeps⟩
  | findSlots => exact ⟨_, _, _, rfl, keeps findSlotsRule_keeps⟩
  | readDueList => exact ⟨_, _, _, rfl, keeps readDueListRule_keeps⟩
  | readPlan => exact ⟨_, _, _, rfl, keeps readPlanRule_keeps⟩
  | readChangeover => exact ⟨_, _, _, rfl, keeps readChangeoverRule_keeps⟩
  | setTransmitter => exact ⟨_, _, _, rfl, sets setTransmitterRule_sets⟩
  | readTransmitter => exact ⟨_, _, _, rfl, keeps readTransmitterRule_keeps⟩
  | setMatrix => exact ⟨_, _, _, rfl, sets setMatrixRule_sets⟩
  | moveCrosspoint => exact ⟨_, _, _, rfl, keeps moveCrosspointRule_keeps⟩
  | clearCrosspoint => exact ⟨_, _, _, rfl, keeps clearCrosspointRule_keeps⟩
  | readRow => exact ⟨_, _, _, rfl, keeps readRowRule_keeps⟩
  | readQueue => exact ⟨_, _, _, rfl, keeps readQueueRule_keeps⟩
  | setAntenna => exact ⟨_, _, _, rfl, sets setAntennaRule_sets⟩
  | setLoad => exact ⟨_, _, _, rfl, sets setLoadRule_sets⟩
  | clearPositioner => exact ⟨_, _, _, rfl, keeps clearPositionerRule_keeps⟩
  | setGroup p =>
    obtain ⟨rule, arm, k⟩ := exec_setGroup p s
    exact ⟨_, _, rule, arm, sets k⟩
  | readAntenna => exact ⟨_, _, _, rfl, keeps readAntennaRule_keeps⟩
  | readGroups => exact ⟨_, _, _, rfl, rfl⟩
  | setProtection => exact ⟨_, _, _, rfl, sets setProtectionRule_sets⟩
  | restore => exact ⟨_, _, _, rfl, keeps unitRule_keeps⟩
  | takeOut => exact ⟨_, _, _, rfl, keeps takeOutRule_keeps⟩
  | returnUnit => exact ⟨_, _, _, rfl, keeps unitRule_keeps⟩
  | prove => exact ⟨_, _, _, rfl, keeps proveRule_keeps⟩
  | stopProve => exact ⟨_, _, _, rfl, keeps stopProveRule_keeps⟩
  | clearStray => exact ⟨_, _, _, rfl, keeps clearStrayRule_keeps⟩
  | readProtection => exact ⟨_, _, _, rfl, keeps readProtectionRule_keeps⟩
  | setExercise => exact ⟨_, _, _, rfl, rfl⟩
  | startSweep => exact ⟨_, _, _, rfl, keeps startSweepRule_keeps⟩
  | stopSweep => exact ⟨_, _, _, rfl, keeps stopSweepRule_keeps⟩
  | readSweep => exact ⟨_, _, _, rfl, rfl⟩
  | goRun => exact ⟨_, _, _, rfl, goRunRule_enters.imp fun _ k => k.port⟩
  | goConfig => exact ⟨_, _, _, rfl, goConfigRule_enters.imp fun _ k => k.port⟩
  | setNotices => exact ⟨_, _, _, rfl, keeps setNoticesRule_keeps⟩
  | clearNotices => exact ⟨_, _, _, rfl, keeps clearNoticesRule_keeps⟩
  | readStatus => exact ⟨_, _, _, rfl, rfl⟩
  | _ => cases h

/-- A verdict that leaves the port is carried out with one reply: a refusal touches nothing else. -/
theorem carryOut_replies {v : Verdict} (w : Leaves (fun t => t.port = s.port) v) :
    ∃ r : Reply, (carryOut s v).port = s.port.fill (some r) ∧
      (r.status ≠ .ok → r.payload = [] ∧ carryOut s v = { s with port := s.port.fill (some r) }) := by
  cases v with
  | error st => exact ⟨_, rfl, fun _ => ⟨rfl, rfl⟩⟩
  | ok x =>
    refine ⟨{ status := .ok, payload := x.2 }, ?_, fun h => absurd rfl h⟩
    exact congrArg (fun q : Port => q.fill (some { status := .ok, payload := x.2 })) w

/-- Settles O13. -/
theorem refusedRequestsChangeNothing : Obligations.RefusedRequestsChangeNothing := by
  intro c s t w nop code next
  obtain ⟨lengthOk, modeOk, rule, arm, port⟩ := exec_request code nop s
  obtain rfl := exec_next_inj next arm
  obtain ⟨hw, -⟩ | ⟨-, -, hr⟩ | ⟨-, -, -, hr⟩ | ⟨-, -, -, hr⟩ :=
    request_cases (s := s) (lengthOk := lengthOk) (modeOk := modeOk) (rule := rule)
  · exact absurd w hw
  · rw [hr]; exact carryOut_replies leaves_refuse
  · rw [hr]; exact carryOut_replies leaves_refuse
  · rw [hr]; exact carryOut_replies port

end Sys2Proof.Machine
end

section
/-! PROOFS. The command port: how a request with a known verdict is answered, the bytes of payloads, frames and periods
(O11, O12, O14), notices (O16, O17), and the requests that only read (O25, O34 to O36, O38). -/

namespace Sys2Proof.Machine

/-! A request whose verdict is known. -/

section answers
variable {s d before : State} {c : Instr} {lengthOk force : Bool} {modeOk : Mode → Bool} {rule : State → Verdict}
  {st : Status} {payload : List Byte}

theorem refused_badLength (w : Received s) (arm : exec c s = .next (request lengthOk modeOk rule s))
    (hl : lengthOk = false) : RefusedWith c .field s := by
  rw [RefusedWith, arm, request_badLength w hl, carryOut_refuse]

theorem refused_badMode (w : Received s) (arm : exec c s = .next (request lengthOk modeOk rule s))
    (hl : lengthOk = true) (hm : modeOk s.env.mode = false) : RefusedWith c .mode s := by
  rw [RefusedWith, arm, request_badMode w hl hm, carryOut_refuse]

theorem refused_rule (w : Received s) (arm : exec c s = .next (request lengthOk modeOk rule s)) (hl : lengthOk = true)
    (hm : modeOk s.env.mode = true) (hr : rule s = refuse st) : RefusedWith c st s := by
  rw [RefusedWith, arm, request_taken w hl hm, hr, carryOut_refuse]

theorem answered_rule (w : Received s) (arm : exec c s = .next (request lengthOk modeOk rule s)) (hl : lengthOk = true)
    (hm : modeOk s.env.mode = true) (hr : rule s = accept d payload) :
    exec c s = .next { d with port := d.port.fill (some { status := .ok, payload := payload }) } := by
  rw [arm, request_taken w hl hm, hr, carryOut_accept]

theorem onlyAnswers_rule (w : Received s) (arm : exec c s = .next (request lengthOk modeOk rule s))
    (hl : lengthOk = true) (hm : modeOk s.env.mode = true) (hr : rule s = accept s payload) : OnlyAnswers c payload s :=
  answered_rule w arm hl hm hr

/-- What an accepted request leaves when its work ends as an event: the concluded state with its answer. -/
theorem concluded_rule {f : State → List Byte} (w : Received s)
    (arm : exec c s = .next (request lengthOk modeOk rule s)) (hl : lengthOk = true) (hm : modeOk s.env.mode = true)
    (hr : rule s = acceptEvent before force d f) : exec c s = .next { conclude before force d with
      port := d.port.fill (some { status := .ok, payload := f (conclude before force d) }) } := by
  rw [arm, request_taken w hl hm, hr, carryOut_acceptEvent]

end answers

/-! Bytes. -/

theorem toNat_ofNat_byte {n : Nat} (h : n < 256) : (BitVec.ofNat 8 n).toNat = n := by
  rw [BitVec.toNat_ofNat]; omega

@[simp] theorem byteAt_zero (b : Byte) (l : List Byte) : byteAt (b :: l) 0 = b.toNat := rfl

@[simp] theorem byteAt_succ (b : Byte) (l : List Byte) (i : Nat) : byteAt (b :: l) (i + 1) = byteAt l i := rfl

theorem below_fin {n : Nat} (i : Fin n) : below n i.val = some i := by simp [below]

theorem below_eq_none {n v : Nat} (h : n ≤ v) : below n v = none := by
  simp [below, Nat.not_lt.2 h]

theorem below_of_lt {n v : Nat} (h : v < n) : below n v = some ⟨v, h⟩ := by simp [below, h]

/-- The unit, row or place that a byte names. -/
theorem below_ofNat {n : Nat} (hn : n ≤ 256) (i : Fin n) : below n (BitVec.ofNat 8 i.val).toNat = some i := by
  rw [toNat_ofNat_byte (Nat.lt_of_lt_of_le i.isLt hn), below_fin]

theorem bBool_eq (b : Bool) : bBool b = [if b then 1 else 0] := by cases b <;> rfl

theorem bBool_not (b : Bool) : bBool (!b) = [if b then 0 else 1] := by cases b <;> rfl

theorem lineLevels_eq (h : Hall) :
    lineLevels h = [if h.alertActive then 0 else 1, if h.noteActive then 0 else 1] := by
  simp [lineLevels, bBool_not]

theorem yesNoAt_zero (b : Byte) : yesNoAt [b] 0 = if b = 0 then some false else if b = 1 then some true else none := by
  unfold yesNoAt
  rw [byteAt_zero]
  split
  · next h => simp [BitVec.eq_of_toNat_eq (y := 0#8) h]
  · next h => simp [BitVec.eq_of_toNat_eq (y := 1#8) h]
  · next h0 h1 =>
    rw [if_neg (fun e => h0 (by rw [e]; rfl)), if_neg (fun e => h1 (by rw [e]; rfl))]

/-! Codes and frames (R197, R213). -/

/-- A code that names no request is UNKNOWN_COMMAND. -/
theorem commandOf_unknown {code : Byte} (h : requestCodes.contains code.toNat = false) (p : List Byte) :
    commandOf code p = .unknownCommand code p := by
  unfold commandOf
  split
  case h_53 => rfl
  all_goals
    next hc =>
      rw [hc] at h
      exact absurd h (by decide)

/-- The code of a well-formed command gives the command back. -/
theorem commandOf_requestCode {c : Instr} {code : Byte} {p : List Byte} (w : c.wellFormed = true)
    (h : requestCode c = some (code, p)) : commandOf code p = c ∧ p.length ≤ 64 := by
  cases c with
  | nop => cases h; exact ⟨rfl, Nat.zero_le _⟩
  | unknownCommand =>
    cases h
    simp only [Instr.wellFormed, payloadFits, Bool.and_eq_true, decide_eq_true_eq, Bool.not_eq_true'] at w
    exact ⟨commandOf_unknown w.2 p, w.1⟩
  | _ => cases h <;> exact ⟨rfl, by simpa [Instr.wellFormed, payloadFits] using w⟩

/-- A frame whose count of bytes is there is the command of its code, whatever follows. -/
theorem decodePeriod_frame {code n : Byte} {l : List Byte} (hn : n.toNat ≤ 64) (hl : n.toNat ≤ l.length) :
    decodePeriod (code :: n :: l) 0 = commandOf code (l.take n.toNat) := by
  simp [decodePeriod, Nat.not_lt.2 hn, Nat.not_lt.2 hl]

/-- Settles O11: the count of a well-formed payload fits its byte, and its code names the command. -/
theorem framesAreReadBack : Obligations.FramesAreReadBack := by
  intro c frame more w h
  unfold encodeFrame at h
  split at h
  · next code p hc =>
    obtain rfl := Option.some.inj h
    obtain ⟨command, fits⟩ := commandOf_requestCode w hc
    have count : (BitVec.ofNat 8 p.length).toNat = p.length := toNat_ofNat_byte (by omega)
    simp only [List.cons_append]
    rw [decodePeriod_frame (by omega) (by simp [count]), count, List.take_left, command]
  · cases h

/-- No code is that of FRAME_ERROR. -/
theorem commandOf_ne_frameError (code : Byte) (p : List Byte) : commandOf code p ≠ .frameError := by
  unfold commandOf
  split <;> nofun

end Sys2Proof.Machine
end

section
/-! PROOFS. Periods and refusals of the command port (O12, O14), its notices (O16, O17), and the requests that only read
or set a bank's locks (O25, O34 to O36, O38). -/

namespace Sys2Proof.Machine

variable {s : State} {c : Instr} {p : List Byte} {n : Nat}

/-! Periods (O12). -/

theorem decodePeriod_bitsOver (l : List Byte) {k : Nat} (h : k ≠ 0) : decodePeriod l k = .frameError := by
  unfold decodePeriod
  split
  · exact absurd rfl h
  · exact absurd rfl h
  · rfl

/-- A frame, an empty period or a broken one that is not received only ends. -/
theorem exec_not_received (w : ¬Received s) (h : (requestCode c).isSome = true ∨ c = .frameError ∨ c = .emptyPeriod) :
    exec c s = .next (discardFrame s) := by
  have drops : dropsFrame s = true := by simpa [Received] using w
  obtain h | rfl | rfl := h
  · by_cases hn : c = .nop
    · subst hn
      show Host.Outcome.next _ = _
      rw [if_pos drops]
    · obtain ⟨_, _, _, arm, -⟩ := exec_request h hn s
      rw [arm, request_dropped w]
  · show Host.Outcome.next _ = _
    rw [if_pos drops]
  · show Host.Outcome.next _ = _
    rw [if_pos drops]

theorem exec_blank (w : Received s) (h : c = .nop ∨ c = .emptyPeriod) :
    exec c s = .next { s with port := s.port.fill none } := by
  have takes : ¬ dropsFrame s = true := by simpa [Received] using w
  obtain rfl | rfl := h
  all_goals
    show Host.Outcome.next _ = _
    rw [if_neg takes]

theorem exec_frameError (w : Received s) : exec .frameError s = .next { s with
    port := s.port.fill (some { status := .frame, payload := [] }), hall := raiseNotice .frameError s.hall } := by
  have takes : ¬ dropsFrame s = true := by simpa [Received] using w
  show Host.Outcome.next _ = _
  rw [if_neg takes]

theorem exec_chipSelectAssert (h : s.port.selected = false) : exec .chipSelectAssert s = .next { s with
    port := { s.port with selected := true, shifting := some (shiftedOut s.port.buffer) } } := by
  show Host.Outcome.next _ = _
  rw [if_neg (by simp [h])]

/-- Settles O12. -/
theorem periodsAreJudged : Obligations.PeriodsAreJudged := by
  refine ⟨rfl, fun l k => decodePeriod_bitsOver l, fun _ => rfl, fun b n l h => ?_, fun b n l h => ?_,
    fun b n l hn hl => ?_, fun s => ⟨fun w => ⟨fun c => exec_blank w, exec_frameError w⟩, fun c => exec_not_received,
    fun sel buf => ?_, fun r sel buf => ?_, fun l n hl => ⟨fun b hb => ?_, fun hn => ?_⟩⟩⟩
  · simp [decodePeriod, h]
  · simp [decodePeriod, h]
  · rw [decodePeriod_frame hn hl]
    exact ⟨rfl, commandOf_ne_frameError _ _⟩
  · rw [exec_chipSelectAssert sel, buf]; rfl
  · rw [exec_chipSelectAssert sel, buf]; rfl
  · simp [Port.outByte, hl, List.getD_eq_getElem?_getD, hb]
  · simp [Port.outByte, hl, List.getD_eq_getElem?_getD, List.getElem?_eq_none hn, fillByte]

/-! The first refusals (O14). -/

/-- A request of one layout refuses a payload of another length. -/
theorem refused_otherLength (w : Received s) (h : oneLayout c = some (p, n)) (hp : p.length ≠ n) :
    RefusedWith c .field s := by
  cases c <;> cases h <;> exact refused_badLength w rfl (by simpa using hp)

/-- A request that CONFIG alone takes is refused elsewhere. -/
theorem refused_outsideConfig (w : Received s) (hc : configOnly c = true) (h : oneLayout c = some (p, n))
    (hp : p.length = n) (hm : s.env.mode ≠ .config) : RefusedWith c .mode s := by
  cases c <;> cases hc <;> cases h <;> exact refused_badMode w rfl (by simpa using hp) (by simpa [configMode] using hm)

/-- Settles O14. -/
theorem refusalsStandInOrder : Obligations.RefusalsStandInOrder := by
  intro s w
  refine ⟨fun code p => ⟨fun h => commandOf_unknown h p, ?_⟩, fun c p n => refused_otherLength w, fun p hp => ?_,
    fun c p n => refused_outsideConfig w, fun p => ?_, fun p => ?_, fun hm => ?_, fun b hm => ?_⟩
  · exact refused_rule (lengthOk := true) (modeOk := anyMode) (rule := fun _ => refuse .unknownCommand) w rfl rfl rfl rfl
  · refine refused_badLength w rfl ?_
    simp only [Bool.and_eq_false_iff, decide_eq_false_iff_not]
    omega
  · split
    · next h => exact refused_badLength w rfl h
    · next h => exact fun hm => refused_badMode w rfl (Bool.eq_true_of_not_eq_false h) (by simpa [configMode] using hm)
  · split
    · next h => exact refused_badLength w rfl h
    · next h => exact fun hm => refused_badMode w rfl (Bool.eq_true_of_not_eq_false h) (by simpa [configMode] using hm)
  · refine refused_badMode w rfl rfl ?_
    obtain hm | hm := hm <;> rw [hm] <;> rfl
  · exact refused_badMode w rfl rfl (by rw [hm]; rfl)

/-! Notices (O16, O17). -/

/-- Settles O16. -/
theorem setNoticesReplacesEnablesAndRoutes : Obligations.SetNoticesReplacesEnablesAndRoutes := by
  intro s a b c d e f w
  refine ⟨fun p hp => refused_badLength w rfl (by simpa using hp), ?_⟩
  have first : tripleAt [a, b, c, d, e, f] 0 = a.toNat * 65536 + b.toNat * 256 + c.toNat := by
    simp [tripleAt, wordAt, Nat.add_assoc]
  have second : tripleAt [a, b, c, d, e, f] 3 = d.toNat * 65536 + e.toNat * 256 + f.toNat := by
    simp [tripleAt, wordAt, Nat.add_assoc]
  dsimp only
  rw [← first, ← second]
  split
  · next h =>
    have rule : setNoticesRule [a, b, c, d, e, f] s = _ := if_pos (by simpa [flagSetOk] using h)
    exact ⟨_, answered_rule w rfl rfl rfl rule, rfl, rfl, by rw [lineLevels_eq], rfl⟩
  · next h => exact refused_rule w rfl rfl rfl (if_neg (by simpa [flagSetOk] using h))

/-- Bit by bit, clearing the named flags leaves the flags that are not named. -/
theorem noticeSet_clear (m : BitVec 22) (named : Nat) (n : Notice) :
    (m &&& ~~~(BitVec.ofNat 22 named)).getLsbD n.bit = (m.getLsbD n.bit && !named.testBit n.bit) := by
  have bit := n.bit_lt
  rw [BitVec.getLsbD_and, BitVec.getLsbD_not, BitVec.getLsbD_ofNat]
  simp [bit]

/-- Settles O17. -/
theorem clearNoticesClearsTheNamed : Obligations.ClearNoticesClearsTheNamed := by
  intro s a b c w
  refine ⟨fun p hp => refused_badLength w rfl (by simpa using hp), ?_⟩
  have first : tripleAt [a, b, c] 0 = a.toNat * 65536 + b.toNat * 256 + c.toNat := by
    simp [tripleAt, wordAt, Nat.add_assoc]
  dsimp only
  rw [← first]
  split
  · next h =>
    have rule : clearNoticesRule [a, b, c] s = _ := if_pos (by simpa [flagSetOk] using h)
    exact ⟨_, answered_rule w rfl rfl rfl rule, rfl, rfl, fun n => noticeSet_clear _ _ n,
      by rw [lineLevels_eq], rfl⟩
  · next h => exact refused_rule w rfl rfl rfl (if_neg (by simpa [flagSetOk] using h))

/-! Time and banks (O25, O34). -/

/-- LOCK BANK and UNLOCK BANK of one bank. -/
theorem lockRule_zero {v : Bool} (h : s.env.banks.freeze = false) : lockRule v [0] s =
    accept (s.modBanks (Banks.setLock .a v)) (s.env.banks.setLock .a v).lockBytes := by
  show (if s.env.banks.freeze = true then _ else _) = _
  rw [if_neg (by simp [h])]; rfl

theorem lockRule_one {v : Bool} (h : s.env.banks.freeze = false) : lockRule v [1] s =
    accept (s.modBanks (Banks.setLock .b v)) (s.env.banks.setLock .b v).lockBytes := by
  show (if s.env.banks.freeze = true then _ else _) = _
  rw [if_neg (by simp [h])]; rfl

theorem lockRule_frozen {v : Bool} {b : Byte} (hb : b = 0 ∨ b = 1) (h : s.env.banks.freeze = true) :
    lockRule v [b] s = refuse .locked := by
  obtain rfl | rfl := hb
  all_goals
    show (if s.env.banks.freeze = true then _ else _) = _
    rw [if_pos h]

theorem lockBytes_eq (b : Banks) : b.lockBytes = [if b.lockA then 1 else 0, if b.lockB then 1 else 0] := by
  simp [Banks.lockBytes, bBool_eq]

/-- Settles O25. -/
theorem locksAndFreeze : Obligations.LocksAndFreeze := by
  intro s w
  refine ⟨fun hf b hb => ⟨refused_rule w rfl rfl rfl (lockRule_frozen hb hf),
    refused_rule w rfl rfl rfl (lockRule_frozen hb hf)⟩, fun hf v c hc => ?_,
    _, answered_rule w rfl rfl rfl rfl, rfl, rfl, by rw [lockBytes_eq]; rfl, rfl⟩
  obtain ⟨rfl, rfl⟩ | ⟨rfl, rfl⟩ := hc
  all_goals
    exact ⟨⟨_, answered_rule w rfl rfl rfl (lockRule_zero hf), rfl, rfl, by rw [lockBytes_eq]; rfl, rfl⟩,
      ⟨_, answered_rule w rfl rfl rfl (lockRule_one hf), rfl, rfl, by rw [lockBytes_eq]; rfl, rfl⟩⟩

theorem marksEnabled_eq (c : Clock) : bBool c.marksEnabled = [if c.markState = .off then 0 else 1] := by
  unfold Clock.marksEnabled
  cases c.markState <;> rfl

/-- Settles O34. -/
theorem readTimeAndBanks : Obligations.ReadTimeAndBanks := by
  intro s w
  constructor
  · refine onlyAnswers_rule w rfl rfl rfl ?_
    simp only [readTimeRule, Clock.bytes, Clock.weekday, marksEnabled_eq, bBool_eq s.env.clock.valid, b1,
      List.append_assoc, List.cons_append, List.nil_append]
  · refine onlyAnswers_rule w rfl rfl rfl ?_
    simp only [readBanksRule, lockBytes_eq, bBool_eq, b1, List.append_assoc, List.cons_append, List.nil_append]
    congr 2
    · cases s.env.banks.live <;> rfl
    · cases s.env.banks.handover <;> rfl

/-! The slot table (O35). -/

theorem wordAt_b2 {v : Nat} (h : v < 65536) : wordAt (b2 v) 0 = v := by
  simp only [wordAt, b2, byteAt_zero, byteAt_succ, BitVec.toNat_ofNat]
  omega

/-- The handle that two bytes carry. -/
theorem namedRecord_of_place {h : Hall} {v : Nat} {place : PlaceNo} (hv : v % 4096 = place.val) :
    namedRecord h v = match h.recordAt place with
      | none => .error .staleHandle
      | some r => if (h.slots.get place).gen.val = v / 4096 then .ok (h.handleOf place, r) else .error .staleHandle := by
  unfold namedRecord handlePlace
  rw [hv, below_fin]
  rfl

theorem readSlotRule_of_place {place : PlaceNo} (hv : wordAt p 0 % 4096 = place.val) : readSlotRule p s =
    match s.hall.recordAt place with
    | none => refuse .staleHandle
    | some r => if (s.hall.slots.get place).gen.val = wordAt p 0 / 4096
        then accept s (imageBytes (s.hall.handleOf place) r.sched ++ r.runBytes) else refuse .staleHandle := by
  unfold readSlotRule
  rw [namedRecord_of_place hv]
  cases s.hall.recordAt place with
  | none => rfl
  | some r => by_cases hg : (s.hall.slots.get place).gen.val = wordAt p 0 / 4096 <;> simp only [hg, if_true, if_false]

theorem namedRecord_of_large {h : Hall} {v : Nat} (hv : 1024 ≤ v % 4096) : namedRecord h v = .error .field := by
  unfold namedRecord handlePlace
  rw [below_eq_none hv]

theorem handleOf_eq {h : Hall} {place : PlaceNo} {gen : Fin 16} (hg : (h.slots.get place).gen = gen) :
    h.handleOf place = ⟨place, gen⟩ := by rw [Hall.handleOf, hg]

theorem filterOf_none {α : Type} {v : Nat} {read : Nat → Option α} (h : v ≠ 0xFF) (hr : read v = none) :
    filterOf v read = none := by simp [filterOf, h, hr]

theorem byte_ne {b c : Byte} (h : b ≠ c) : b.toNat ≠ c.toNat := fun e => h (BitVec.eq_of_toNat_eq e)

theorem targetOf_eq_none {kind number : Nat} (h : 2 < kind ∨ (kind = 0 ∧ 23 < number) ∨ (kind = 1 ∧ 1 < number) ∨
    (kind = 2 ∧ 7 < number)) : targetOf kind number = none := by
  unfold targetOf
  split
  · rw [below_eq_none (by omega)]; rfl
  · rw [below_eq_none (by omega)]; rfl
  · rw [below_eq_none (by omega)]; rfl
  · rfl

theorem bankOf_eq_none {v : Nat} (h : 1 < v) : bankOf v = none := by
  unfold bankOf
  split
  · omega
  · omega
  · rfl

/-- FIND SLOTS' payload is none when any one of its four items is. -/
theorem findOf_eq_none (h : filterOf (byteAt p 0) bankOf = none ∨ filterOf (byteAt p 1) (below 16) = none ∨
    filterOf (byteAt p 2) (fun k => targetOf k (byteAt p 3)) = none ∨
    (wordAt p 4 ≠ 0xFFFF ∧ below 1024 (wordAt p 4) = none)) : findOf p = none := by
  unfold findOf
  cases hb : filterOf (byteAt p 0) bankOf with
  | none => rfl
  | some bank =>
  cases ht : filterOf (byteAt p 1) (below 16) with
  | none => rfl
  | some tx =>
  cases hk : filterOf (byteAt p 2) (fun k => targetOf k (byteAt p 3)) with
  | none => rfl
  | some target =>
    simp only [hb, ht, hk, reduceCtorEq, false_or] at h
    simp [h.1, h.2]

/-- Settles O35. -/
theorem readAndFindSlots : Obligations.ReadAndFindSlots := by
  intro s p w
  refine ⟨fun place gen hp => ?_, fun hl hv => ?_, fun f hl hf => ?_, fun bank tx kind number hi lo h => ?_⟩
  · subst hp
    have hv := wordAt_b2 (v := gen.val * 4096 + place.val) (by omega)
    have rule := readSlotRule_of_place (s := s) (p := b2 (gen.val * 4096 + place.val)) (place := place) (by omega)
    rw [hv] at rule
    have hgen : (gen.val * 4096 + place.val) / 4096 = gen.val := by omega
    split
    · next hr => exact refused_rule w rfl rfl rfl (by rw [rule, hr])
    · next r hr =>
      split
      · next hg =>
        exact onlyAnswers_rule w rfl rfl rfl (by rw [rule, hr]; simp only [hgen, hg, if_true, handleOf_eq hg])
      · next hg =>
        exact refused_rule w rfl rfl rfl (by rw [rule, hr]; simp only [hgen, Fin.val_inj, if_neg hg])
  · exact refused_rule w rfl (by simpa using hl) rfl (by unfold readSlotRule; rw [namedRecord_of_large hv])
  · exact onlyAnswers_rule w rfl (by simpa using hl) rfl (by unfold findSlotsRule; rw [hf])
  · have none : findOf [bank, tx, kind, number, hi, lo] = none := by
      refine findOf_eq_none ?_
      simp only [wordAt, byteAt_zero, byteAt_succ]
      rcases h with ⟨h, hne⟩ | ⟨h, hne⟩ | ⟨h, hne⟩ | ⟨h, hn⟩ | ⟨h, hn⟩ | ⟨h, hn⟩ | ⟨h, hne⟩
      · exact .inl (filterOf_none (byte_ne hne) (bankOf_eq_none h))
      · exact .inr (.inl (filterOf_none (byte_ne hne) (below_eq_none h)))
      · exact .inr (.inr (.inl (filterOf_none (byte_ne hne) (targetOf_eq_none (.inl h)))))
      · subst h; exact .inr (.inr (.inl (filterOf_none (by decide) (targetOf_eq_none (.inr (.inl ⟨rfl, hn⟩))))))
      · subst h; exact .inr (.inr (.inl (filterOf_none (by decide) (targetOf_eq_none (.inr (.inr (.inl ⟨rfl, hn⟩)))))))
      · subst h; exact .inr (.inr (.inl (filterOf_none (by decide) (targetOf_eq_none (.inr (.inr (.inr ⟨rfl, hn⟩)))))))
      · exact .inr (.inr (.inr ⟨hne, below_eq_none (by omega)⟩))
    exact refused_rule w rfl rfl rfl (by unfold findSlotsRule; rw [none])

/-! Plans (O38) and the hall (O36). -/

theorem readPlanRule_tx (t : Tx) : readPlanRule [BitVec.ofNat 8 t.val] s =
    accept { s with hall := { s.hall with lastOutcome := s.hall.lastOutcome.set t none } }
      (planOutcomeBytes (s.hall.lastOutcome.get t) ++ b1 (s.hall.ctx.get t).state.code ++
        bOpt 25 ((s.env.due.find? fun d => d.tx == t).map DueEntry.bytes)) := by
  unfold readPlanRule
  rw [byteAt_zero, below_ofNat (by decide)]

/-- Settles O38. -/
theorem readPlanGivesTheOutcomeOnce : Obligations.ReadPlanGivesTheOutcomeOnce := by
  intro s tx w
  exact ⟨fun b hb => refused_rule w rfl rfl rfl (by simp [readPlanRule, below_eq_none hb]), _,
    answered_rule w rfl rfl rfl (readPlanRule_tx tx), rfl, rfl, by simp, fun u hu => by simp [Ne.symm hu], rfl, rfl⟩

/-- The unit that READ PROTECTION names. -/
theorem unitOf_tx (t : Tx) : unitOf (BitVec.ofNat 8 t.val).toNat = some (.tx t) := by
  rw [unitOf, below_ofNat (by decide)]

theorem unitOf_ant (a : Ant) : unitOf (BitVec.ofNat 8 (32 + a.val)).toNat = some (.ant a) := by
  rw [unitOf, toNat_ofNat_byte (by omega), below_eq_none (by omega)]
  simp [below_fin]

theorem unitOf_eq_none {v : Nat} (h : 16 ≤ v) (h' : v < 32 ∨ 56 ≤ v) : unitOf v = none := by
  rw [unitOf, below_eq_none h]
  obtain h' | h' := h'
  · simp [Nat.not_le.2 h']
  · simp [below_eq_none (show 24 ≤ v - 32 by omega)]

theorem rowAnt_antRow (a : Ant) : rowAnt (antRow a) = some a := below_fin a

theorem rowAnt_loadRow (l : LoadNo) : rowAnt (loadRow l) = none := below_eq_none (Nat.le_add_right 24 _)

theorem rowLoad_loadRow (l : LoadNo) : rowLoad (loadRow l) = some l := by
  simp [rowLoad, loadRow, below_fin]

/-- Every row is an antenna's or a load's. -/
theorem row_cases (r : Row) : (∃ a, r = antRow a) ∨ ∃ l, r = loadRow l := by
  by_cases h : r.val < 24
  · exact .inl ⟨⟨r.val, h⟩, rfl⟩
  · exact .inr ⟨⟨r.val - 24, by omega⟩, Fin.ext (by simp [loadRow]; omega)⟩

theorem readAntennaRule_row {b : Byte} {r : Row} (h : below 26 b.toNat = some r) : readAntennaRule [b] s =
    match rowAnt r, rowLoad r with
    | some a, _ => accept s (antennaBytes s.env s.hall a)
    | none, some l => accept s (b2 (s.env.tables.load.get l))
    | none, none => refuse .field := by
  unfold readAntennaRule
  rw [byteAt_zero, h] <;> rfl

theorem readProtectionRule_tx (t : Tx) : readProtectionRule [BitVec.ofNat 8 t.val] s =
    accept s (txProtectionBytes s.env s.hall t) := by
  unfold readProtectionRule
  rw [byteAt_zero, unitOf_tx, if_neg (by rw [toNat_ofNat_byte (by omega)]; omega)]

theorem readProtectionRule_ant (a : Ant) : readProtectionRule [BitVec.ofNat 8 (32 + a.val)] s =
    accept s (s.hall.antUnit.get a).bytes := by
  unfold readProtectionRule
  rw [byteAt_zero, unitOf_ant, if_neg (by rw [toNat_ofNat_byte (by omega)]; omega)]

theorem readProtectionRule_none {b : Byte} (h : 16 ≤ b.toNat) (h' : b.toNat < 32 ∨ 56 ≤ b.toNat) (hne : b ≠ 0xFF) :
    readProtectionRule [b] s = refuse .field := by
  unfold readProtectionRule
  have other : b.toNat ≠ 255 := byte_ne hne
  rw [byteAt_zero, unitOf_eq_none h h', if_neg other]

theorem readRowRule_refuses {a b : Byte} (h : 26 ≤ a.toNat ∨ 4 < b.toNat) : readRowRule [a, b] s = refuse .field := by
  unfold readRowRule
  rw [byteAt_zero]
  split
  · rfl
  · next r hr =>
    have : a.toNat < 26 := by
      by_contra hc
      rw [below_eq_none (Nat.le_of_not_lt hc)] at hr
      cases hr
    exact if_pos (show 4 < b.toNat by omega)

theorem readRowRule_row {r : Row} {b : Byte} (hb : b.toNat ≤ 4) : readRowRule [BitVec.ofNat 8 r.val, b] s =
    accept s ([BitVec.ofNat 8 r.val, b] ++ rowPart s.env s.hall r b.toNat) := by
  unfold readRowRule
  rw [byteAt_zero, below_ofNat (by decide)]
  refine (if_neg (show ¬ 4 < b.toNat by omega)).trans ?_
  simp [b1]

/-- Settles O36. -/
theorem readsOfTheHallChangeNothing : Obligations.ReadsOfTheHallChangeNothing := by
  intro s w
  have tx (t : Tx) := below_ofNat (n := 16) (by decide) t
  refine ⟨fun b hb => ?dueList, fun b hb => ?dueListRefused, fun t => ?changeover, fun t => ?transmitter,
    fun b hb => ⟨?changeoverRefused, ?transmitterRefused⟩, fun r b hb => ?row, fun a b h => ?rowRefused,
    fun b hb => ?queue, fun b hb => ?queueRefused, fun a => ?antenna, fun l => ?load, fun b hb => ?antennaRefused,
    ?groups, fun t => ?protectionTx, fun a => ?protectionAnt, fun b h h' hne => ?protectionRefused, ?protectionAny,
    ?sweep, ?status⟩
  case dueList => exact onlyAnswers_rule w rfl rfl rfl (if_neg (Nat.not_lt.2 hb))
  case dueListRefused => exact refused_rule w rfl rfl rfl (if_pos hb)
  case changeover => exact onlyAnswers_rule w rfl rfl rfl (by simp only [readChangeoverRule, byteAt_zero, tx])
  case transmitter =>
    refine onlyAnswers_rule w rfl rfl rfl ?_
    simp only [readTransmitterRule, byteAt_zero, tx, b1, List.append_assoc, List.cons_append, List.nil_append]
  case changeoverRefused => exact refused_rule w rfl rfl rfl (by simp [readChangeoverRule, below_eq_none hb])
  case transmitterRefused => exact refused_rule w rfl rfl rfl (by simp [readTransmitterRule, below_eq_none hb])
  case row => exact onlyAnswers_rule w rfl rfl rfl (readRowRule_row hb)
  case rowRefused => exact refused_rule w rfl rfl rfl (readRowRule_refuses h)
  case queue => exact onlyAnswers_rule w rfl rfl rfl (if_neg (Nat.not_lt.2 hb))
  case queueRefused => exact refused_rule w rfl rfl rfl (if_pos hb)
  case antenna =>
    refine onlyAnswers_rule w rfl rfl rfl ?_
    exact (readAntennaRule_row (below_ofNat (by decide) (antRow a))).trans (by rw [rowAnt_antRow])
  case load =>
    refine onlyAnswers_rule w rfl rfl rfl ?_
    exact (readAntennaRule_row (below_ofNat (by decide) (loadRow l))).trans
      (by rw [rowAnt_loadRow, rowLoad_loadRow])
  case antennaRefused => exact refused_rule w rfl rfl rfl (by simp [readAntennaRule, below_eq_none hb])
  case groups => exact onlyAnswers_rule w rfl rfl rfl rfl
  case protectionTx => exact onlyAnswers_rule w rfl rfl rfl (readProtectionRule_tx t)
  case protectionAnt => exact onlyAnswers_rule w rfl rfl rfl (readProtectionRule_ant a)
  case protectionRefused => exact refused_rule w rfl rfl rfl (readProtectionRule_none h h' hne)
  case protectionAny => exact onlyAnswers_rule w rfl rfl rfl rfl
  case sweep => exact onlyAnswers_rule w rfl rfl rfl rfl
  case status =>
    refine onlyAnswers_rule w rfl rfl rfl ?_
    simp only [readStatusRule, lineLevels_eq, bBool_eq, Clock.bytes, b1, List.append_assoc, List.cons_append,
      List.nil_append]

end Sys2Proof.Machine
end

section
/-! PROOFS. The values at power-up (O3), the conditions of the permit gate (O5), and the ages (O22). -/

namespace Sys2Proof.Machine

variable {e : Env} {h : Hall} {t : Tx}

/-! Power-up (O3). -/

@[simp] theorem powerUp_xp (x : Xp) : Hall.powerUp.xp x = XpRec.powerUp := by
  simp [Hall.xp, Hall.powerUp]

theorem powerUp_age (x : Xp) : Hall.powerUp.age x = 0 := by
  simp [Hall.age, Hall.powerUp]

/-- Settles O3, block by block. -/
theorem powerUpValues : Obligations.PowerUpValues := by
  refine ⟨⟨rfl, rfl, rfl, rfl, rfl, rfl, rfl, rfl, rfl⟩, ⟨rfl, rfl, rfl, rfl, rfl⟩,
    ⟨rfl, rfl, rfl, rfl, rfl, rfl, rfl, fun t => Tab.get_fill _ _, fun a => Tab.get_fill _ _, fun l => Tab.get_fill _ _,
      fun g => Tab.get_fill _ _⟩,
    fun p => Tab.get_fill _ _, fun t => ?_, fun a => ?_, fun x => ⟨powerUp_xp x, powerUp_age x⟩,
    fun r => ⟨Tab.get_fill _ _, Tab.get_fill _ _⟩, ⟨rfl, rfl, rfl, rfl, rfl, rfl, rfl, rfl, rfl, rfl⟩,
    rfl, rfl, rfl, rfl⟩
  · simp [State.reset, Hall.powerUp, Context.idle, Link.powerUp, Gate.low, UnitRec.powerUp, RunRec.idle]
  · simp [State.reset, Hall.powerUp, PosRec.unknown, UnitRec.powerUp]

/-! The permit gate (O5). -/

/-- What is filtered out of a list without repetitions is one thing exactly when it alone passes. -/
theorem filter_eq_singleton {α : Type} {l : List α} {p : α → Bool} {x : α} (hl : l.Nodup) (hx : x ∈ l) :
    l.filter p = [x] ↔ ∀ y ∈ l, p y = true ↔ y = x := by
  have members : l.filter p = [x] ↔ ∀ y, y ∈ l.filter p ↔ y ∈ [x] := by
    rw [← List.perm_ext_iff_of_nodup (hl.filter p) (List.nodup_singleton x), List.perm_singleton]
  simp only [members, List.mem_filter, List.mem_singleton]
  constructor
  · intro w y hy
    rw [← w y]
    exact ⟨fun hp => ⟨hy, hp⟩, And.right⟩
  · intro w y
    constructor
    · rintro ⟨hy, hp⟩
      exact (w y hy).1 hp
    · rintro rfl
      exact ⟨hx, (w y hx).2 rfl⟩

theorem mem_columnXps {x : Xp} : x ∈ columnXps t ↔ x.tx = t := by
  constructor
  · intro hx
    obtain ⟨r, -, rfl⟩ := List.mem_map.1 hx
    rfl
  · rintro rfl
    exact List.mem_map.2 ⟨x.row, List.mem_finRange _, rfl⟩

theorem mem_rowXps {x : Xp} {r : Row} : x ∈ rowXps r ↔ x.row = r := by
  constructor
  · intro hx
    obtain ⟨t, -, rfl⟩ := List.mem_map.1 hx
    rfl
  · rintro rfl
    exact List.mem_map.2 ⟨x.tx, List.mem_finRange _, rfl⟩

theorem columnXps_nodup : (columnXps t).Nodup :=
  (List.nodup_finRange 26).map fun _ _ hr => (Xp.mk.inj hr).2

theorem isOpen_iff {x : Xp} : h.isOpen x = true ↔ (h.xp x).pos = .opened := by simp [Hall.isOpen]

/-- A column's only crosspoint that is not OPEN. -/
theorem columnNonOpen_eq {r : Row} :
    h.columnNonOpen t = [⟨t, r⟩] ↔ ∀ q : Row, (h.xp ⟨t, q⟩).pos ≠ .opened ↔ q = r := by
  rw [Hall.columnNonOpen, filter_eq_singleton (x := ⟨t, r⟩) columnXps_nodup (mem_columnXps.2 rfl)]
  have passes (q : Row) : (!h.isOpen ⟨t, q⟩) = true ↔ (h.xp ⟨t, q⟩).pos ≠ .opened := by
    rw [Bool.not_eq_true', ← Bool.not_eq_true, isOpen_iff]
  have same (q : Row) : (⟨t, q⟩ : Xp) = ⟨t, r⟩ ↔ q = r :=
    ⟨fun hq => (Xp.mk.inj hq).2, fun hq => hq ▸ rfl⟩
  constructor
  · intro w q
    exact (passes q).symm.trans ((w ⟨t, q⟩ (mem_columnXps.2 rfl)).trans (same q))
  · rintro w ⟨u, q⟩ hy
    obtain rfl : u = t := mem_columnXps.1 hy
    exact (passes q).trans ((w q).trans (same q).symm)

theorem service_permits_iff {x : Service} : x.permits = true ↔ x ≠ .barred ∧ x ≠ .out := by
  cases x <;> simp [Service.permits]

/-- A row's antenna is in service; a load row has none. -/
theorem rowService_permits_iff {r : Row} : (h.rowService r).permits = true ↔
    ∀ a, rowAnt r = some a → (h.antUnit.get a).service ≠ .barred ∧ (h.antUnit.get a).service ≠ .out := by
  unfold Hall.rowService
  split
  · next a ha => simp [ha, service_permits_iff]
  · next ha => simp [ha, Service.permits]

theorem rowStill_iff {r : Row} : h.rowStill r = true ↔ ∀ a, rowAnt r = some a → (h.pos.get a).state ≠ .moving := by
  unfold Hall.rowStill
  split
  · next a ha => simp [ha]
  · next ha => simp [ha]

/-- The matrix, antenna and stray conditions, on the one crosspoint of the column that is not OPEN. -/
theorem connectionPermits_iff : connectionPermits h t = true ↔ ∃ r : Row,
    (∀ q : Row, (h.xp ⟨t, q⟩).pos ≠ .opened ↔ q = r) ∧ (h.xp ⟨t, r⟩).pos = .closed ∧ h.res r = .connected t ∧
    (∀ u : Tx, u ≠ t → (h.xp ⟨u, r⟩).pos = .opened) ∧ h.stray.get r = false ∧
    ∀ a : Ant, rowAnt r = some a → (h.antUnit.get a).service ≠ .barred ∧ (h.antUnit.get a).service ≠ .out ∧
      (h.pos.get a).state ≠ .moving := by
  have row : ∀ r, (rowXps r).all (fun y => y.tx == t || h.isOpen y) = true ↔
      ∀ u : Tx, u ≠ t → (h.xp ⟨u, r⟩).pos = .opened := by
    intro r
    simp only [rowXps, List.all_map, List.all_eq_true, List.mem_finRange, true_implies, Function.comp, Bool.or_eq_true,
      beq_iff_eq, isOpen_iff, or_iff_not_imp_left, ne_eq]
  have one : ∀ r, h.columnNonOpen t = [⟨t, r⟩] → (connectionPermits h t = true ↔
      (h.xp ⟨t, r⟩).pos = .closed ∧ h.res r = .connected t ∧ (∀ u : Tx, u ≠ t → (h.xp ⟨u, r⟩).pos = .opened) ∧
      h.stray.get r = false ∧ ∀ a : Ant, rowAnt r = some a → (h.antUnit.get a).service ≠ .barred ∧
        (h.antUnit.get a).service ≠ .out ∧ (h.pos.get a).state ≠ .moving) := by
    intro r hr
    unfold connectionPermits
    rw [hr]
    simp only [Bool.and_eq_true, beq_iff_eq, row, rowService_permits_iff, rowStill_iff, Bool.not_eq_true']
    constructor
    · rintro ⟨⟨⟨⟨⟨closed, connected⟩, others⟩, service⟩, still⟩, clear⟩
      exact ⟨closed, connected, others, clear, fun a ha => ⟨(service a ha).1, (service a ha).2, still a ha⟩⟩
    · rintro ⟨closed, connected, others, clear, antenna⟩
      exact ⟨⟨⟨⟨⟨closed, connected⟩, others⟩, fun a ha => ⟨(antenna a ha).1, (antenna a ha).2.1⟩⟩,
        fun a ha => (antenna a ha).2.2⟩, clear⟩
  constructor
  · intro w
    have single : ∃ x, h.columnNonOpen t = [x] := by
      unfold connectionPermits at w
      split at w
      · next x hx => exact ⟨x, hx⟩
      · cases w
    obtain ⟨⟨u, r⟩, hx⟩ := single
    have hu : (⟨u, r⟩ : Xp) ∈ columnXps t := List.mem_of_mem_filter (hx ▸ List.mem_singleton.2 rfl)
    obtain rfl : u = t := mem_columnXps.1 hu
    exact ⟨r, columnNonOpen_eq.1 hx, (one r hx).1 w⟩
  · rintro ⟨r, only, rest⟩
    exact (one r (columnNonOpen_eq.2 only)).2 rest

/-- Settles O5. -/
theorem permitConditionsOneByOne : Obligations.PermitConditionsOneByOne := by
  intro e h t
  simp only [permitConditions, Bool.and_eq_true, Bool.or_eq_true, beq_iff_eq, Bool.not_eq_true', connectionPermits_iff,
    service_permits_iff]
  constructor
  · rintro ⟨⟨⟨⟨mode, line⟩, state⟩, connection⟩, barred, out⟩
    exact ⟨mode, line, state, barred, out, connection⟩
  · rintro ⟨mode, line, state, barred, out, connection⟩
    exact ⟨⟨⟨⟨mode, line⟩, state⟩, connection⟩, barred, out⟩

/-! Ages (O22). -/

/-- The elapsed base after it has passed on to an expiry. -/
@[simp] theorem passTo_elapsed (i : Nat) (e : Env) : (passTo i e).elapsed = max e.elapsed i := by
  simp only [passTo, passTime]; omega

@[simp] theorem passTo_day (i : Nat) (e : Env) : (passTo i e).clock.day = e.clock.day := rfl
@[simp] theorem passTo_second (i : Nat) (e : Env) : (passTo i e).clock.second = e.clock.second := rfl

theorem ageAll_age (x : Xp) : (ageAll h).age x = min 65535 (h.age x + 1) := by
  simp [Hall.age, ageAll]

/-- Settles O22. -/
theorem agesRiseEachMinute : Obligations.AgesRiseEachMinute := fun _ =>
  ⟨_, rfl, ageAll_age, rfl, rfl, passTo_elapsed _ _, rfl, rfl, rfl, rfl, rfl⟩

end Sys2Proof.Machine
end

section
/-! PROOFS. The settings (O44), the positioner faults and STRAY latches that are cleared (O53), and the antenna, load and
group tables (O43). -/

namespace Sys2Proof.Machine

variable {s d before : State} {c : Instr} {p : List Byte}

section concluded

variable {lengthOk force : Bool} {modeOk : Mode → Bool} {rule : State → Verdict} {f : State → List Byte}

/-- A request that ends as an event leaves what the event leaves, and the answer. -/
theorem concluded_answers (w : Received s) (arm : exec c s = .next (request lengthOk modeOk rule s))
    (hl : lengthOk = true) (hm : modeOk s.env.mode = true) (hr : rule s = acceptEvent before force d f)
    (port : d.port = s.port) (pending : d.pending = s.pending) : ∃ t, exec c s = .next t ∧
      t.hall = (conclude before force d).hall ∧ t.env = (conclude before force d).env ∧
      AnswersOk s t (f (conclude before force d)) :=
  ⟨_, concluded_rule w arm hl hm hr, rfl, rfl, by rw [port], (conclude_pending ..).trans pending⟩

/-- An accepted request leaves what its rule leaves, and the answer. -/
theorem accepted_answers (w : Received s) (arm : exec c s = .next (request lengthOk modeOk rule s))
    (hl : lengthOk = true) (hm : modeOk s.env.mode = true) (hr : rule s = accept d p)
    (port : d.port = s.port) (pending : d.pending = s.pending) : ∃ t, exec c s = .next t ∧
      t.hall = d.hall ∧ t.env = d.env ∧ AnswersOk s t p :=
  ⟨_, answered_rule w arm hl hm hr, rfl, rfl, by rw [port], pending⟩

/-- A request that sets a table and touches no hall: the settling that follows leaves base and STUCK flags. -/
theorem concluded_tables (w : Received s) (arm : exec c s = .next (request lengthOk modeOk rule s))
    (hl : lengthOk = true) (hm : modeOk s.env.mode = true) {tables : Tables} {answer : List Byte}
    (hr : rule s = acceptEvent s force { s with env := { s.env with tables := tables } } fun _ => answer) :
    ∃ t, exec c s = .next t ∧ t.hall.base = s.hall.base ∧ StuckKept s.hall t.hall ∧ OnlyTables s t tables ∧
      AnswersOk s t answer := by
  obtain ⟨t, next, hall, env, answers⟩ := concluded_answers w arm hl hm hr rfl rfl
  refine ⟨t, next, ?_, fun x => ?_, ?_, answers⟩
  · rw [hall, conclude_base]
  · rw [hall, conclude_stuck]
  · rw [OnlyTables, env]
    exact conclude_env ..

end concluded

/-! Settings (O44). -/

theorem configMode_of (h : s.env.mode = .config) : configMode s.env.mode = true := by rw [h]; rfl

theorem bne_toNat (a b : Nat) : (a != b).toNat = if a = b then 0 else 1 := by
  by_cases h : a = b <;> simp [h]

theorem bitSet_singleton (a b : Nat) : bitSet [a != b] = if a = b then 0 else 1 := by
  simp [bitSet, bne_toNat]

theorem bitSet_pair (a a' b b' : Nat) : bitSet [a != a', b != b'] =
    (if a = a' then 0 else 1) + if b = b' then 0 else 2 := by
  simp [bitSet, bne_toNat, ite_mul]

theorem bitSet_triple (a a' b b' c c' : Nat) : bitSet [a != a', b != b', c != c'] =
    (if a = a' then 0 else 1) + (if b = b' then 0 else 2) + if c = c' then 0 else 4 := by
  simp [bitSet, bne_toNat, ite_mul, Nat.add_assoc]

theorem bitSet_decide (q : Prop) [Decidable q] : b1 (bitSet [decide q]) = [if q then 1 else 0] := by
  by_cases h : q <;> simp [bitSet, b1, h]

/-- A due list found anew touches no more of the hall than the notice flags. -/
theorem rebuildDue_hall (s : State) : (rebuildDue s).hall = { s.hall with flags := (rebuildDue s).hall.flags } := by
  obtain h | h := recompute_hall { s with env := { s.env with due := [] } } <;> rw [rebuildDue, h]
  rfl

/-- Settles O44, request by request. -/
theorem settingsAreClamped : Obligations.SettingsAreClamped := by
  intro s w
  refine ⟨fun off => ?_, fun on => ?_, ?_, fun b hb => ?_, fun base guard config hb => ?_,
    fun base guard config hb => ?_, fun a b config => ?_, fun a b c d config => ?_, fun a b => ?_⟩
  · have rule : setClockRule [1] s = accept (s.modClock (Clock.enableMarks s.env.elapsed true)) [1] := by
      simp [setClockRule, yesNoAt_zero, State.modClock, Clock.enableMarks, off, MarkState.code, b1]
    obtain ⟨t, next, hall, env, answers⟩ := accepted_answers (c := .setClock [1]) w rfl rfl rfl rule rfl rfl
    refine ⟨t, next, answers, hall, env.trans ?_⟩
    simp [State.modClock, Clock.enableMarks, off]
  · refine onlyAnswers_rule w rfl rfl rfl ?_
    have kept : s.modClock (Clock.enableMarks s.env.elapsed true) = s := by
      unfold State.modClock Clock.enableMarks
      cases h : s.env.clock.markState
      case off => exact absurd h on
      all_goals rfl
    simp [setClockRule, yesNoAt_zero, kept, b1]
  · obtain ⟨t, next, hall, env, answers⟩ := accepted_answers (c := .setClock [0]) (p := [0])
      (d := s.modClock (Clock.enableMarks s.env.elapsed false)) w rfl rfl rfl rfl rfl rfl
    exact ⟨t, next, answers, hall, env⟩
  · refine refused_rule w rfl rfl rfl ?_
    have h0 : b ≠ 0 := by rintro rfl; exact absurd hb (by decide)
    have h1 : b ≠ 1 := by rintro rfl; exact absurd hb (by decide)
    unfold setClockRule
    rw [yesNoAt_zero, if_neg h0, if_neg h1]
  · exact refused_rule w rfl rfl (configMode_of config) (if_pos (show 6 < base.toNat from hb))
  · obtain ⟨t, next, hall, env, answers⟩ := accepted_answers (c := .setPlanning [base, guard]) w rfl rfl
      (configMode_of config) (if_neg (show ¬6 < base.toNat by omega)) rfl rfl
    refine ⟨t, next, ?_, ?_, ?_⟩
    · rw [bitSet_decide] at answers
      exact answers
    · rw [env, Nat.min_comm 60]
      rfl
    · rw [hall]
      exact rebuildDue_hall _
  · intro travel timeout
    obtain ⟨t, next, base, stuck, tables, answers⟩ := concluded_tables (c := .setMatrix [a, b]) w rfl rfl
      (configMode_of config) rfl
    refine ⟨t, next, base, stuck, tables, ?_⟩
    rw [bitSet_pair] at answers
    exact answers
  · intro asked fold warn pause
    obtain ⟨t, next, base, stuck, tables, answers⟩ := concluded_tables (c := .setProtection [a, b, c, d]) w rfl rfl
      (configMode_of config) rfl
    refine ⟨t, next, base, stuck, tables, ?_⟩
    rw [bitSet_triple] at answers
    exact answers
  · intro asked
    obtain ⟨t, next, hall, env, answers⟩ := accepted_answers (c := .setExercise [a, b]) w rfl rfl rfl rfl rfl rfl
    refine ⟨t, next, hall, env, ?_⟩
    rw [bitSet_decide] at answers
    exact answers

/-! Faults and latches (O53). -/

section positioner

variable {h : Hall} {a b : Ant} {f : PosRec → PosRec}

theorem modPos_self : (h.modPos a f).pos.get a = f (h.pos.get a) := Tab.get_modify_same ..

theorem posKept_of_same {q q' : PosRec} (w : SamePos q q') : PosKept q q' := by
  obtain ⟨state, azimuth, tilt, missed, -⟩ := w
  exact ⟨state, azimuth, tilt, missed⟩

theorem modPos_other (hb : b ≠ a) : (h.modPos a f).pos.get b = h.pos.get b := Tab.get_modify_ne _ _ hb.symm

end positioner

theorem clearPositionerRule_ant (a : Ant) : clearPositionerRule [BitVec.ofNat 8 a.val] s =
    acceptEvent s false { s with hall := s.hall.modPos a clearPos } fun s => (s.hall.pos.get a).bytes := by
  unfold clearPositionerRule
  rw [byteAt_zero, below_ofNat (by decide)]

theorem clearStrayRule_row (r : Row) : clearStrayRule [BitVec.ofNat 8 r.val] s =
    if s.env.pins.rf.get r then refuse .busy
    else acceptEvent s false { s with hall := { s.hall with stray := s.hall.stray.set r false } } fun _ => [] := by
  unfold clearStrayRule
  rw [byteAt_zero, below_ofNat (by decide)]

/-- Settles O53. -/
theorem faultsAndLatchesAreCleared : Obligations.FaultsAndLatchesAreCleared := by
  intro s w
  refine ⟨fun a => ?_, fun b hb => ?_, fun r rf => ?_, fun r clear => ?_, fun b hb => ?_⟩
  · obtain ⟨t, next, hall, env, answers⟩ :=
      concluded_answers (c := .clearPositioner [BitVec.ofNat 8 a.val]) w rfl rfl rfl (clearPositionerRule_ant a) rfl rfl
    refine ⟨t, next, ?_, ?_, fun x => ?_, ?_, fun b hb => ?_, ?_⟩
    · rw [OnlyDue, env]
      exact conclude_env ..
    · rw [hall, conclude_base]
      rfl
    · rw [hall, conclude_stuck]
      rfl
    · have same := conclude_pos s { s with hall := s.hall.modPos a clearPos } false a
      rw [hall]
      rw [modPos_self] at same
      exact posKept_of_same same
    · have same := conclude_pos s { s with hall := s.hall.modPos a clearPos } false b
      rw [hall]
      rw [modPos_other hb] at same
      exact posKept_of_same same
    · rw [← hall] at answers
      exact answers
  · refine refused_rule w rfl rfl rfl ?_
    unfold clearPositionerRule
    rw [byteAt_zero, below_eq_none hb]
  · exact refused_rule w rfl rfl rfl ((clearStrayRule_row r).trans (if_pos rf))
  · obtain ⟨t, next, hall, env, answers⟩ := concluded_answers (c := .clearStray [BitVec.ofNat 8 r.val]) w rfl rfl rfl
      ((clearStrayRule_row r).trans (if_neg (ne_true_of_eq_false clear))) rfl rfl
    refine ⟨t, next, answers, ?_, ?_, fun x => ?_, ?_, fun q hq latched => ?_⟩
    · rw [OnlyDue, env]
      exact conclude_env ..
    · rw [hall, conclude_base]
      rfl
    · rw [hall, conclude_stuck]
      rfl
    · rw [hall]
      exact conclude_stays (P := fun h => h.stray.get r = false) _ _ (clear_stable clear) (Tab.get_set_same ..)
    · rw [hall]
      exact conclude_stays (P := fun h => h.stray.get q = true) _ _ (stray_stable q) ((Tab.get_set_ne _ _ hq.symm).trans latched)
  · refine refused_rule w rfl rfl rfl ?_
    unfold clearStrayRule
    rw [byteAt_zero, below_eq_none hb]

end Sys2Proof.Machine
end

section
/-! PROOFS. The antenna, load and group tables (O43). -/

namespace Sys2Proof.Machine

variable {s d : State} {p : List Byte} {a : Ant}

/-! SET ANTENNA. -/

theorem setAntennaRule_none (ha : byteAt p 0 = a.val) (hk : byteAt p 1 = 0) : setAntennaRule p s =
    if (s.hall.pos.get a).state = .moving then refuse .busy
    else acceptEvent s true (storeAnt a none s) fun _ => b2 0 := by
  unfold setAntennaRule
  rw [ha, below_fin, hk]
  rfl

theorem setAntennaRule_fields {k : AntType} (ha : byteAt p 0 = a.val) (hk : antTypeOf (byteAt p 1) = some k) :
    setAntennaRule p s =
      if 359 < (antFields p k).kind.bearing then refuse .field
      else if (s.hall.pos.get a).state = .moving then refuse .busy
      else if (antFields p k).clamp.bandHigh < (antFields p k).clamp.bandLow then refuse .field
      else acceptEvent s true (storeAnt a (some (antFields p k).clamp) s) fun _ => b2 (antFields p k).clamped := by
  unfold setAntennaRule
  rw [ha, below_fin, hk]

theorem setAntennaRule_field (h : 23 < byteAt p 0 ∨ 3 < byteAt p 1) : setAntennaRule p s = refuse .field := by
  unfold setAntennaRule
  obtain h | h := h
  · rw [below_eq_none (by omega)]
  · have other : antTypeOf (byteAt p 1) = none := by
      unfold antTypeOf
      split <;> first | omega | rfl
    rw [other]
    cases below 24 (byteAt p 0)
    · rfl
    · exact if_pos (by omega)

/-- The length that SET ANTENNA asks for. -/
theorem setAntennaLength_iff : setAntennaLength p = true ↔ p.length =
    if byteAt p 1 = 1 then 12 else if byteAt p 1 = 2 then 14 else if byteAt p 1 = 3 then 13 else 2 := by
  obtain h | h | h | ⟨h1, h2, h3⟩ : byteAt p 1 = 1 ∨ byteAt p 1 = 2 ∨ byteAt p 1 = 3 ∨
      (byteAt p 1 ≠ 1 ∧ byteAt p 1 ≠ 2 ∧ byteAt p 1 ≠ 3) := by omega
  · simp [setAntennaLength, antTypeOf, h]
  · simp [setAntennaLength, antTypeOf, h]
  · simp [setAntennaLength, antTypeOf, h]
  · have none : antTypeOf (byteAt p 1) = none := by
      unfold antTypeOf
      split <;> first | contradiction | rfl
    simp [setAntennaLength, none, h1, h2, h3]

/-- What SET ANTENNA leaves when its checks have passed: the entry and the fresh record of its positioner. -/
theorem storeAnt_answers {cfg : Option AntCfg} {n : Nat} (w : Received s) (config : s.env.mode = .config)
    (hl : setAntennaLength p = true)
    (hr : setAntennaRule p s = acceptEvent s true (storeAnt a cfg s) fun _ => b2 n) :
    ∃ t, exec (.setAntenna p) s = .next t ∧ t.hall.base = s.hall.base ∧ AnswersOk s t (b2 n) ∧
      OnlyTables s t { s.env.tables with ant := s.env.tables.ant.set a cfg } ∧
      PosKept (freshPos cfg) (t.hall.pos.get a) ∧
      (∀ b : Ant, b ≠ a → PosKept (s.hall.pos.get b) (t.hall.pos.get b)) ∧ StuckKept s.hall t.hall := by
  obtain ⟨t, next, hall, env, answers⟩ := concluded_answers (c := .setAntenna p) w rfl hl (configMode_of config) hr rfl rfl
  refine ⟨t, next, ?_, answers, ?_, ?_, fun b hb => ?_, fun x => ?_⟩
  · rw [hall, conclude_base]
    rfl
  · rw [OnlyTables, env]
    exact conclude_env ..
  · have same := conclude_pos s (storeAnt a cfg s) true a
    rw [storeAnt, modPos_self] at same
    rw [hall]
    exact posKept_of_same same
  · have same := conclude_pos s (storeAnt a cfg s) true b
    rw [storeAnt, modPos_other hb] at same
    rw [hall]
    exact posKept_of_same same
  · rw [hall, conclude_stuck]
    rfl

theorem setAntenna_refused {st : Status} (w : Received s) (config : s.env.mode = .config)
    (hr : setAntennaRule p s = refuse st) (hl : setAntennaLength p = true) : RefusedWith (.setAntenna p) st s :=
  refused_rule w rfl hl (configMode_of config) hr

/-! SET LOAD and SET GROUP. -/

theorem clampTo_eq_iff {lo hi v : Nat} (h : lo ≤ hi) : clampTo lo hi v = v ↔ lo ≤ v ∧ v ≤ hi := by
  unfold clampTo
  omega

theorem setLoadRule_load {l : LoadNo} (hl : byteAt p 0 = 24 + l.val) : setLoadRule p s =
    acceptEvent s true { s with env := { s.env with tables := { s.env.tables with
      load := s.env.tables.load.set l (clampTo 10 600 (wordAt p 1)) } } } fun _ =>
      b1 (bitSet [clampTo 10 600 (wordAt p 1) != wordAt p 1]) := by
  unfold setLoadRule
  have row : (below 26 (byteAt p 0)).bind rowLoad = some l := by
    rw [hl, show 24 + l.val = (loadRow l).val from rfl, below_fin, Option.bind_some, rowLoad_loadRow]
  rw [row]

theorem setLoadRule_field (h : byteAt p 0 < 24 ∨ 25 < byteAt p 0) : setLoadRule p s = refuse .field := by
  unfold setLoadRule
  have none : (below 26 (byteAt p 0)).bind rowLoad = none := by
    obtain h | h := h
    · rw [below_of_lt (by omega), Option.bind_some, rowLoad]
      exact if_neg (by simpa using h)
    · rw [below_eq_none (by omega), Option.bind_none]
  rw [none]

theorem antList_map (l : List Ant) : antList (l.map fun a => BitVec.ofNat 8 a.val) = some l := by
  induction l with
  | nil => rfl
  | cons a l ih => rw [List.map_cons, antList, below_ofNat (by decide), ih]

theorem antList_none {l : List Byte} (h : ∃ b ∈ l, 23 < b.toNat) : antList l = none := by
  induction l with
  | nil => simp at h
  | cons v l ih =>
    rw [antList]
    obtain ⟨b, hb, large⟩ := h
    obtain rfl | hb := List.mem_cons.1 hb
    · rw [below_eq_none large]
    · rw [ih ⟨b, hb, large⟩]
      cases below 24 v.toNat <;> rfl

theorem distinct_iff (l : List Ant) : distinct l = true ↔ l.Nodup := by
  induction l with
  | nil => simp [distinct]
  | cons a l ih => simp [distinct, ih]

theorem setGroupRule_antennas {g : GroupNo} {l : List Ant} (hg : byteAt p 0 = g.val) (hl : antList (p.drop 1) = some l) :
    setGroupRule p s = if distinct l then
        acceptEvent s true { s with env := { s.env with tables := { s.env.tables with
          group := s.env.tables.group.set g l } } } fun _ => []
      else refuse .field := by
  unfold setGroupRule
  rw [hg, below_fin, hl]

theorem setGroupRule_field (h : 7 < byteAt p 0 ∨ ∃ b ∈ p.tail, 23 < b.toNat) : setGroupRule p s = refuse .field := by
  unfold setGroupRule
  obtain h | h := h
  · rw [below_eq_none h]
  · rw [List.drop_one, antList_none h]
    cases below 8 (byteAt p 0) <;> rfl

theorem setGroup_refused (w : Received s) (hr : setGroupRule p s = refuse .field) : RefusedWith (.setGroup p) .field s := by
  by_cases hl : (2 ≤ p.length && p.length ≤ 7) = true
  · exact refused_rule w rfl hl rfl hr
  · exact refused_badLength w rfl (eq_false_of_ne_true hl)

/-- A bit of the list of clamped fields, by the stored and the asked value. -/
theorem bit_clamped (stored asked place : Nat) :
    (stored != asked).toNat * place = if stored = asked then 0 else place := by
  rw [bne_toNat, ite_mul, Nat.zero_mul, Nat.one_mul]

theorem bitSet_quad (a a' b b' c c' d d' : Nat) : bitSet [a != a', b != b', c != c', d != d'] =
    (if a' = a then 0 else 1) + (if b' = b then 0 else 2) + (if c' = c then 0 else 4) + if d' = d then 0 else 8 := by
  simp [bitSet, bne_toNat, ite_mul, Nat.add_assoc, eq_comm]

/-- What SET ANTENNA answers and leaves for fields that pass, by the entry and the list of clamped fields. -/
def AntennaIsSet (s : State) (p : List Byte) (a : Ant) (entry : AntCfg) (clamped : Nat) : Prop :=
  ∃ t, exec (.setAntenna p) s = .next t ∧ t.hall.base = s.hall.base ∧
    AnswersOk s t [BitVec.ofNat 8 (clamped / 256), BitVec.ofNat 8 clamped] ∧
    OnlyTables s t { s.env.tables with ant := s.env.tables.ant.set a (some entry) } ∧
    PosKept (freshPos (some entry)) (t.hall.pos.get a) ∧
    (∀ b : Ant, b ≠ a → PosKept (s.hall.pos.get b) (t.hall.pos.get b)) ∧ StuckKept s.hall t.hall

theorem setAntenna_fields {k : AntType} (w : Received s) (config : s.env.mode = .config) (ha : byteAt p 0 = a.val)
    (hk : antTypeOf (byteAt p 1) = some k) (hl : setAntennaLength p = true) :
    if 359 < (antFields p k).kind.bearing then RefusedWith (.setAntenna p) .field s
    else if (s.hall.pos.get a).state = .moving then RefusedWith (.setAntenna p) .busy s
    else if (antFields p k).clamp.bandHigh < (antFields p k).clamp.bandLow then RefusedWith (.setAntenna p) .field s
    else AntennaIsSet s p a (antFields p k).clamp (antFields p k).clamped := by
  have rule := setAntennaRule_fields (s := s) ha hk
  split at rule <;> rename_i hb
  · rw [if_pos hb]
    exact setAntenna_refused w config rule hl
  · rw [if_neg hb]
    split at rule <;> rename_i moving
    · rw [if_pos moving]
      exact setAntenna_refused w config rule hl
    · rw [if_neg moving]
      split at rule <;> rename_i band
      · rw [if_pos band]
        exact setAntenna_refused w config rule hl
      · rw [if_neg band]
        exact storeAnt_answers w config hl rule

/-- Settles O43: the refusals and entries of SET ANTENNA by its types, then SET LOAD and SET GROUP. -/
theorem antennasLoadsAndGroupsAreSet : Obligations.AntennasLoadsAndGroupsAreSet := by
  intro s p w kind length
  refine ⟨fun hl => ?_, fun hl mode => ?_, fun config h => ?_, fun h => ?_, ?_, ?_, ?_, ?_⟩
  · exact refused_badLength w rfl (Bool.eq_false_iff.2 fun h => hl (setAntennaLength_iff.1 h))
  · exact refused_badMode w rfl (setAntennaLength_iff.2 hl) (beq_eq_false_iff_ne.2 mode)
  · by_cases hl : setAntennaLength p = true
    · exact setAntenna_refused w config (setAntennaRule_field h) hl
    · exact refused_badLength w rfl (eq_false_of_ne_true hl)
  · exact setGroup_refused w (setGroupRule_field h)
  · intro a config ha h1 h3 hl
    have hl := setAntennaLength_iff.2 hl
    intro low high power tilts bearing deviation halfWidth rate slewTime tiltTime entry bit clamped
    obtain ⟨k, hk, hbearing, hentry, hclamped⟩ : ∃ k, antTypeOf (byteAt p 1) = some k ∧
        (antFields p k).kind.bearing = bearing ∧ (antFields p k).clamp = entry ∧ (antFields p k).clamped = clamped := by
      obtain hk | hk | hk : byteAt p 1 = 1 ∨ byteAt p 1 = 2 ∨ byteAt p 1 = 3 := by omega
      · refine ⟨.fixed, by rw [hk]; rfl, rfl, ?_, ?_⟩
        · simp [antFields, AntCfg.clamp, AntKind.clamp, AntKind.tiltCount, clampTo, entry, kind, hk, low, high, power,
            tilts, bearing, deviation]
        · simp [antFields, AntCfg.clamped, AntCfg.clamp, AntKind.clamped, AntKind.tiltCount, clampTo, bitSet_quad,
            bit_clamped, clamped, kind, hk, low, high, power, tilts, deviation, bit]
      · refine ⟨.slew, by rw [hk]; rfl, rfl, ?_, ?_⟩
        · simp [antFields, AntCfg.clamp, AntKind.clamp, AntKind.tiltCount, clampTo, entry, kind, hk, low, high, power,
            tilts, bearing, halfWidth, slewTime, tiltTime]
        · simp [antFields, AntCfg.clamped, AntCfg.clamp, AntKind.clamped, AntKind.tiltCount, clampTo, bitSet_quad,
            bit_clamped, clamped, kind, hk, low, high, power, tilts, halfWidth, slewTime, tiltTime, bit]
      · refine ⟨.rotatable, by rw [hk]; rfl, rfl, ?_, ?_⟩
        · simp [antFields, AntCfg.clamp, AntKind.clamp, AntKind.tiltCount, clampTo, entry, kind, hk, low, high, power,
            tilts, bearing, rate, tiltTime]
        · simp [antFields, AntCfg.clamped, AntCfg.clamp, AntKind.clamped, AntKind.tiltCount, clampTo, bitSet_quad,
            bit_clamped, clamped, kind, hk, low, high, power, tilts, rate, tiltTime, bit]
    have set := setAntenna_fields w config ha hk hl
    rw [hbearing, hentry, hclamped] at set
    split at set <;> rename_i hb
    · rw [if_pos hb]
      exact set
    rw [if_neg hb]
    split at set <;> rename_i moving
    · rw [if_pos moving]
      exact set
    rw [if_neg moving]
    split at set <;> rename_i band
    · exact (if_pos band).symm ▸ set
    obtain ⟨t, next, base, answers, tables, own, others, stuck⟩ := set
    refine (if_neg band).symm ▸ ⟨t, next, base, answers, tables, ?_, others, stuck⟩
    obtain ⟨state, azimuth, tilt, -⟩ := own
    by_cases fixed : kind = 1
    · have fresh : freshPos (some entry) = { PosRec.unknown with state := .idle, azimuth := some bearing, tilt := some 0 } := by
        simp [freshPos, entry, fixed]
      rw [fresh] at state azimuth tilt
      rw [if_pos fixed]
      exact ⟨state, azimuth, tilt⟩
    · have fresh : freshPos (some entry) = PosRec.unknown := by
        by_cases slew : kind = 2 <;> simp [freshPos, entry, fixed, slew]
      rw [fresh] at state azimuth tilt
      rw [if_neg fixed]
      exact ⟨state, azimuth, tilt⟩
  · intro a config hp
    have hl : setAntennaLength p = true := by rw [hp]; rfl
    have rule := setAntennaRule_none (s := s) (p := p) (a := a) (by rw [hp]; exact toNat_ofNat_byte (by omega)) (by rw [hp]; rfl)
    split at rule <;> rename_i moving
    · rw [if_pos moving]
      exact setAntenna_refused w config rule hl
    · rw [if_neg moving]
      obtain ⟨t, next, base, answers, tables, own, others, -⟩ := storeAnt_answers w config hl rule
      exact ⟨t, next, answers, base, tables, own.1, others⟩
  · intro config hl
    refine ⟨fun l hb => ?_, fun h => ?_⟩
    · obtain ⟨t, next, base, stuck, tables, answers⟩ := concluded_tables (c := .setLoad p) w rfl (beq_iff_eq.2 hl)
        (configMode_of config) (setLoadRule_load hb)
      refine ⟨t, next, base, stuck, tables, ?_⟩
      simp only [bitSet_singleton, clampTo_eq_iff (show 10 ≤ 600 by decide)] at answers
      convert answers using 1
      split <;> rfl
    · exact refused_rule w rfl (beq_iff_eq.2 hl) (configMode_of config) (setLoadRule_field h)
  · intro g l hp nonempty short
    have rule := setGroupRule_antennas (s := s) (p := p) (g := g) (l := l)
      (by rw [hp]; exact toNat_ofNat_byte (by omega)) (by rw [hp]; exact antList_map l)
    split
    · rename_i nodup
      rw [if_pos ((distinct_iff l).2 nodup)] at rule
      have hl : (2 ≤ p.length && p.length ≤ 7) = true := by
        have := List.length_pos_iff.2 nonempty
        rw [hp]
        simp
        omega
      obtain ⟨t, next, base, stuck, tables, answers⟩ := concluded_tables (c := .setGroup p) w rfl hl rfl rule
      exact ⟨t, next, answers, base, stuck, tables⟩
    · rename_i twice
      rw [if_neg fun d => twice ((distinct_iff l).1 d)] at rule
      exact setGroup_refused w rule

end Sys2Proof.Machine
end

section
/-! PROOFS. The clock: its count (O18), time marks (O20), SET TIME (O23). -/

namespace Sys2Proof.Machine

variable {s t d : State} {e : Env} {h : Hall} {n : Notice}

/-! What a second boundary keeps beside what `WorkOnly` says: no phase but the handover touches the banks, and none clears
a notice (R206). -/

theorem notice_stays (n : Notice) (w : h.noticeSet n = true) : Stays e (fun h => h.noticeSet n = true) h :=
  ⟨notice_stable n, w⟩

theorem storeOccurrence_notice {u : Tx} {k : Handle} {start finish : Nat} {row : Row} (w : h.noticeSet n = true) :
    (storeOccurrence e u k start finish row h).noticeSet n = true := by
  unfold storeOccurrence
  split
  · exact w
  · unfold store
    refine (ceiling_stays _ (freshFoldback_stays _ (yieldColumn_stays _ (notice_stays n ?_)))).holds
    rw [Hall.noticeSet, Hall.setCtx_flags, modRecord_flags]
    exact w

theorem takeEntry_notice {d : DueEntry} (w : h.noticeSet n = true) : (takeEntry e d h).noticeSet n = true := by
  unfold takeEntry
  (repeat' split)
  · exact w
  · exact (beginHeld_stays _ (notice_stays n (storeOccurrence_notice w))).holds
  · exact (enterMuting_stays _ (notice_stays n (storeOccurrence_notice
      (endRun_stays _ _ (finishHeld_stays _ (decideOutcome_stays _ _ _ _ (notice_stays n w)))).holds))).holds
  all_goals exact w

theorem giveUp_notice {r : Reason} {d : DueEntry} (w : h.noticeSet n = true) : (giveUp e r d h).noticeSet n = true :=
  finishRecord_notice _ _ _ _ w

theorem restandAll_notice : (restandAll e h).noticeSet n = h.noticeSet n := rfl

theorem foldl_notice {β : Type} {f : Hall → β → Hall} (l : List β) (w : h.noticeSet n = true)
    (hf : ∀ h b, h.noticeSet n = true → (f h b).noticeSet n = true) : (l.foldl f h).noticeSet n = true := by
  induction l generalizing h with
  | nil => exact w
  | cons b l ih => exact ih (hf h b w)

/-- A stretch of work that keeps the banks and clears no notice. -/
structure Onward (n : Notice) (s t : State) : Prop where
  banks : t.env.banks = s.env.banks
  notice : s.hall.noticeSet n = true → t.hall.noticeSet n = true

theorem Onward.refl (s : State) : Onward n s s := ⟨rfl, id⟩

theorem Onward.trans (a : Onward n s t) (b : Onward n t d) : Onward n s d :=
  ⟨b.banks.trans a.banks, b.notice ∘ a.notice⟩

theorem conclude_onward (before : State) (force : Bool) : Onward n s (conclude before force s) :=
  ⟨by simp, conclude_notice before force n⟩

theorem concluded_onward (before : State) (force : Bool) (banks : d.env.banks = s.env.banks)
    (notice : s.hall.noticeSet n = true → d.hall.noticeSet n = true) : Onward n s (conclude before force d) :=
  Onward.trans ⟨banks, notice⟩ (conclude_onward before force)

theorem phase_onward {f : Env → Hall → Hall}
    (hf : ∀ e h, Stays e (fun h => h.noticeSet n = true) h → Stays e (fun h => h.noticeSet n = true) (f e h)) :
    Onward n s (phase f s) :=
  concluded_onward _ _ rfl fun w => (hf _ _ (notice_stays n w)).holds

theorem recompute_onward : Onward n s (recompute s) :=
  ⟨by rw [recompute_env], fun w => by obtain h | h := recompute_hall s <;> rw [h]; exacts [w, noticeSet_raise _ _ _ w]⟩

theorem settled_onward : Onward n s s.settled := ⟨rfl, settle_notice n⟩

theorem refreshBlocked_onward : Onward n s (refreshBlocked s) := ⟨rfl, id⟩

theorem giveUpPhase_onward : Onward n s (giveUpPhase s) := by
  unfold giveUpPhase; dsimp only; split
  · exact .refl s
  · exact ⟨rfl, fun w => settle_notice n (foldl_notice _ w fun _ _ w => giveUp_notice w)⟩

theorem startPhase_onward : Onward n s (startPhase s) := by
  unfold startPhase; dsimp only
  refine concluded_onward _ _ rfl fun w => ?_
  exact (foldl_stays _ _ (notice_stays n (foldl_notice _ w fun _ _ w => takeEntry_notice w))
    fun _ _ w => yieldRun_stays _ w).holds

theorem startsOf_onward (before : State) : Onward n s (startsOf before s) := by
  have listed : Onward n s (if plannerView s = plannerView before then s else refreshBlocked (recompute s)) := by
    split
    · exact .refl s
    · exact recompute_onward.trans refreshBlocked_onward
  unfold startsOf; dsimp only
  generalize (if plannerView s = plannerView before then s else refreshBlocked (recompute s)) = u at listed ⊢
  split
  · exact listed.trans startPhase_onward
  · exact (listed.trans startPhase_onward).trans recompute_onward

theorem rampsAndEnds_onward : Onward n s (rampsAndEnds s) := by
  unfold rampsAndEnds
  exact (phase_onward fun _ _ w => foldl_stays _ _ w fun _ _ w => rampStart_stays _ w).trans
    (phase_onward fun _ _ w => foldl_stays _ _ w fun _ _ w => naturalEnd_stays _ w)

/-- After its first part a second boundary keeps the banks and clears no notice. -/
theorem secondBoundary_onward (minute : Option Nat) : Onward n (beforeStarts minute s) (secondBoundary minute s) := by
  have starts : Onward n (beforeStarts minute s) (rampsAndEnds (startsOf s (beforeStarts minute s))) :=
    (startsOf_onward s).trans rampsAndEnds_onward
  unfold secondBoundary
  cases minute with
  | none => exact starts
  | some m =>
    have stood (u : State) : Onward n u { u with hall := restandAll u.env u.hall } :=
      ⟨rfl, fun w => restandAll_notice.trans w⟩
    exact ((starts.trans (stood _)).trans recompute_onward).trans (phase_onward fun _ _ w => selectExercise_stays m w)

/-- The handover is taken: the banks change places, H is absent, HANDOVER is raised (R11). -/
theorem handoverPhase_taken {hh : Nat} (set : s.env.banks.handover = some hh) (come : hh ≤ s.env.now) :
    (handoverPhase s).env.banks = { s.env.banks with live := s.env.banks.standby, handover := none } ∧
    (handoverPhase s).hall.noticeSet .handover = true := by
  have phase : handoverPhase s = takeHandover hh s := by
    unfold handoverPhase
    rw [set]
    exact if_pos come
  rw [phase]
  unfold takeHandover State.settled
  dsimp only
  refine ⟨rfl, settle_notice .handover ?_⟩
  rw [restandAll_notice]
  refine foldl_notice (n := .handover) _ ?_ fun _ _ w => giveUp_notice w
  exact (foldl_stays _ _ (notice_stays .handover (noticeSet_raised _ _)) fun _ _ w => handoverContext_stays _ _ _ w).holds

theorem handoverPhase_waits (h : ∀ hh, s.env.banks.handover = some hh → s.env.now < hh) : handoverPhase s = s := by
  unfold handoverPhase
  split
  · next hh set => exact if_neg (Nat.not_le.2 (h hh set))
  · rfl

/-- What a second boundary makes of the banks is what its handover makes of them. -/
theorem secondBoundary_handover (minute : Option Nat) : ∃ u : State, u.env = s.env ∧
    ∀ n, Onward n (handoverPhase u) (secondBoundary minute s) := by
  cases minute with
  | none => exact ⟨s, rfl, fun n =>
      (refreshBlocked_onward.trans giveUpPhase_onward).trans (secondBoundary_onward (s := s) none)⟩
  | some m => exact ⟨State.settled { s with hall := cleanMinutes s.env m s.hall }, rfl, fun n =>
      (refreshBlocked_onward.trans giveUpPhase_onward).trans (secondBoundary_onward (s := s) (some m))⟩

theorem secondBoundary_taken (minute : Option Nat) {hh : Nat} (set : s.env.banks.handover = some hh)
    (come : hh ≤ s.env.now) : (secondBoundary minute s).env.banks =
      { s.env.banks with live := s.env.banks.standby, handover := none } ∧
    (secondBoundary minute s).hall.noticeSet .handover = true := by
  obtain ⟨u, same, onward⟩ := secondBoundary_handover (s := s) minute
  rw [← same] at set come ⊢
  obtain ⟨banks, notice⟩ := handoverPhase_taken set come
  exact ⟨(onward .handover).banks.trans banks, (onward .handover).notice notice⟩

theorem secondBoundary_waits (minute : Option Nat) (h : ∀ hh, s.env.banks.handover = some hh → s.env.now < hh) :
    (secondBoundary minute s).env.banks = s.env.banks := by
  obtain ⟨u, same, onward⟩ := secondBoundary_handover (s := s) minute
  rw [← same] at h ⊢
  have banks := (onward .handover).banks
  rwa [handoverPhase_waits h] at banks

/-! The boundaries of a count (R3), by whether there is one. -/

/-- A valid count beyond its last boundary: a boundary comes (R3). -/
def Clock.crosses (c : Clock) : Prop := c.valid = true ∧ c.lastBoundary < c.now

theorem boundaries_idle (h : ¬s.env.clock.crosses) : boundaries s = s := if_neg h

theorem boundaries_crossed (h : s.env.clock.crosses) : ∃ minute, boundaries s = secondBoundary minute
    { s with env := { s.env with clock := { s.env.clock with lastBoundary := s.env.clock.now } } } :=
  ⟨_, if_pos h⟩

theorem boundaries_taken {hh : Nat} (h : s.env.clock.crosses) (set : s.env.banks.handover = some hh)
    (come : hh ≤ s.env.now) : (boundaries s).env.banks =
      { s.env.banks with live := s.env.banks.standby, handover := none } ∧
    (boundaries s).hall.noticeSet .handover = true := by
  obtain ⟨minute, crossed⟩ := boundaries_crossed h
  rw [crossed]
  exact secondBoundary_taken minute (s := { s with env := { s.env with clock := { s.env.clock with
    lastBoundary := s.env.clock.now } } }) set come

theorem boundaries_waits (h : ¬s.env.clock.crosses ∨ ∀ hh, s.env.banks.handover = some hh → s.env.now < hh) :
    (boundaries s).env.banks = s.env.banks := by
  by_cases crosses : s.env.clock.crosses
  · obtain ⟨minute, crossed⟩ := boundaries_crossed crosses
    rw [crossed]
    exact secondBoundary_waits minute (s := { s with env := { s.env with clock := { s.env.clock with
      lastBoundary := s.env.clock.now } } }) (h.resolve_left (not_not_intro crosses))
  · rw [boundaries_idle crosses]

/-! The count advances (R2). -/

/-- A count that has moved: what `advanceCount` hands to the boundaries. -/
def State.counted (s : State) : State :=
  { s with env := { s.env with
    clock := s.env.clock.advance, due := if s.env.clock.advance.valid then s.env.due else [] } }

theorem advanceCount_eq : advanceCount s = if s.env.pins.resetHeld then s.counted else boundaries s.counted := rfl

theorem Clock.advance_eq (c : Clock) :
    c.advance.day = (if c.second = 86399 ∧ c.day ≠ 65535 then c.day + 1 else c.day) ∧
    c.advance.second =
      (if c.day = 65535 ∧ c.second = 86399 then 86399 else if c.second = 86399 then 0 else c.second + 1) ∧
    c.advance.valid = (if c.day = 65535 ∧ c.second = 86399 then false else c.valid) ∧ c.advance.phase = 0 ∧
    c.advance.weekdayBase = c.weekdayBase ∧ c.advance.markState = c.markState ∧
    c.advance.markWatch = c.markWatch ∧ c.advance.lastBoundary = c.lastBoundary := by
  unfold Clock.advance
  by_cases last : c.day = 65535 ∧ c.second = 86399
  · obtain ⟨day, second⟩ := last
    simp [day, second]
  · by_cases second : c.second = 86399
    · have day : c.day ≠ 65535 := fun day => last ⟨day, second⟩
      simp [second, day]
    · simp [second]

/-- What the count is after it has advanced: the boundaries change of the clock no more than the last boundary. -/
theorem advanceCount_after : (advanceCount s).env.clock = { s.env.clock.advance with
    lastBoundary := (advanceCount s).env.clock.lastBoundary } := by
  rw [advanceCount_eq]
  split
  · rw [State.counted]
  · rw [boundaries_env]
    rfl

theorem advanceCount_minuteBegan : (advanceCount s).env.minuteBegan = s.env.minuteBegan := by
  rw [advanceCount_eq]
  split
  · rfl
  · rw [boundaries_env]
    rfl

theorem boundaries_due (h : s.env.clock.valid = false) : (boundaries s).env.due = s.env.due := by
  rw [boundaries_idle fun c => by rw [Clock.crosses, h] at c; exact absurd c.1 (by decide)]

theorem advanceCount_due (h : s.env.clock.advance.valid = false) : (advanceCount s).env.due = [] := by
  have empty : s.counted.env.due = [] := if_neg (ne_true_of_eq_false h)
  rw [advanceCount_eq]
  split
  · exact empty
  · rw [boundaries_due h, empty]

theorem advanceCount_last : (advanceCount s).env.clock.lastBoundary =
    if s.env.clock.advance.valid = true ∧ s.env.pins.resetHeld = false ∧ s.env.clock.lastBoundary < s.env.clock.advance.now
    then s.env.clock.advance.now else s.env.clock.lastBoundary := by
  obtain ⟨-, -, -, -, -, -, -, last⟩ := s.env.clock.advance_eq
  rw [advanceCount_eq]
  cases held : s.env.pins.resetHeld
  · rw [if_neg (by decide), boundaries_last]
    simp [State.counted, last]
  · rw [if_pos rfl]
    simp [State.counted, last]

/-- A boundary comes with the count of `t` (R3), which was reached with RESETn released from one whose last boundary was
`last`. -/
def Boundary (held : Bool) (last : Nat) (t : State) : Prop :=
  t.env.clock.valid = true ∧ held = false ∧ last < t.env.now

theorem advanceCount_now : (advanceCount s).env.now = s.env.clock.advance.now := by
  rw [Env.now, advanceCount_after]
  rfl

theorem advanceCount_valid : (advanceCount s).env.clock.valid = s.env.clock.advance.valid := by
  rw [advanceCount_after]

theorem advanceCount_boundary : Boundary s.env.pins.resetHeld s.env.clock.lastBoundary (advanceCount s) ↔
    s.env.pins.resetHeld = false ∧ s.counted.env.clock.crosses := by
  obtain ⟨-, -, -, -, -, -, -, last⟩ := s.env.clock.advance_eq
  rw [Boundary, advanceCount_valid, advanceCount_now, Clock.crosses, ← last]
  exact and_left_comm

/-- The banks after the count has advanced, with a handover whose H has come by then and without one (R11). -/
theorem advanceCount_taken {hh : Nat} (b : Boundary s.env.pins.resetHeld s.env.clock.lastBoundary (advanceCount s))
    (set : s.env.banks.handover = some hh) (come : hh ≤ (advanceCount s).env.now) : (advanceCount s).env.banks =
      { s.env.banks with live := s.env.banks.standby, handover := none } ∧
    (advanceCount s).hall.noticeSet .handover = true := by
  obtain ⟨held, crosses⟩ := advanceCount_boundary.1 b
  rw [advanceCount_now] at come
  rw [advanceCount_eq, if_neg (ne_true_of_eq_false held)]
  exact boundaries_taken (s := s.counted) crosses set come

theorem advanceCount_waits (w : ¬Boundary s.env.pins.resetHeld s.env.clock.lastBoundary (advanceCount s) ∨
    ∀ hh, s.env.banks.handover = some hh → (advanceCount s).env.now < hh) :
    (advanceCount s).env.banks = s.env.banks := by
  rw [advanceCount_boundary, advanceCount_now] at w
  rw [advanceCount_eq]
  split
  · rfl
  · next held =>
    refine boundaries_waits (s := s.counted) (w.imp (fun none crosses => none ⟨?_, crosses⟩) id)
    exact eq_false_of_ne_true held

/-- Settles O18: the count by its cases, the boundary and its handover by `advanceCount_taken` and `advanceCount_waits`. -/
theorem secondAdvanceCounts : Obligations.SecondAdvanceCounts := by
  intro s
  let s' : State := { s with env := passTime (1000 - s.env.clock.phase) s.env }
  obtain ⟨day, second, valid, phase, base, mark, watch, -⟩ := s'.env.clock.advance_eq
  have clock := advanceCount_after (s := s')
  refine ⟨advanceCount s', rfl, ⟨?_, ?_, ?_, ?_, ?_, ?_, ?_, fun h => ?_, ?_, fun hh b set come => ?_, fun w => ?_⟩, ?_⟩
  · rw [clock, day]
    rfl
  · rw [clock, second]
    rfl
  · rw [clock, valid]
    rfl
  · rw [clock, phase]
  · rw [clock, base]
    rfl
  · rw [clock, mark]
    rfl
  · rw [clock, watch]
    rfl
  · rw [advanceCount_valid] at h
    exact advanceCount_due h
  · rw [advanceCount_last, advanceCount_valid, advanceCount_now]
    rfl
  · exact advanceCount_taken (s := s') b set come
  · exact advanceCount_waits (s := s') w
  · exact ⟨by simp [s', passTime], by rw [advanceCount_minuteBegan]; rfl, by simp [s', passTime], by simp [s', passTime],
      by simp [s', passTime], by simp [s']⟩

end Sys2Proof.Machine
end

section
/-! PROOFS. Time marks (O20) and SET TIME (O23). -/

namespace Sys2Proof.Machine

variable {s : State}

/-! Time marks. -/

theorem marksEnabled_iff (c : Clock) : c.marksEnabled = true ↔ c.markState ≠ .off := by
  cases h : c.markState <;> simp [Clock.marksEnabled, h]

theorem exec_timeMark_ignored (h : s.env.clock.markState = .off) : exec .timeMark s = .next s := by
  have off : s.env.clock.marksEnabled = false := Bool.eq_false_iff.2 fun on => (marksEnabled_iff _).1 on h
  show Host.Outcome.next (if s.env.pins.resetHeld ∨ !s.env.clock.marksEnabled then s else _) = _
  rw [if_pos (.inr (by rw [off]; rfl))]

theorem exec_timeMark_taken (held : s.env.pins.resetHeld = false) (h : s.env.clock.markState ≠ .off) :
    exec .timeMark s = .next (if s.env.clock.phase < 500
      then (s.modClock (Clock.marked s.env.elapsed)).modClock fun c => { c with phase := 0 }
      else advanceCount (s.modClock (Clock.marked s.env.elapsed))) := by
  have on := (marksEnabled_iff _).2 h
  show Host.Outcome.next (if s.env.pins.resetHeld ∨ !s.env.clock.marksEnabled then s else _) = _
  rw [if_neg (by rw [held, on]; decide)]
  rfl

/-- The watch that runs out makes the time marks LOST (R5). -/
theorem exec_markWatchExpiry {w : Nat} (held : s.env.pins.resetHeld = false) (watch : s.env.clock.markWatch = some w)
    (state : s.env.clock.markState = .waiting ∨ s.env.clock.markState = .locked) :
    exec .markWatchExpiry s = .next { (s.passTo w).modClock fun c => { c with markWatch := none, markState := .lost } with
      hall := raiseNotice .markLost s.hall } := by
  show execMarkWatchExpiry s = _
  unfold execMarkWatchExpiry
  rw [watch, held]
  obtain state | state := state <;> simp [state, State.modClock, State.passTo, passTo, passTime]

/-- Settles O20: the mark by the phase it finds, and the watch. -/
theorem timeMarkFixesTheSecond : Obligations.TimeMarkFixesTheSecond := by
  intro s held c
  refine ⟨exec_timeMark_ignored, fun on early => ?_, fun on late => ?_, fun w watch state => ?_⟩
  · rw [exec_timeMark_taken held on, if_pos early]
    rfl
  · let s' := s.modClock (Clock.marked s.env.elapsed)
    have held' : s'.env.pins.resetHeld = false := held
    obtain ⟨day, second, valid, phase, base, mark, watch, -⟩ := s'.env.clock.advance_eq
    have clock := advanceCount_after (s := s')
    refine ⟨advanceCount s', by rw [exec_timeMark_taken held on, if_neg (Nat.not_lt.2 late)],
      ⟨?_, ?_, ?_, fun h => ?_, ?_, ?_, ?_, ?_, ?_⟩, by simp [s', State.modClock], by simp [s', State.modClock],
      by simp [s', State.modClock], by simp [s', State.modClock]⟩
    · rw [clock, day]
      rfl
    · rw [clock, second]
      rfl
    · rw [clock, valid]
      rfl
    · rw [advanceCount_valid] at h
      exact advanceCount_due h
    · rw [clock, phase]
    · rw [clock, mark]
      rfl
    · rw [clock, watch]
      rfl
    · rw [clock, base]
      rfl
    · rw [advanceCount_last, advanceCount_valid, advanceCount_now, held']
      simp [s', State.modClock, Clock.marked, c]
  · refine ⟨_, exec_markWatchExpiry held watch state, rfl, rfl, passTo_elapsed w s.env, rfl, rfl, rfl, ?_, rfl, rfl, rfl,
      rfl, rfl⟩
    show raiseNotice .markLost s.hall = _
    rfl

/-! SET TIME. -/

theorem tripleAt_eq (b c d : Byte) (l : List Byte) : tripleAt (b :: c :: d :: l) 0 =
    b.toNat * 65536 + c.toNat * 256 + d.toNat := by
  simp only [tripleAt, wordAt, byteAt_zero, byteAt_succ]
  omega

theorem bytes_setTo {day second : Nat} {c : Clock} (d : c.day = day) (n : c.second = second) :
    c.bytes = b2 day ++ b3 second := by
  rw [Clock.bytes, d, n]

theorem b2_word (a b : Byte) : b2 (a.toNat * 256 + b.toNat) = [a, b] := by
  unfold b2
  congr 1
  · exact BitVec.eq_of_toNat_eq (by rw [BitVec.toNat_ofNat]; omega)
  · congr 1
    exact BitVec.eq_of_toNat_eq (by rw [BitVec.toNat_ofNat]; omega)

theorem b3_triple (a b c : Byte) : b3 (a.toNat * 65536 + b.toNat * 256 + c.toNat) = [a, b, c] := by
  unfold b3
  congr 1
  · exact BitVec.eq_of_toNat_eq (by rw [BitVec.toNat_ofNat]; omega)
  · congr 1
    · exact BitVec.eq_of_toNat_eq (by rw [BitVec.toNat_ofNat]; omega)
    · congr 1
      exact BitVec.eq_of_toNat_eq (by rw [BitVec.toNat_ofNat]; omega)

theorem stepSize_le (a c k : Nat) : k < stepSize a c ↔ a + k < c ∨ c + k < a := by
  unfold stepSize
  omega

/-- SET TIME, by the day and second that its payload carries. -/
theorem setTimeRule_at {p : List Byte} {day second : Nat} (hd : wordAt p 0 = day) (hs : tripleAt p 2 = second) :
    setTimeRule p s =
      if 86399 < second then refuse .field
      else if s.env.mode = .run ∧ s.env.clock.valid then
        if 2 < stepSize (day * 86400 + second) s.env.now then refuse .timeStep
        else accept (boundaries (s.modClock (Clock.setTo day second)))
          (boundaries (s.modClock (Clock.setTo day second))).env.clock.bytes
      else
        let u := s.modClock (Clock.setFreely day second)
        accept (rebuildDue (if s.env.clock.valid then u else { u with hall := restandAll u.env u.hall }))
          (rebuildDue (if s.env.clock.valid then u else { u with hall := restandAll u.env u.hall })).env.clock.bytes := by
  subst hd hs
  rfl

/-- Settles O23. -/
theorem setTimeTakesTheTime : Obligations.SetTimeTakesTheTime := by
  intro s a b c d e w day second new p
  have rule := setTimeRule_at (s := s) (p := p) (day := day) (second := second) rfl
    (tripleAt_eq c d e [])
  have bytes : b2 day ++ b3 second = p := by rw [b2_word, b3_triple]; rfl
  refine ⟨fun large => ?_, fun small free => ?_, fun small run valid step => ?_, fun small run valid low high => ?_⟩
  · exact refused_rule w rfl rfl rfl (rule.trans (if_pos large))
  · rw [if_neg (by omega), if_neg (by rintro ⟨run, valid⟩; simp_all)] at rule
    intro env hall
    have taken : (let u := s.modClock (Clock.setFreely day second)
        if s.env.clock.valid then u else { u with hall := restandAll u.env u.hall }) =
        { s with env := env, hall := hall } := by
      cases valid : s.env.clock.valid
      · have stood : hall = restandAll env s.hall := if_neg (ne_true_of_eq_false valid)
        rw [stood]
        rfl
      · have same : hall = s.hall := if_pos valid
        rw [same]
        rfl
    dsimp only at rule taken
    rw [taken] at rule
    obtain ⟨t, next, thall, tenv, answers⟩ := accepted_answers (c := .setTime p) w rfl rfl rfl rule rfl rfl
    refine ⟨t, next, ?_, ?_, ?_⟩
    · rw [bytes_setTo (day := day) (second := second) rfl rfl, bytes] at answers
      exact answers
    · rw [tenv]
      rfl
    · rw [thall]
      exact rebuildDue_hall _
  · rw [if_neg (by omega), if_pos ⟨run, valid⟩, if_pos ((stepSize_le _ _ _).2 step)] at rule
    exact refused_rule w rfl rfl rfl rule
  · rw [if_neg (by omega), if_pos ⟨run, valid⟩, if_neg (by rw [stepSize_le]; omega)] at rule
    obtain ⟨t, next, thall, tenv, answers⟩ := accepted_answers (c := .setTime p) w rfl rfl rfl rule
      (by rw [boundaries_port]; rfl) (by rw [boundaries_pending]; rfl)
    have env := boundaries_env (s := s.modClock (Clock.setTo day second))
    refine ⟨t, next, ?_, ?_, ?_, ?_, ?_, ?_, ?_, ?_, ?_⟩
    · rw [bytes_setTo (day := day) (second := second) (by rw [env]; rfl) (by rw [env]; rfl), bytes] at answers
      exact answers
    · rw [tenv, env]
      rfl
    · rw [tenv, env]
      rfl
    · rw [tenv, env]
      rfl
    · rw [tenv, env]
      exact valid
    · rw [tenv, boundaries_last]
      show (if s.env.clock.valid = true ∧ s.env.clock.lastBoundary < new then new else s.env.clock.lastBoundary) = _
      by_cases later : s.env.clock.lastBoundary < new
      · rw [if_pos ⟨valid, later⟩, Nat.max_eq_right (Nat.le_of_lt later)]
      · rw [if_neg fun c => later c.2, Nat.max_eq_left (Nat.not_lt.1 later)]
    · rw [tenv, boundaries_mode]
      exact run
    · rw [tenv, boundaries_tables]
      rfl
    · rw [tenv, boundaries_elapsed]
      rfl

end Sys2Proof.Machine
end

section
/-! SUPPORT. What the taking down of an occurrence or a proving run leaves of its own context, and that it leaves the
others alone (R84, R91). The operations on the matrix that it is made of are told apart first. -/

namespace Sys2Proof.Machine

variable {e : Env} {h h' h'' : Hall} {t u v : Tx}

/-! Operations of the matrix and the exercise: they change nothing else of the hall. -/

/-- Only the matrix is new: claims, rows, queue, crosspoints and reports. -/
structure MatrixOnly (h h' : Hall) : Prop where
  eq : h' = { h with claims := h'.claims, rows := h'.rows, queue := h'.queue, arrivals := h'.arrivals, xps := h'.xps,
                     work := h'.work }

theorem MatrixOnly.refl (h : Hall) : MatrixOnly h h := ⟨rfl⟩

theorem MatrixOnly.trans (a : MatrixOnly h h') (b : MatrixOnly h' h'') : MatrixOnly h h'' :=
  ⟨by rw [b.eq, a.eq]⟩

theorem MatrixOnly.foldl {β : Type} {f : Hall → β → Hall} (l : List β) (hf : ∀ h b, MatrixOnly h (f h b)) :
    MatrixOnly h (l.foldl f h) := by
  induction l generalizing h with
  | nil => exact .refl h
  | cons b l ih => exact (hf h b).trans ih

theorem MatrixOnly.ite {c : Prop} [Decidable c] (a : MatrixOnly h h') (b : MatrixOnly h h'') :
    MatrixOnly h (if c then h' else h'') := by
  split <;> assumption

theorem queueOp_matrix (x : Xp) (d : Dir) (q : Requester) : MatrixOnly h (queueOp x d q h) := by
  unfold queueOp
  (repeat' split) <;> exact ⟨rfl⟩

theorem reportRow_matrix (r : Row) : MatrixOnly h (reportRow r h) := by
  unfold reportRow
  split <;> exact ⟨rfl⟩

theorem settleRow_matrix (r : Row) : MatrixOnly h (settleRow r h) := by
  unfold settleRow
  split
  · exact .refl h
  · exact MatrixOnly.trans (h' := h.setRes r (settledAs h r)) ⟨rfl⟩ (reportRow_matrix r)

theorem withdrawEntry_matrix (n : QEntry) : MatrixOnly h (withdrawEntry e t h n) := by
  unfold withdrawEntry; dsimp only
  (repeat' split) <;> exact ⟨rfl⟩

theorem withdrawOps_matrix : MatrixOnly h (withdrawOps e t h) :=
  (MatrixOnly.foldl _ fun _ n => withdrawEntry_matrix n).trans (.foldl _ fun _ n => settleRow_matrix n.xp.row)

theorem park_matrix : MatrixOnly h (park t h) := by
  unfold park
  split
  · next r _ => exact MatrixOnly.trans (h' := (h.setRes r (.parked t)).setClaim t none) ⟨rfl⟩ (reportRow_matrix r)
  · exact .refl h

/-! A context that gives up its path changes beside the matrix no more than its own waiting flag. -/

structure PathOnly (t : Tx) (h h' : Hall) : Prop where
  eq : h' = { h with claims := h'.claims, rows := h'.rows, queue := h'.queue, arrivals := h'.arrivals, xps := h'.xps,
                     work := h'.work, ctx := h'.ctx }
  own : h'.ctx.get t = { h.ctx.get t with claimWaiting := (h'.ctx.get t).claimWaiting }
  others : ∀ v, v ≠ t → h'.ctx.get v = h.ctx.get v

theorem MatrixOnly.path (a : MatrixOnly h h') : PathOnly t h h' :=
  ⟨by rw [a.eq], by rw [a.eq], fun v _ => by rw [a.eq]⟩

theorem PathOnly.trans (a : PathOnly t h h') (b : PathOnly t h' h'') : PathOnly t h h'' :=
  ⟨by rw [b.eq, a.eq], by rw [b.own, a.own], fun v hv => (b.others v hv).trans (a.others v hv)⟩

theorem modCtx_self {f : Context → Context} : (h.modCtx t f).ctx.get t = f (h.ctx.get t) := by
  rw [Hall.modCtx_get, if_pos rfl]

theorem modCtx_other {f : Context → Context} (hv : v ≠ t) : (h.modCtx t f).ctx.get v = h.ctx.get v := by
  rw [Hall.modCtx_get, if_neg hv.symm]

theorem withdrawClaim_path : PathOnly t h (withdrawClaim e t h) := by
  unfold withdrawClaim
  split
  · exact withdrawOps_matrix.path
  · next c _ =>
    dsimp only
    have left : MatrixOnly h ((h.setWaiting c.row ((h.rows.get c.row).waiting.filter fun q => q.tx != t)).setClaim
      t none) := ⟨rfl⟩
    have told (g : Hall) : PathOnly t g (g.modCtx t fun x => { x with claimWaiting := false }) :=
      ⟨rfl, by rw [modCtx_self], fun v hv => modCtx_other hv⟩
    exact ((left.trans withdrawOps_matrix).path.trans (told _)).trans
      ((settleRow_matrix c.row).trans (.foldl _ fun _ r => settleRow_matrix r)).path

theorem releasePath_path : PathOnly t h (releasePath e t h) :=
  park_matrix.path.trans withdrawClaim_path

/-! The finish of a record: what it leaves of the rest of the hall. -/

theorem modRecord_eq (k : Handle) (f : Record → Record) : h.modRecord k f = { h with slots := (h.modRecord k f).slots } := by
  unfold Hall.modRecord
  split <;> rfl

theorem completeRetirement_eq (k : Handle) :
    completeRetirement k h = { h with slots := (completeRetirement k h).slots } := by
  unfold completeRetirement
  (repeat' split) <;> rfl

theorem outcomeNotice_eq (o : OccOutcome) : outcomeNotice o h = { h with flags := (outcomeNotice o h).flags } := by
  unfold outcomeNotice
  split <;> rfl

/-- A finish writes the record, the last-outcome field of the transmitter, and raises a notice (R22, R65, R96). -/
theorem finishRecord_eq (k : Handle) (o : LastOutcome) : finishRecord e t k o h = { h with
    slots := (finishRecord e t k o h).slots, flags := (finishRecord e t k o h).flags
    lastOutcome := h.lastOutcome.set t (some ⟨k, o⟩) } := by
  unfold finishRecord
  dsimp only
  rw [outcomeNotice_eq, completeRetirement_eq, modRecord_eq]

/-- What finishes of the held occurrence: its outcome as decided (R84). -/
theorem finishHeld_eq : finishHeld e t h = { h with
    slots := (finishHeld e t h).slots, flags := (finishHeld e t h).flags
    lastOutcome := (finishHeld e t h).lastOutcome } := by
  unfold finishHeld
  dsimp only
  split
  · rw [finishRecord_eq]
  · rfl

theorem finishHeld_of {o : Occ} {d : Decided} (ho : (h.ctx.get t).occ = some o) (hd : (h.ctx.get t).decided = some d) :
    finishHeld e t h =
      finishRecord e t o.handle (outcomeOf d o.start o.finish (h.ctx.get t).lateSeconds (h.ctx.get t).wentOnAir) h := by
  unfold finishHeld
  dsimp only
  rw [ho, hd]

theorem finishHeld_none (ho : (h.ctx.get t).occ = none) : finishHeld e t h = h := by
  unfold finishHeld
  dsimp only
  rw [ho]

theorem dropKept_eq (o : OccOutcome) (r : Reason) : dropKept e t o r h = { h with
    slots := (dropKept e t o r h).slots, flags := (dropKept e t o r h).flags
    lastOutcome := (dropKept e t o r h).lastOutcome, ctx := (dropKept e t o r h).ctx } := by
  unfold dropKept
  split
  · rfl
  · rw [finishRecord_eq]
    rfl


/-! `finishIdle`. -/

theorem finishIdle_self : (finishIdle e t h).ctx.get t = Context.idle := by
  unfold finishIdle
  rw [Hall.setCtx_get, if_pos rfl]

theorem finishIdle_other (hv : v ≠ t) : (finishIdle e t h).ctx.get v = h.ctx.get v := by
  unfold finishIdle
  rw [Hall.setCtx_get, if_neg hv.symm, finishHeld_eq]
  exact releasePath_path.others v hv

theorem finishIdle_eq : finishIdle e t h = { h with
    claims := (releasePath e t h).claims, rows := (releasePath e t h).rows, queue := (releasePath e t h).queue
    arrivals := (releasePath e t h).arrivals, xps := (releasePath e t h).xps, work := (releasePath e t h).work
    ctx := (finishIdle e t h).ctx, slots := (finishHeld e t (releasePath e t h)).slots
    flags := (finishHeld e t (releasePath e t h)).flags
    lastOutcome := (finishHeld e t (releasePath e t h)).lastOutcome } := by
  have path := (releasePath_path (e := e) (t := t) (h := h)).eq
  have held := finishHeld_eq (e := e) (t := t) (h := releasePath e t h)
  unfold finishIdle
  generalize finishHeld e t (releasePath e t h) = g at held ⊢
  generalize releasePath e t h = p at path held ⊢
  rw [held, path]
  rfl

theorem finishIdle_gates : (finishIdle e t h).gates = h.gates := by rw [finishIdle_eq]

theorem finishIdle_runs : (finishIdle e t h).runs = h.runs := by rw [finishIdle_eq]

theorem finishIdle_links : (finishIdle e t h).links = h.links := by rw [finishIdle_eq]

/-- What a context holds and has decided when it gives up its path. -/
theorem releasePath_occ : ((releasePath e t h).ctx.get t).occ = (h.ctx.get t).occ := by
  rw [releasePath_path.own]
  rfl

theorem releasePath_decided : ((releasePath e t h).ctx.get t).decided = (h.ctx.get t).decided := by
  rw [releasePath_path.own]

theorem releasePath_late : ((releasePath e t h).ctx.get t).lateSeconds = (h.ctx.get t).lateSeconds := by
  rw [releasePath_path.own]
  rfl

theorem releasePath_wentOnAir : ((releasePath e t h).ctx.get t).wentOnAir = (h.ctx.get t).wentOnAir := by
  rw [releasePath_path.own]
  rfl

theorem releasePath_last : (releasePath e t h).lastOutcome = h.lastOutcome := by rw [releasePath_path.eq]

theorem finishIdle_last : (finishIdle e t h).lastOutcome = (finishHeld e t (releasePath e t h)).lastOutcome := by
  rw [finishIdle_eq]

theorem finishHeld_last_other (hv : v ≠ t) : (finishHeld e t h).lastOutcome.get v = h.lastOutcome.get v := by
  unfold finishHeld
  dsimp only
  split
  · rw [finishRecord_eq]
    exact Tab.get_set_ne _ _ hv.symm
  · rfl

theorem finishIdle_last_other (hv : v ≠ t) : (finishIdle e t h).lastOutcome.get v = h.lastOutcome.get v := by
  rw [finishIdle_last, finishHeld_last_other hv, releasePath_last]

theorem finishIdle_last_none (ho : (h.ctx.get t).occ = none) :
    (finishIdle e t h).lastOutcome = h.lastOutcome := by
  rw [finishIdle_last, finishHeld_none (releasePath_occ.trans ho), releasePath_last]

theorem finishIdle_last_of {o : Occ} {d : Decided} (ho : (h.ctx.get t).occ = some o)
    (hd : (h.ctx.get t).decided = some d) : (finishIdle e t h).lastOutcome.get t = some ⟨o.handle,
      outcomeOf d o.start o.finish (h.ctx.get t).lateSeconds (h.ctx.get t).wentOnAir⟩ := by
  rw [finishIdle_last, finishHeld_of (releasePath_occ.trans ho) (releasePath_decided.trans hd), finishRecord_eq,
    releasePath_late, releasePath_wentOnAir]
  exact Tab.get_set_same ..

/-! `enterEnding`. -/

/-- A gate whose permit is dropped (R160). -/
def Gate.Dropped (g : Gate) : Prop := g.request = false ∧ g.line = false

theorem dropPermit_dropped : ((dropPermit e t h).gates.get t).Dropped := by
  unfold dropPermit
  rw [Hall.modGate_get, if_pos rfl]
  exact ⟨rfl, fall_line _ _⟩

theorem dropPermit_other (hv : v ≠ t) : (dropPermit e t h).gates.get v = h.gates.get v := by
  unfold dropPermit
  rw [Hall.modGate_get, if_neg hv.symm]

theorem dropPermit_ctx : (dropPermit e t h).ctx = h.ctx := rfl

/-- A context that has just entered ENDING (R84). -/
def Context.ended (e : Env) (t : Tx) (c : Context) : Context :=
  { c with state := .ending, endingBegan := some e.now, timer := some (muteTimer e t), spellBegan := none }

theorem enterEnding_eq : enterEnding e t h = { dropPermit e t h with
    slots := (enterEnding e t h).slots, ctx := h.ctx.modify t (Context.ended e t) } := by
  unfold enterEnding
  dsimp only
  split
  · rw [modRecord_eq]
    rfl
  · rfl

theorem enterEnding_slots {o : Occ} (ho : (h.ctx.get t).occ = some o) :
    (enterEnding e t h).slots = (h.modRecord o.handle (Record.enter .ending)).slots := by
  unfold enterEnding
  dsimp only
  rw [dropPermit_ctx, ho]
  unfold Hall.modRecord
  split <;> split <;> simp_all [dropPermit, Hall.modGate, Hall.recordOf, Hall.recordAt] <;> rfl

theorem enterEnding_slots_none (ho : (h.ctx.get t).occ = none) : (enterEnding e t h).slots = h.slots := by
  unfold enterEnding
  dsimp only
  rw [dropPermit_ctx, ho]
  rfl

theorem enterEnding_self : (enterEnding e t h).ctx.get t = (h.ctx.get t).ended e t := by
  rw [enterEnding_eq]
  exact Tab.get_modify_same ..

theorem enterEnding_other (hv : v ≠ t) : (enterEnding e t h).ctx.get v = h.ctx.get v := by
  rw [enterEnding_eq]
  exact Tab.get_modify_ne _ _ hv.symm

theorem enterEnding_dropped : ((enterEnding e t h).gates.get t).Dropped := by
  rw [enterEnding_eq]
  exact dropPermit_dropped

theorem enterEnding_gate_other (hv : v ≠ t) : (enterEnding e t h).gates.get v = h.gates.get v := by
  rw [enterEnding_eq]
  exact dropPermit_other hv

theorem enterEnding_last : (enterEnding e t h).lastOutcome = h.lastOutcome := by
  rw [enterEnding_eq]
  rfl

theorem enterEnding_runs : (enterEnding e t h).runs = h.runs := by
  rw [enterEnding_eq]
  rfl

/-! `unwind` (R91). -/

/-- What is withdrawn first: the permit, the PRESET, the positioning request. -/
def withdrawAll (e : Env) (t : Tx) (h : Hall) : Hall := withdrawPosition t (withdrawPreset t (dropPermit e t h))

theorem unwind_ending_eq (rf : (h.ctx.get t).state.rfMayBeOn = true) : unwind e t h = enterEnding e t
    (if (withdrawAll e t h).connectedClaim t then withdrawOps e t (withdrawAll e t h)
      else withdrawClaim e t (withdrawAll e t h)) := if_pos rf

theorem unwind_idle_eq (rf : (h.ctx.get t).state.rfMayBeOn = false) :
    unwind e t h = finishIdle e t (withdrawAll e t h) := if_neg (ne_true_of_eq_false rf)

theorem givenUp_path : PathOnly t h (if h.connectedClaim t then withdrawOps e t h else withdrawClaim e t h) := by
  split
  · exact withdrawOps_matrix.path
  · exact withdrawClaim_path

theorem unwind_other (hv : v ≠ t) : (unwind e t h).ctx.get v = h.ctx.get v := by
  cases rf : (h.ctx.get t).state.rfMayBeOn
  · rw [unwind_idle_eq rf, finishIdle_other hv]
    rfl
  · rw [unwind_ending_eq rf, enterEnding_other hv, givenUp_path.others v hv]
    rfl

theorem unwind_dropped : ((unwind e t h).gates.get t).Dropped := by
  cases rf : (h.ctx.get t).state.rfMayBeOn
  · rw [unwind_idle_eq rf, finishIdle_gates]
    exact dropPermit_dropped
  · rw [unwind_ending_eq rf]
    exact enterEnding_dropped

theorem unwind_gate_other (hv : v ≠ t) : (unwind e t h).gates.get v = h.gates.get v := by
  cases rf : (h.ctx.get t).state.rfMayBeOn
  · rw [unwind_idle_eq rf, finishIdle_gates]
    exact dropPermit_other hv
  · rw [unwind_ending_eq rf, enterEnding_gate_other hv, givenUp_path.eq]
    exact dropPermit_other hv

theorem unwind_last_other (hv : v ≠ t) : (unwind e t h).lastOutcome.get v = h.lastOutcome.get v := by
  cases rf : (h.ctx.get t).state.rfMayBeOn
  · rw [unwind_idle_eq rf, finishIdle_last_other hv]
    rfl
  · rw [unwind_ending_eq rf, enterEnding_last, givenUp_path.eq]
    rfl

theorem unwind_runs : (unwind e t h).runs = h.runs := by
  cases rf : (h.ctx.get t).state.rfMayBeOn
  · rw [unwind_idle_eq rf, finishIdle_runs]
    rfl
  · rw [unwind_ending_eq rf, enterEnding_runs, givenUp_path.eq]
    rfl

/-- A context that unwinds while RF may be on is ENDING; what it holds, keeps and has decided stands. -/
theorem unwind_ending (rf : (h.ctx.get t).state.rfMayBeOn = true) :
    ∃ b, (unwind e t h).ctx.get t = ({ h.ctx.get t with claimWaiting := b }).ended e t := by
  rw [unwind_ending_eq rf, enterEnding_self, givenUp_path.own]
  exact ⟨_, rfl⟩

theorem unwind_ending_last (rf : (h.ctx.get t).state.rfMayBeOn = true) : (unwind e t h).lastOutcome = h.lastOutcome := by
  rw [unwind_ending_eq rf, enterEnding_last, givenUp_path.eq]
  rfl

theorem unwind_idle (rf : (h.ctx.get t).state.rfMayBeOn = false) : (unwind e t h).ctx.get t = Context.idle := by
  rw [unwind_idle_eq rf]
  exact finishIdle_self

theorem unwind_idle_last {o : Occ} {d : Decided} (rf : (h.ctx.get t).state.rfMayBeOn = false)
    (ho : (h.ctx.get t).occ = some o) (hd : (h.ctx.get t).decided = some d) : (unwind e t h).lastOutcome.get t =
      some ⟨o.handle, outcomeOf d o.start o.finish (h.ctx.get t).lateSeconds (h.ctx.get t).wentOnAir⟩ := by
  rw [unwind_idle_eq rf]
  exact finishIdle_last_of (h := withdrawAll e t h) ho hd

theorem unwind_idle_last_none (rf : (h.ctx.get t).state.rfMayBeOn = false) (ho : (h.ctx.get t).occ = none) :
    (unwind e t h).lastOutcome = h.lastOutcome := by
  rw [unwind_idle_eq rf]
  exact finishIdle_last_none (h := withdrawAll e t h) ho

/-- An occurrence with its outcome decided is taken back by `unwind` (R91). -/
theorem unwind_takenBack {before : Hall} {o : Occ} {d : Decided} (held : (h.ctx.get t).held = .occurrence o)
    (decided : (h.ctx.get t).decided = some d) (state : (h.ctx.get t).state = (before.ctx.get t).state)
    (late : (h.ctx.get t).lateSeconds = (before.ctx.get t).lateSeconds)
    (air : (h.ctx.get t).wentOnAir = (before.ctx.get t).wentOnAir) : TakenBack before t o d (unwind e t h) := by
  have occ : (h.ctx.get t).occ = some o := by rw [Context.occ, held]
  refine ⟨unwind_dropped.1, unwind_dropped.2, ?_⟩
  rw [← state]
  split
  · next rf =>
    obtain ⟨b, own⟩ := unwind_ending (e := e) rf
    rw [own]
    exact ⟨rfl, held, decided⟩
  · next rf =>
    have rf := eq_false_of_ne_true rf
    exact ⟨unwind_idle rf, by rw [unwind_idle_last rf occ decided, late, air]⟩

/-- A proving run is taken back by `unwind` (R91, R177). -/
theorem unwind_runTakenBack {before : Hall} {row : Row} {r : RunResult} (held : (h.ctx.get t).held = .proving row)
    (state : (h.ctx.get t).state = (before.ctx.get t).state)
    (last : h.lastOutcome.get t = before.lastOutcome.get t) (run : h.runs.get t = (before.runs.get t).ended r) :
    RunTakenBack before t row r (unwind e t h) := by
  have occ : (h.ctx.get t).occ = none := by rw [Context.occ, held]
  refine ⟨unwind_dropped.1, unwind_dropped.2, ?_, by rw [unwind_runs, run], ?_⟩
  · cases rf : (h.ctx.get t).state.rfMayBeOn
    · rw [unwind_idle_last_none rf occ, last]
    · rw [unwind_ending_last rf, last]
  · rw [← state]
    split
    · next rf =>
      obtain ⟨b, own⟩ := unwind_ending (e := e) rf
      rw [own]
      exact ⟨rfl, held⟩
    · next rf => exact unwind_idle (eq_false_of_ne_true rf)

/-! Deciding and taking back (R92, R93, R96). -/

theorem decideOutcome_self {o : OccOutcome} {r : Option Reason} {i : Nat} {x : Occ} (held : (h.ctx.get t).held = .occurrence x) :
    (decideOutcome t o r i h).ctx.get t = { h.ctx.get t with decided := some ⟨o, r, i⟩ } := by
  unfold decideOutcome
  rw [modCtx_self]
  exact if_pos (by rw [Context.occ, held]; rfl)

theorem decideOutcome_idle {o : OccOutcome} {r : Option Reason} {i : Nat} (occ : (h.ctx.get t).occ = none) :
    (decideOutcome t o r i h).ctx.get t = h.ctx.get t := by
  unfold decideOutcome
  rw [modCtx_self, occ]
  rfl

theorem decideOutcome_other {o : OccOutcome} {r : Option Reason} {i : Nat} (hv : v ≠ t) :
    (decideOutcome t o r i h).ctx.get v = h.ctx.get v := modCtx_other hv

theorem endRun_self {r : RunResult} : (endRun t r h).runs.get t = (h.runs.get t).ended r := Tab.get_modify_same ..

theorem endRun_other {r : RunResult} (hv : v ≠ t) : (endRun t r h).runs.get v = h.runs.get v :=
  Tab.get_modify_ne _ _ hv.symm

/-- The outcome decided, the run ended with a result, and all unwound: what takes an occurrence back before its time. -/
def takenDown (e : Env) (t : Tx) (d : Decided) (r : RunResult) (h : Hall) : Hall :=
  unwind e t (endRun t r (decideOutcome t d.outcome d.reason d.ended h))

theorem takenDown_takenBack {o : Occ} {d : Decided} {r : RunResult} (held : (h.ctx.get t).held = .occurrence o) :
    TakenBack h t o d (takenDown e t d r h) := by
  have own : (endRun t r (decideOutcome t d.outcome d.reason d.ended h)).ctx.get t =
      { h.ctx.get t with decided := some d } := decideOutcome_self held
  refine unwind_takenBack ?_ ?_ ?_ ?_ ?_ <;> rw [own]
  · exact held
  · rfl
  · rfl

theorem takenDown_runTakenBack {row : Row} {d : Decided} {r : RunResult} (held : (h.ctx.get t).held = .proving row) :
    RunTakenBack h t row r (takenDown e t d r h) := by
  have own : (endRun t r (decideOutcome t d.outcome d.reason d.ended h)).ctx.get t = h.ctx.get t :=
    decideOutcome_idle (by rw [Context.occ, held])
  exact unwind_runTakenBack (by rw [own, held]) (by rw [own]) rfl endRun_self

theorem takenDown_other {d : Decided} {r : RunResult} (hv : v ≠ t) :
    (takenDown e t d r h).ctx.get v = h.ctx.get v := by
  rw [takenDown, unwind_other hv]
  exact decideOutcome_other hv

theorem takenDown_unwound {o : Occ} {d : Decided} {r : RunResult} (held : (h.ctx.get t).held = .occurrence o) :
    Unwound h t o d (takenDown e t d r h) :=
  ⟨takenDown_takenBack held, fun _ hv => takenDown_other hv⟩

theorem takenDown_last_other {d : Decided} {r : RunResult} (hv : v ≠ t) :
    (takenDown e t d r h).lastOutcome.get v = h.lastOutcome.get v := unwind_last_other hv

theorem takenDown_runs_self {d : Decided} {r : RunResult} :
    (takenDown e t d r h).runs.get t = (h.runs.get t).ended r := by
  rw [takenDown, unwind_runs]
  exact endRun_self

theorem takenDown_runs_other {d : Decided} {r : RunResult} (hv : v ≠ t) :
    (takenDown e t d r h).runs.get v = h.runs.get v := by
  rw [takenDown, unwind_runs]
  exact endRun_other hv

theorem takeBack_working {o : OccOutcome} {r : Option Reason} {i : Nat} (w : (h.ctx.get t).state.working = true) :
    takeBack e t o r i h = takenDown e t ⟨o, r, i⟩ .halted h := if_pos w

theorem takeBack_resting {o : OccOutcome} {r : Option Reason} {i : Nat} (w : (h.ctx.get t).state.working = false) :
    takeBack e t o r i h = h := if_neg (ne_true_of_eq_false w)

/-- What a cut decides (R93). -/
def cutDecided (r : Reason) (now : Nat) (air : Bool) : Decided :=
  ⟨(cutOutcome r air).1, some (cutOutcome r air).2, now⟩

theorem cut_working {r : Reason} (w : (h.ctx.get t).state.working = true) :
    cut e t r h = takenDown e t (cutDecided r e.now (h.ctx.get t).wentOnAir) (.failed r) h := if_pos w

theorem cut_resting {r : Reason} (w : (h.ctx.get t).state.working = false) : cut e t r h = h :=
  if_neg (ne_true_of_eq_false w)

/-! A kept occurrence that is dropped (R85). -/

theorem dropKept_none {o : OccOutcome} {r : Reason} (hk : (h.ctx.get t).kept = none) : dropKept e t o r h = h := by
  unfold dropKept
  rw [hk]

theorem dropKept_some {o : OccOutcome} {r : Reason} {k : Kept} (hk : (h.ctx.get t).kept = some k) : dropKept e t o r h =
    (finishRecord e t k.handle { outcome := o, reason := some r, start := k.start, late := 0, early := 0 } h).modCtx t
      fun c => { c with kept := none } := by
  unfold dropKept
  rw [hk]

theorem dropKept_dropped {o : OccOutcome} {r : Reason} {k : Kept} (hk : (h.ctx.get t).kept = some k) :
    KeptDropped h t k o r (dropKept e t o r h) := by
  rw [dropKept_some hk]
  refine ⟨?_, ?_⟩
  · rw [modCtx_self, finishRecord_ctx]
  · rw [Hall.modCtx_lastOutcome, finishRecord_eq]
    exact Tab.get_set_same ..

theorem dropKept_other {o : OccOutcome} {r : Reason} (hv : v ≠ t) :
    (dropKept e t o r h).ctx.get v = h.ctx.get v ∧ (dropKept e t o r h).lastOutcome.get v = h.lastOutcome.get v := by
  cases hk : (h.ctx.get t).kept with
  | none => rw [dropKept_none hk]; exact ⟨rfl, rfl⟩
  | some k =>
    rw [dropKept_some hk]
    refine ⟨?_, ?_⟩
    · rw [modCtx_other hv, finishRecord_ctx]
    · rw [Hall.modCtx_lastOutcome, finishRecord_eq]
      exact Tab.get_set_ne _ _ hv.symm

end Sys2Proof.Machine
end

section
/-! PROOFS. The edits of the slot table: ADD SLOT (O27, O28), AMEND SLOT (O30), CLEAR BANK (O33). -/

namespace Sys2Proof.Machine

variable {s : State} {h : Hall} {c : Instr} {p : List Byte} {k : Handle} {r : Record} {place q : PlaceNo}

/-! Records by their handles. -/

/-- The record that a handle's two bytes name stands at the handle's place, with its generation. -/
theorem namedRecord_ok {w : Nat} (n : namedRecord h w = .ok (k, r)) :
    w % 4096 = k.place.val ∧ k.gen.val = w / 4096 ∧ h.slots.get k.place = { gen := k.gen, record := some r } := by
  unfold namedRecord at n
  split at n
  · cases n
  · next place hp =>
    have number : w % 4096 = place.val := by
      unfold handlePlace below at hp
      split at hp
      · cases hp; rfl
      · cases hp
    split at n
    · cases n
    · next r' hr =>
      split at n
      · next hg =>
        obtain ⟨rfl, rfl⟩ : h.handleOf place = k ∧ r' = r := by simpa using n
        refine ⟨number, hg, ?_⟩
        rw [Hall.recordAt] at hr
        show h.slots.get place = { gen := (h.slots.get place).gen, record := some r' }
        rw [← hr]
      · cases n

theorem recordOf_of_slot (hs : h.slots.get k.place = { gen := k.gen, record := some r }) : h.recordOf k = some r := by
  unfold Hall.recordOf Hall.recordAt
  rw [hs, if_pos rfl]

theorem setRecord_slot {x : Option Record} :
    (h.setRecord place x).slots.get place = { gen := (h.slots.get place).gen, record := x } := Tab.get_modify_same ..

theorem setRecord_slot_other {x : Option Record} (hq : q ≠ place) :
    (h.setRecord place x).slots.get q = h.slots.get q := Tab.get_modify_ne _ _ hq.symm

theorem retirePlace_slot : (retirePlace place h).slots.get place =
    { gen := (h.slots.get place).gen + 1, record := none } := Tab.get_modify_same ..

theorem retirePlace_slot_other (hq : q ≠ place) : (retirePlace place h).slots.get q = h.slots.get q :=
  Tab.get_modify_ne _ _ hq.symm

/-! Requests that name a record. -/

section edit

variable {lengthOk : Bool} {modeOk : Mode → Bool} {rule : Handle → Record → State → Verdict}

theorem editRule_named (n : namedRecord s.hall (wordAt p 0) = .ok (k, r))
    (unlocked : s.env.banks.locked r.sched.bank = false) : editRule p rule s = rule k r s := by
  unfold editRule
  rw [n]
  exact if_neg (ne_true_of_eq_false unlocked)

/-- The refusals that come before every other check of a request that names a record (R16, R13). -/
theorem handleRefusals (w : Received s) (arm : exec c s = .next (request lengthOk modeOk (editRule p rule) s))
    (hl : lengthOk = true) (hm : modeOk s.env.mode = true) : HandleRefusals c p s := by
  refine ⟨fun large => refused_rule w arm hl hm ?_, fun place hp => ⟨fun free => refused_rule w arm hl hm ?_,
    fun r hr => ⟨fun other => refused_rule w arm hl hm ?_, fun same locked => refused_rule w arm hl hm ?_⟩⟩⟩
  all_goals unfold editRule
  · rw [namedRecord_of_large (by omega)]
  · rw [namedRecord_of_place hp.symm, free]
  · rw [namedRecord_of_place hp.symm, hr]
    simp only [if_neg other]
  · rw [namedRecord_of_place hp.symm, hr]
    simp only [if_pos same, locked, if_true]

end edit

/-- An edit that ends as an event: what it leaves of a place that no changeover is concerned with, and its answer. -/
theorem concluded_slots {lengthOk force : Bool} {modeOk : Mode → Bool} {rule : State → Verdict} {f : State → List Byte}
    (w : Received s) (arm : exec c s = .next (request lengthOk modeOk rule s)) (hl : lengthOk = true)
    (hm : modeOk s.env.mode = true) (hr : rule s = acceptEvent s force { s with hall := h } f) :
    ∃ t u, exec c s = .next t ∧ u.hall = t.hall ∧ AnswersOk s t (f u) ∧ OnlyDue s t ∧ t.hall.base = h.base ∧
      Concludes s { s with hall := h } t ∧
      ∀ q, h.uninvolved q → t.hall.slots.get q = h.slots.get q := by
  obtain ⟨t, next, hall, env, answers⟩ := concluded_answers w arm hl hm hr rfl rfl
  refine ⟨t, _, next, hall.symm, answers, ?_, by rw [hall, conclude_base], ⟨force, hall, env⟩, fun q hq => ?_⟩
  · rw [OnlyDue, env]
    exact conclude_env ..
  · rw [hall]
    exact (conclude_slot _ _ hq).2

/-! ADD SLOT (O27). -/

theorem restand_eq (e : Env) (r : Record) : restand e r = { r with state := (restand e r).state } := by
  unfold restand
  split <;> rfl

theorem restand_dormant (e : Env) (h : r.state = .dormant ∨ r.state = .waiting) :
    (restand e r).state = .waiting ∨ (restand e r).state = .dormant := by
  have standing (r : Record) : standing e r = .waiting ∨ standing e r = .dormant := by
    unfold Machine.standing
    split
    · exact .inl rfl
    · exact .inr rfl
  obtain h | h := h <;> simp only [restand, h] <;> exact standing r

theorem restand_started (e : Env) (h : r.state ≠ .dormant) (h' : r.state ≠ .waiting) : restand e r = r := by
  unfold restand
  split <;> simp_all

theorem lowestFree_free (hp : h.lowestFree = some place) : h.recordAt place = none := by
  simpa using List.find?_some hp

/-- ADD SLOT, its checks passed as far as the free place. -/
theorem addSlotRule_stores {raw : Schedule} (layout : addLayout p = true) (image : addImage p = some raw)
    (fields : raw.fieldsOk = true) (configured : configuredFor s.env raw = true)
    (unlocked : s.env.banks.locked raw.bank = false) (reach : reachCheck s.env raw = none)
    (free : s.hall.lowestFree = some place) : addSlotRule p s = storeNew s place raw := by
  unfold addSlotRule
  rw [layout, if_pos rfl, image]
  simp [fields, configured, unlocked, reach, free]

theorem storeNew_stores {raw : Schedule} (clear : conflictOf s.hall none (clampSchedule s.env raw) = none) :
    storeNew s place raw = acceptEvent s true { s with hall := s.hall.setRecord place (some (restand s.env
      (newRecord (clampSchedule s.env raw) (adjustedBy raw (clampSchedule s.env raw))))) } fun t =>
        (t.hall.handleOf place).bytes ++ b1 (restand s.env (newRecord (clampSchedule s.env raw)
          (adjustedBy raw (clampSchedule s.env raw)))).state.code ++
        b1 (adjustedBy raw (clampSchedule s.env raw)).bits := by
  unfold storeNew
  dsimp only
  rw [clear]

theorem clampSchedule_figures (e : Env) (raw : Schedule) {f : TxCfg} (hf : e.tables.tx.get raw.tx = some f) :
    let c := clampSchedule e raw
    c = { raw with power := c.power, tilt := c.tilt, cut := if 180 < raw.cut then 180 else raw.cut } ∧
    (∀ (a : Ant) (k : AntCfg), raw.target = .antenna a → e.tables.ant.get a = some k →
      c.power = min raw.power (min f.rating k.maxPower) ∧ c.tilt = min raw.tilt (k.tiltCount - 1)) ∧
    (∀ l : LoadNo, raw.target = .load l → c.power = min raw.power (min f.rating (e.tables.load.get l)) ∧ c.tilt = 0) ∧
    ∀ g : GroupNo, raw.target = .group g → c.power = min raw.power f.rating ∧ c.tilt = raw.tilt := by
  have figures : e.txFigures raw.tx = f := by simp [Env.txFigures, hf]
  refine ⟨?_, fun a k ht ha => ?_, fun l ht => ?_, fun g ht => ?_⟩
  · have cut : min raw.cut 180 = if 180 < raw.cut then 180 else raw.cut := by split <;> omega
    unfold clampSchedule
    rw [cut]
  · have max : e.rowPower (antRow a) = k.maxPower := by simp [Env.rowPower, rowAnt_antRow, ha]
    simp [clampSchedule, clampedPower, clampedTilt, ht, ha, figures, max, Nat.min_assoc, AntCfg.clampTilt]
  · have max : e.rowPower (loadRow l) = e.tables.load.get l := by
      simp [Env.rowPower, rowAnt_loadRow, rowLoad_loadRow]
    simp [clampSchedule, clampedPower, clampedTilt, ht, figures, max, Nat.min_assoc]
  · simp [clampSchedule, clampedPower, clampedTilt, ht, figures]

/-- Settles O27. -/
theorem addSlotStoresARecord : Obligations.AddSlotStoresARecord := by
  refine ⟨clampSchedule_figures, ?_⟩
  intro s p raw place w hl layout image fields configured unlocked reach free clear quiet
  obtain ⟨t, u, next, same, answers, due, base, -, slots⟩ := concluded_slots (c := .addSlot p) w rfl (beq_iff_eq.2 hl) rfl
    ((addSlotRule_stores layout image fields configured unlocked reach free).trans (storeNew_stores clear))
  have stored : t.hall.slots.get place = _ := (slots place quiet).trans setRecord_slot
  refine ⟨t, _, next, due, base, stored, ?_, ?_, ?_, ?_, ?_, ?_, ?_, ?_, ?_, fun q hq free => ?_⟩
  · rw [restand_eq]; rfl
  · exact restand_dormant _ (.inl rfl)
  · rw [restand_eq]; rfl
  · rw [restand_eq]; rfl
  · rw [restand_eq]; rfl
  · rw [restand_eq]; rfl
  · rw [restand_eq]; rfl
  · rw [restand_eq]; rfl
  · rw [same] at answers
    have handle : t.hall.handleOf place = s.hall.handleOf place := by
      unfold Hall.handleOf
      rw [stored]
    rw [handle, List.append_assoc] at answers
    have adjusted : (restand s.env (newRecord (clampSchedule s.env raw)
        (adjustedBy raw (clampSchedule s.env raw)))).adjusted = adjustedBy raw (clampSchedule s.env raw) := by
      rw [restand_eq]; rfl
    rw [adjusted]
    exact answers
  · rw [slots q free]
    exact setRecord_slot_other hq

/-! CLEAR BANK (O33). -/

theorem clearBankRule_bank (k : Bank) : clearBankRule [BitVec.ofNat 8 k.code] s =
    if k = s.env.banks.live then refuse .field
    else if s.env.banks.locked k then refuse .locked
    else if s.hall.bankInFlight k ≠ 0 then refuse .busy
    else acceptEvent s true
      { s with hall := (s.hall.bankRecords k).foldl (fun h x => retirePlace x.1.place h) s.hall }
      fun _ => b2 (s.hall.bankRecords k).length := by
  cases k <;> rfl

theorem retireAll_base (l : List (Handle × Record)) :
    (l.foldl (fun h x => retirePlace x.1.place h) h).base = h.base ∧
    (l.foldl (fun h x => retirePlace x.1.place h) h).ctx = h.ctx := by
  induction l generalizing h with
  | nil => exact ⟨rfl, rfl⟩
  | cons x l ih => exact ih

/-- Places that are retired together, each once. -/
theorem retireAll_slot {l : List (Handle × Record)} (once : (l.map fun x => x.1.place).Nodup) :
    (l.foldl (fun h x => retirePlace x.1.place h) h).slots.get q =
      if q ∈ l.map (fun x => x.1.place) then { gen := (h.slots.get q).gen + 1, record := none } else h.slots.get q := by
  induction l generalizing h with
  | nil => rfl
  | cons x l ih =>
    obtain ⟨fresh, once⟩ := List.nodup_cons.1 once
    rw [List.foldl_cons, ih once, List.map_cons]
    by_cases hq : q = x.1.place
    · subst hq
      rw [if_neg fresh, if_pos (List.mem_cons_self ..), retirePlace_slot]
    · rw [retirePlace_slot_other hq]
      simp only [List.mem_cons, hq, false_or]

/-- A table's cells beside their numbers. -/
theorem zip_allFin {α : Type} {n : Nat} (t : Tab α n) : t.cells.zip (allFin n) = (allFin n).map fun i => (t.get i, i) := by
  refine List.ext_getElem (by simp [allFin, t.size]) fun i _ hi => ?_
  simp [allFin, Tab.get]

theorem occupied_eq : h.occupied = (allFin 1024).filterMap fun p => (h.recordAt p).map fun r => (h.handleOf p, r) := by
  unfold Hall.occupied
  rw [zip_allFin, List.filterMap_map]
  rfl

theorem mem_occupied {x : Handle × Record} : x ∈ h.occupied ↔
    h.recordAt x.1.place = some x.2 ∧ h.handleOf x.1.place = x.1 := by
  rw [occupied_eq, List.mem_filterMap]
  constructor
  · rintro ⟨p, -, hp⟩
    obtain ⟨r, hr, rfl⟩ := Option.map_eq_some_iff.1 hp
    exact ⟨hr, rfl⟩
  · rintro ⟨hr, hk⟩
    exact ⟨x.1.place, List.mem_finRange _, Option.map_eq_some_iff.2 ⟨x.2, hr, by rw [hk]⟩⟩

/-- The places of the records of a bank, each once. -/
theorem mem_bankRecords {k : Bank} : q ∈ (h.bankRecords k).map (fun x => x.1.place) ↔
    (h.recordAt q).any (fun r => r.sched.bank == k) = true := by
  simp only [List.mem_map, Hall.bankRecords, List.mem_filter, mem_occupied, Option.any_eq_true]
  constructor
  · rintro ⟨⟨k', r⟩, ⟨⟨hr, -⟩, bank⟩, rfl⟩
    exact ⟨r, hr, bank⟩
  · rintro ⟨r, hr, bank⟩
    exact ⟨(h.handleOf q, r), ⟨⟨hr, rfl⟩, bank⟩, rfl⟩

theorem bankRecords_nodup (k : Bank) : ((h.bankRecords k).map fun x => x.1.place).Nodup := by
  refine List.Nodup.sublist (List.filter_sublist.map _) ?_
  rw [occupied_eq, List.map_filterMap]
  refine (List.nodup_finRange 1024).filterMap fun a b p ha hb => ?_
  have place {a : PlaceNo} (ha : p ∈ ((h.recordAt a).map fun r => (h.handleOf a, r)).map fun x => x.1.place) : p = a := by
    obtain ⟨x, hx, rfl⟩ := Option.map_eq_some_iff.1 ha
    obtain ⟨r, -, rfl⟩ := Option.map_eq_some_iff.1 hx
    rfl
  exact (place ha).symm.trans (place hb)

/-- Settles O33. -/
theorem clearBankFreesTheStandby : Obligations.ClearBankFreesTheStandby := by
  intro s k w p
  have rule := clearBankRule_bank (s := s) k
  split
  · next live => exact refused_rule w rfl rfl rfl (rule.trans (if_pos live))
  next live =>
  rw [if_neg live] at rule
  split
  · next locked => exact refused_rule w rfl rfl rfl (rule.trans (if_pos locked))
  next locked =>
  rw [if_neg locked] at rule
  split
  · next busy => exact refused_rule w rfl rfl rfl (rule.trans (if_pos busy))
  next busy =>
  rw [if_neg busy] at rule
  intro quiet
  obtain ⟨t, u, next, same, answers, due, base, -, slots⟩ :=
    concluded_slots (c := .clearBank p) w rfl rfl rfl rule
  obtain ⟨same_base, same_ctx⟩ := retireAll_base (h := s.hall) (s.hall.bankRecords k)
  refine ⟨t, next, due, base.trans same_base, answers, fun q => ?_⟩
  have free : s.hall.uninvolved q → _ := fun hq => slots q (by unfold Hall.uninvolved; rw [same_ctx]; exact hq)
  rw [retireAll_slot (bankRecords_nodup k)] at free
  split
  · next gone =>
    obtain ⟨r, hr, bank⟩ := (Option.any_eq_true _ _).1 gone
    rw [free (quiet q r hr (beq_iff_eq.1 bank)), if_pos (mem_bankRecords.2 gone)]
  · next other =>
    intro hq
    rw [free hq, if_neg fun m => other (mem_bankRecords.1 m)]

end Sys2Proof.Machine
end

section
/-! PROOFS. The refusals of ADD SLOT and AMEND SLOT in their order (O28, O30). -/

namespace Sys2Proof.Machine

variable {s : State} {e : Env} {h : Hall} {p : List Byte} {raw : Schedule} {place : PlaceNo} {st : Status}

/-! Bands and azimuths (R25, R26, R129). -/

theorem angleSub_cast (x y : Nat) : (angleSub x y : Int) = ((x : Int) - y) % 360 := by
  unfold angleSub
  omega

theorem angularDifference_le {x y d : Nat} :
    angularDifference x y ≤ d ↔ ((x : Int) - y) % 360 ≤ d ∨ ((y : Int) - x) % 360 ≤ d := by
  rw [← angleSub_cast, ← angleSub_cast, angularDifference, min_le_iff, Int.ofNat_le, Int.ofNat_le]

theorem reaches_iff (c : AntCfg) (z : Nat) : c.reaches (some z) = true ↔ c.Points z := by
  unfold AntCfg.reaches AntCfg.Points
  cases c.kind <;> simp [angularDifference_le]

theorem holds_iff (c : AntCfg) (f : Nat) : c.holds f = true ↔ c.bandLow ≤ f ∧ f ≤ c.bandHigh := by
  simp [AntCfg.holds]

/-- A member of a group that passes a test. -/
theorem groupAntennas_any {g : GroupNo} {q : AntCfg → Bool} : (groupAntennas e g).any q = true ↔
    ∃ a ∈ e.tables.group.get g, ∃ k, e.tables.ant.get a = some k ∧ q k = true := by
  simp only [groupAntennas, List.any_eq_true, List.mem_filterMap]
  constructor
  · rintro ⟨k, ⟨a, ha, hk⟩, hq⟩
    exact ⟨a, ha, k, hk, hq⟩
  · rintro ⟨a, ha, k, hk, hq⟩
    exact ⟨k, ⟨a, ha, hk⟩, hq⟩

/-- An antenna is configured and its band holds a schedule's frequency (R25). -/
def InBand (e : Env) (raw : Schedule) (a : Ant) (k : AntCfg) : Prop :=
  e.tables.ant.get a = some k ∧ k.bandLow ≤ raw.freq ∧ raw.freq ≤ k.bandHigh

theorem bandOk_iff : bandOk e raw = true ↔
    (∃ f, e.tables.tx.get raw.tx = some f ∧ f.bandLow ≤ raw.freq ∧ raw.freq ≤ f.bandHigh) ∧
    match raw.target with
    | .antenna a => ∃ k, InBand e raw a k
    | .load _ => True
    | .group g => ∃ a ∈ e.tables.group.get g, ∃ k, InBand e raw a k := by
  rw [bandOk, Bool.and_eq_true]
  refine and_congr (by simp [Option.any_eq_true]) ?_
  cases raw.target with
  | antenna a => simp [Option.any_eq_true, holds_iff, InBand]
  | load l => simp
  | group g => simp only [groupAntennas_any, holds_iff, InBand]

theorem azimuthOk_iff : azimuthOk e raw = true ↔ ∀ z : Nat, raw.azimuth = some z →
    match raw.target with
    | .antenna a => ∃ k, e.tables.ant.get a = some k ∧ k.Points z
    | .load _ => False
    | .group g => ∃ a ∈ e.tables.group.get g, ∃ k, InBand e raw a k ∧ k.Points z := by
  unfold azimuthOk
  cases raw.azimuth with
  | none => simp
  | some z =>
    cases raw.target with
    | antenna a => simp [Option.any_eq_true, reaches_iff]
    | load l => simp
    | group g => simp only [Option.some.injEq, forall_eq', groupAntennas_any, Bool.and_eq_true, reaches_iff, holds_iff,
        InBand, and_assoc]

/-! The weekly conflict check (R28, R29). -/

theorem arcsOverlap_iff (a d b c : Nat) : arcsOverlap a d b c = true ↔
    ((b : Int) - a) % 10080 < d ∨ ((a : Int) - b) % 10080 < c := by
  unfold arcsOverlap
  simp only [Bool.or_eq_true, decide_eq_true_eq]
  omega

theorem arcs_any {c : Schedule} {q : Nat → Bool} : c.arcs.any q = true ↔
    ∃ v : Fin 7, c.days.getLsbD v = true ∧ q (v.val * 1440 + c.startMinute) = true := by
  simp only [Schedule.arcs, List.any_map, List.any_filter, List.any_eq_true, List.mem_range, Function.comp,
    Schedule.onWeekday, Bool.and_eq_true]
  constructor
  · rintro ⟨w, hw, day, hq⟩
    exact ⟨⟨w, hw⟩, day, hq⟩
  · rintro ⟨v, day, hq⟩
    exact ⟨v.val, v.isLt, day, hq⟩

theorem endsBefore_iff (c r : Schedule) : c.endsBefore r = false ↔
    ∀ l f : Nat, c.lastDay = some l → r.firstDay = some f → f ≤ l := by
  unfold Schedule.endsBefore
  cases c.lastDay <;> cases r.firstDay <;> simp

theorem meets_iff (c r : Schedule) : c.meets r = true ↔ CouldMeet c r := by
  simp only [Schedule.meets, Bool.and_eq_true, Bool.not_eq_true', endsBefore_iff, Schedule.overlaps, arcs_any,
    arcsOverlap_iff, CouldMeet, and_assoc]
  refine and_congr_right fun _ => and_congr_right fun _ => ?_
  constructor
  · rintro ⟨v, hv, w, hw, near⟩
    exact ⟨v, w, hv, hw, by simpa using near⟩
  · rintro ⟨v, w, hv, hw, near⟩
    exact ⟨v, hv, w, hw, by simpa using near⟩

theorem clashes_iff (a b : Target) : a.clashes b = true ↔ b = a ∧ ∀ g : GroupNo, a ≠ .group g := by
  rw [Target.clashes, Bool.and_eq_true, beq_iff_eq, @eq_comm _ a b]
  refine and_congr_right fun _ => ?_
  cases a <;> simp [Target.isGroup]

/-- Some other record of the bank could meet a schedule and passes a test. -/
def Against (h : Hall) (self : Option PlaceNo) (c : Schedule) (q : Schedule → Prop) : Prop :=
  ∃ (place : PlaceNo) (r : Record), self ≠ some place ∧ h.recordAt place = some r ∧ r.sched.bank = c.bank ∧
    CouldMeet c r.sched ∧ q r.sched

theorem others_any {self : Option PlaceNo} {c : Schedule} {q : Schedule → Bool} :
    (((h.bankRecords c.bank).filter fun x => self != some x.1.place && c.meets x.2.sched).any fun x => q x.2.sched) = true ↔
    Against h self c fun r => q r = true := by
  simp only [List.any_eq_true, List.mem_filter, Hall.bankRecords, mem_occupied, Bool.and_eq_true, bne_iff_ne, beq_iff_eq,
    meets_iff, Against]
  constructor
  · rintro ⟨⟨k, r⟩, ⟨⟨⟨hr, -⟩, bank⟩, other, meets⟩, hq⟩
    exact ⟨k.place, r, other, hr, bank, meets, hq⟩
  · rintro ⟨place, r, other, hr, bank, meets, hq⟩
    exact ⟨(h.handleOf place, r), ⟨⟨⟨hr, rfl⟩, bank⟩, other, meets⟩, hq⟩

theorem conflictOf_eq (self : Option PlaceNo) (c : Schedule) :
    (Against h self c (fun r => r.tx = c.tx) → conflictOf h self c = some .conflictTx) ∧
    (¬Against h self c (fun r => r.tx = c.tx) →
      Against h self c (fun r => r.target = c.target ∧ ∀ g : GroupNo, c.target ≠ .group g) →
      conflictOf h self c = some .conflictAnt) ∧
    (¬Against h self c (fun r => r.tx = c.tx) →
      ¬Against h self c (fun r => r.target = c.target ∧ ∀ g : GroupNo, c.target ≠ .group g) →
      conflictOf h self c = none) := by
  have tx := others_any (h := h) (self := self) (c := c) (q := fun r => r.tx == c.tx)
  have target := others_any (h := h) (self := self) (c := c) (q := fun r => c.target.clashes r.target)
  simp only [beq_iff_eq] at tx
  simp only [clashes_iff] at target
  refine ⟨fun w => if_pos (tx.2 w), fun w v => ?_, fun w v => ?_⟩
  · exact (if_neg fun c => w (tx.1 c)).trans (if_pos (target.2 v))
  · exact (if_neg fun c => w (tx.1 c)).trans (if_neg fun c => v (target.1 c))

/-! ADD SLOT's refusals (R30). -/

theorem reachCheck_band (hb : bandOk e raw = false) : reachCheck e raw = some .band := by simp [reachCheck, hb]

theorem reachCheck_azimuth (hb : bandOk e raw = true) (ha : azimuthOk e raw = false) :
    reachCheck e raw = some .azimuth := by simp [reachCheck, hb, ha]

theorem reachCheck_none (hb : bandOk e raw = true) (ha : azimuthOk e raw = true) : reachCheck e raw = none := by
  simp [reachCheck, hb, ha]

theorem lowestFree_none (full : ∀ q, (h.recordAt q).isSome = true) : h.lowestFree = none := by
  refine List.find?_eq_none.2 fun q _ => ?_
  simp [Option.isSome_iff_ne_none.1 (full q)]

theorem lowestFree_some (room : ¬∀ q, (h.recordAt q).isSome = true) : ∃ place, h.lowestFree = some place := by
  refine Option.isSome_iff_exists.1 (Option.isSome_iff_ne_none.2 fun none => room fun q => ?_)
  refine Option.isSome_iff_ne_none.2 fun free => List.find?_eq_none.1 none q (List.mem_finRange q) ?_
  rw [free]
  rfl

theorem addSlotRule_image (layout : addLayout p = true) : addSlotRule p s =
    match addImage p with
    | none => refuse .field
    | some raw =>
      if raw.fieldsOk = false then refuse .field
      else if configuredFor s.env raw = false then refuse .notReady
      else if s.env.banks.locked raw.bank = true then refuse .locked
      else match reachCheck s.env raw with
        | some st => refuse st
        | none => match s.hall.lowestFree with
          | none => refuse .tableFull
          | some place => storeNew s place raw := by
  unfold addSlotRule
  rw [layout, if_pos rfl]
  cases addImage p with
  | none => rfl
  | some raw =>
    simp only [Bool.not_eq_true']
    cases reachCheck s.env raw <;> cases s.hall.lowestFree <;> rfl

/-- Settles O28: the chain of `addSlotRule`, with the checks it names. -/
theorem addSlotRefusesInOrder : Obligations.AddSlotRefusesInOrder := by
  refine ⟨fun e raw => ⟨bandOk_iff, azimuthOk_iff⟩, fun h self c => conflictOf_eq self c, fun s p w hl layout => ?_⟩
  have rule := addSlotRule_image (s := s) layout
  have refused {st : Status} (hr : addSlotRule p s = refuse st) : RefusedWith (.addSlot p) st s :=
    refused_rule w rfl (beq_iff_eq.2 hl) rfl hr
  cases hi : addImage p with
  | none => rw [hi] at rule; exact refused rule
  | some raw =>
    rw [hi] at rule
    dsimp only at rule ⊢
    split
    · next fields => exact refused (rule.trans (if_pos fields))
    next fields =>
    rw [if_neg fields] at rule
    split
    · next configured => exact refused (rule.trans (if_pos configured))
    next configured =>
    rw [if_neg configured] at rule
    split
    · next locked => exact refused (rule.trans (if_pos locked))
    next locked =>
    rw [if_neg locked] at rule
    split
    · next band => rw [reachCheck_band band] at rule; exact refused rule
    next band =>
    have band := eq_true_of_ne_false band
    split
    · next azimuth => rw [reachCheck_azimuth band azimuth] at rule; exact refused rule
    next azimuth =>
    rw [reachCheck_none band (eq_true_of_ne_false azimuth)] at rule
    rw [ite_prop_iff_and]
    refine ⟨fun full => ?_, fun room st conflict => ?_⟩
    · rw [lowestFree_none full] at rule
      exact refused rule
    · obtain ⟨place, free⟩ := lowestFree_some room
      rw [free] at rule
      refine refused (rule.trans ?_)
      unfold storeNew
      dsimp only
      rw [conflict]

end Sys2Proof.Machine
end

section
/-! PROOFS. The refusals of AMEND SLOT (O30). -/

namespace Sys2Proof.Machine

variable {s : State} {h : Hall} {p : List Byte} {k : Handle} {r : Record} {place : PlaceNo} {gen : Fin 16}

theorem namedRecord_at {w : Nat} (hw : w = gen.val * 4096 + place.val) (hr : h.recordAt place = some r)
    (hg : (h.slots.get place).gen = gen) : namedRecord h w = .ok (⟨place, gen⟩, r) := by
  have number : w % 4096 = place.val := by omega
  have generation : w / 4096 = gen.val := by omega
  rw [namedRecord_of_place number, hr]
  simp only [generation, hg, if_true, Hall.handleOf]

theorem amendBusy_iff : amendBusy h p k r = true ↔
    r.state = .retiring ∨ r.state = .ending ∨ r.suspendPending = true ∨ h.keptBy k ≠ none ∨
      ((r.state = .preparing ∨ r.state = .onAir) ∧
        ∃ f ∈ slotFields, amends p f = true ∧ f ≠ .duration ∧ f ≠ .power) := by
  simp only [amendBusy, RecState.started, Bool.or_eq_true, Bool.and_eq_true, beq_iff_eq, bne_iff_ne, or_assoc, and_assoc,
    List.any_eq_true, Option.isSome_iff_ne_none]

/-- AMEND SLOT's rule when it is not refused for its layout or with BUSY. -/
theorem amendSlotRule_image (layout : amendLayout p = true) (idle : ¬amendBusy s.hall p k r = true) :
    amendSlotRule p k r s =
      match amendImage p r.sched with
      | none => refuse .field
      | some raw =>
        if raw.fieldsOk = false then refuse .field
        else if configuredFor s.env raw = false then refuse .notReady
        else match reachCheck s.env raw with
          | some st => refuse st
          | none => storeAmended p k r raw s := by
  unfold amendSlotRule
  rw [layout, if_neg idle]
  cases amendImage p r.sched with
  | none => rfl
  | some raw =>
    simp only [Bool.not_eq_true']
    cases reachCheck s.env raw <;> rfl

/-- Settles O30: the handle's refusals, then the chain of `amendSlotRule`. -/
theorem amendSlotRefusesInOrder : Obligations.AmendSlotRefusesInOrder := by
  intro s p w hl
  obtain ⟨large, named⟩ := handleRefusals (c := .amendSlot p) (rule := amendSlotRule p) w rfl (beq_iff_eq.2 hl) rfl
  refine ⟨fun beyond => large (by omega), fun place gen word => ?_⟩
  obtain ⟨free, occupied⟩ := named place (by omega)
  have generation : wordAt p 0 / 4096 = gen.val := by omega
  cases hr : s.hall.recordAt place with
  | none => exact free hr
  | some r =>
    obtain ⟨stale, locked⟩ := occupied r hr
    rw [generation] at stale locked
    dsimp only
    split
    · next other => exact stale fun same => other (Fin.ext same)
    next same =>
    have same := not_not.1 same
    split
    · next l => exact locked (congrArg Fin.val same) l
    next unlocked =>
    have rule : editRule p (amendSlotRule p) s = amendSlotRule p ⟨place, gen⟩ r s :=
      editRule_named (namedRecord_at word hr same) (eq_false_of_ne_true unlocked)
    have refused {st : Status} (hr : amendSlotRule p ⟨place, gen⟩ r s = refuse st) : RefusedWith (.amendSlot p) st s :=
      refused_rule w rfl (beq_iff_eq.2 hl) rfl (rule.trans hr)
    split
    · next layout => exact refused (by unfold amendSlotRule; rw [layout]; rfl)
    next layout =>
    have layout := eq_true_of_ne_false layout
    split
    · next busy =>
      refine refused ?_
      unfold amendSlotRule
      rw [layout, amendBusy_iff.2 busy]
      rfl
    next idle =>
    have rule := amendSlotRule_image (s := s) layout fun busy => idle (amendBusy_iff.1 busy)
    cases hi : amendImage p r.sched with
    | none => rw [hi] at rule; exact refused rule
    | some raw =>
      rw [hi] at rule
      dsimp only at rule ⊢
      split
      · next fields => exact refused (rule.trans (if_pos fields))
      next fields =>
      rw [if_neg fields] at rule
      split
      · next configured => exact refused (rule.trans (if_pos configured))
      next configured =>
      rw [if_neg configured] at rule
      split
      · next band => rw [reachCheck_band band] at rule; exact refused rule
      next band =>
      have band := eq_true_of_ne_false band
      split
      · next azimuth => rw [reachCheck_azimuth band azimuth] at rule; exact refused rule
      next azimuth =>
      rw [reachCheck_none band (eq_true_of_ne_false azimuth)] at rule
      refine fun st conflict => refused (rule.trans ?_)
      unfold storeAmended
      dsimp only
      rw [conflict]

end Sys2Proof.Machine
end

section
/-! SUPPORT. What a finish and a taking down leave of the record of the occurrence (R21, R22, R37), and the contexts that
hold and keep occurrences. -/

namespace Sys2Proof.Machine

variable {e : Env} {h g : Hall} {t u : Tx} {k : Handle} {r : Record} {place : PlaceNo}

/-- A place holds a record under a handle. -/
def Hall.Holds (h : Hall) (k : Handle) (r : Record) : Prop :=
  h.slots.get k.place = { gen := k.gen, record := some r }

theorem holds_congr (same : g.slots = h.slots) : g.Holds k r ↔ h.Holds k r := by unfold Hall.Holds; rw [same]

theorem Hall.Holds.record (w : h.Holds k r) : h.recordOf k = some r := recordOf_of_slot w

theorem holds_of_recordOf (hr : h.recordOf k = some r) : h.Holds k r := by
  unfold Hall.recordOf at hr
  split at hr
  · next gen =>
    unfold Hall.Holds
    rw [← gen, ← hr]
    rfl
  · cases hr

theorem setRecord_holds (w : h.Holds k r) {r' : Record} : (h.setRecord k.place (some r')).Holds k r' := by
  unfold Hall.Holds at *
  rw [setRecord_slot, w]

/-- A record written over itself. -/
theorem setRecord_same (w : h.Holds k r) : h.setRecord k.place (some r) = h := by
  have cells : h.slots.modify k.place (fun s => { s with record := some r }) = h.slots := by
    refine (congrArg (h.slots.set k.place) ?_).trans (Tab.set_get _ k.place)
    rw [w]
  unfold Hall.setRecord
  rw [cells]

theorem modRecord_slots (same : g.slots = h.slots) (f : Record → Record) :
    (g.modRecord k f).slots = (h.modRecord k f).slots := by
  have record : g.recordOf k = h.recordOf k := by unfold Hall.recordOf Hall.recordAt; rw [same]
  unfold Hall.modRecord
  rw [record]
  split
  · unfold Hall.setRecord
    rw [same]
  · exact same

theorem modRecord_holds (w : h.Holds k r) (f : Record → Record) : (h.modRecord k f).Holds k (f r) := by
  unfold Hall.modRecord
  rw [w.record]
  exact setRecord_holds w

/-! The finish of a record. -/

/-- A record in flight with the occurrence that finishes and with no other leaves flight (R22). -/
theorem writeOutcome_leaves {kept : Option Nat} {o : LastOutcome} (current : ∀ x ∈ r.current, x.start = o.start)
    (only : r.current = none → ∀ i ∈ kept, i = o.start) : writeOutcome e kept o r =
      leaveFlight e { r with last := some o, served := servedAfter o r.served, current := none } := by
  unfold writeOutcome
  dsimp only
  split
  · next x hx => exact if_pos (current x hx)
  · next i hx =>
    refine (if_pos (only hx i rfl)).trans ?_
    rw [← hx]
  · next hx => rw [← hx]

theorem leaveFlight_last : (leaveFlight e r).last = r.last ∧ (leaveFlight e r).sched = r.sched ∧
    (r.state ≠ .retiring → (leaveFlight e r).state ≠ .retiring) := by
  have standing : standing e r ≠ .retiring := by
    unfold Machine.standing
    split <;> simp
  unfold leaveFlight restand
  (repeat' split) <;> simp_all [Machine.standing]

/-- What is written of an outcome, whatever else the record is in flight with. -/
theorem writeOutcome_last {kept : Option Nat} {o : LastOutcome} : (writeOutcome e kept o r).last = some o ∧
    (writeOutcome e kept o r).sched = r.sched ∧
    (r.state ≠ .retiring → (writeOutcome e kept o r).state ≠ .retiring) := by
  unfold writeOutcome
  dsimp only
  (repeat' split) <;>
    first
    | exact leaveFlight_last
    | exact ⟨rfl, rfl, id⟩

theorem leaveFlight_suspends (pending : r.suspendPending = true) (retiring : r.state ≠ .retiring)
    (suspended : r.state ≠ .suspended) :
    leaveFlight e r = { r with state := .suspended, suspendPending := false } := by
  unfold leaveFlight
  rw [pending]
  cases state : r.state <;> first | contradiction | rfl

theorem leaveFlight_retiring (state : r.state = .retiring) : leaveFlight e r = r := by
  unfold leaveFlight
  rw [state]

theorem completeRetirement_stays (w : h.Holds k r) (state : r.state ≠ .retiring) : completeRetirement k h = h := by
  unfold completeRetirement
  rw [w.record]
  exact if_neg fun c => state c.1

theorem completeRetirement_retires (w : h.Holds k r) (state : r.state = .retiring) (current : r.current = none) :
    (completeRetirement k h).slots.get k.place = { gen := k.gen + 1, record := none } := by
  unfold completeRetirement
  rw [w.record]
  dsimp only
  rw [if_pos ⟨state, by rw [current]; rfl⟩, retirePlace_slot, w]

theorem finishRecord_slots {o : LastOutcome} : (finishRecord e t k o h).slots =
    (completeRetirement k (h.modRecord k (writeOutcome e (h.keptStart k) o))).slots := by
  unfold finishRecord
  dsimp only
  rw [outcomeNotice_eq]

/-- A finish of a record that is not RETIRING writes the outcome. -/
theorem finishRecord_holds {o : LastOutcome} (w : h.Holds k r) (state : r.state ≠ .retiring) :
    (finishRecord e t k o h).Holds k (writeOutcome e (h.keptStart k) o r) := by
  have written := modRecord_holds w (writeOutcome e (h.keptStart k) o)
  rw [holds_congr finishRecord_slots, completeRetirement_stays written (writeOutcome_last.2.2 state)]
  exact written

/-- A finish of a RETIRING record that is in flight with nothing else frees its place (R37). -/
theorem finishRecord_retires {o : LastOutcome} (w : h.Holds k r) (state : r.state = .retiring)
    (current : ∀ x ∈ r.current, x.start = o.start) (only : r.current = none → ∀ i ∈ h.keptStart k, i = o.start) :
    (finishRecord e t k o h).slots.get k.place = { gen := k.gen + 1, record := none } := by
  have written := modRecord_holds w (writeOutcome e (h.keptStart k) o)
  rw [writeOutcome_leaves current only, leaveFlight_retiring (by exact state)] at written
  rw [finishRecord_slots]
  exact completeRetirement_retires written state rfl

/-! Contexts that hold and keep. -/

theorem keptBy_none (hk : h.keptBy k = none) : h.keptStart k = none := by
  unfold Hall.keptStart
  rw [hk]
  rfl

theorem keptBy_kept {x : Kept} (hk : h.keptBy k = some u) (hx : (h.ctx.get u).kept = some x) : x.handle = k := by
  have found := List.find?_some hk
  rw [hx] at found
  exact eq_of_beq found

theorem keptBy_start {x : Kept} (hk : h.keptBy k = some u) (hx : (h.ctx.get u).kept = some x) :
    h.keptStart k = some x.start := by
  unfold Hall.keptStart
  rw [hk]
  show (h.ctx.get u).kept.map Kept.start = _
  rw [hx]
  rfl

theorem keptBy_uninvolved (quiet : h.uninvolved k.place) : h.keptBy k = none := by
  refine List.find?_eq_none.2 fun t _ => ?_
  cases hx : (h.ctx.get t).kept with
  | none => simp
  | some x =>
    have other := (quiet t).2 x hx
    simp only [Option.any_some, beq_iff_eq]
    exact fun same => other (congrArg Handle.place same)

theorem heldBy_held {o : Occ} (hk : h.heldBy k = some u) (held : (h.ctx.get u).held = .occurrence o) : o.handle = k := by
  have found := List.find?_some hk
  rw [Context.occ, held] at found
  exact eq_of_beq found

theorem keptStart_congr (same : ∀ u, (g.ctx.get u).kept = (h.ctx.get u).kept) : g.keptStart k = h.keptStart k := by
  unfold Hall.keptStart Hall.keptBy
  simp only [same]

/-! The taking down of an occurrence. -/

/-- Slots and kept occurrences are as they were. -/
structure KeepsRecords (h g : Hall) : Prop where
  slots : g.slots = h.slots
  kept : ∀ u, (g.ctx.get u).kept = (h.ctx.get u).kept

theorem KeepsRecords.of_path (w : PathOnly t h g) : KeepsRecords h g where
  slots := by rw [w.eq]
  kept u := by
    by_cases hu : u = t
    · subst hu
      rw [w.own]
    · rw [w.others u hu]

theorem KeepsRecords.trans {f : Hall} (a : KeepsRecords h g) (b : KeepsRecords g f) : KeepsRecords h f :=
  ⟨b.slots.trans a.slots, fun u => (b.kept u).trans (a.kept u)⟩

theorem KeepsRecords.holds (w : KeepsRecords h g) : g.Holds k r ↔ h.Holds k r := holds_congr w.slots

theorem KeepsRecords.start (w : KeepsRecords h g) : g.keptStart k = h.keptStart k := keptStart_congr w.kept

theorem withdrawAll_keepsRecords : KeepsRecords h (withdrawAll e t h) := ⟨rfl, fun _ => rfl⟩

theorem decideOutcome_keepsRecords {o : OccOutcome} {x : Option Reason} {i : Nat} :
    KeepsRecords h (decideOutcome t o x i h) where
  slots := rfl
  kept u := by
    unfold decideOutcome
    rw [Hall.modCtx_get]
    (repeat' split) <;> rfl

theorem endRun_keepsRecords {x : RunResult} : KeepsRecords h (endRun t x h) := ⟨rfl, fun _ => rfl⟩

/-- An occurrence that unwinds while RF may be on: its record becomes ENDING, but for a RETIRING one. -/
theorem unwind_ending_holds {o : Occ} (rf : (h.ctx.get t).state.rfMayBeOn = true)
    (held : (h.ctx.get t).held = .occurrence o) (w : h.Holds o.handle r) :
    (unwind e t h).Holds o.handle (r.enter .ending) := by
  have path := KeepsRecords.trans (withdrawAll_keepsRecords (e := e) (t := t) (h := h))
    (.of_path (givenUp_path (e := e) (t := t)))
  have occ : ((withdrawAll e t h).ctx.get t).occ = some o := by
    show (h.ctx.get t).occ = _
    rw [Context.occ, held]
  have own := (givenUp_path (e := e) (t := t) (h := withdrawAll e t h)).own
  rw [unwind_ending_eq rf, holds_congr (enterEnding_slots (by rw [own]; exact occ))]
  exact modRecord_holds (path.holds.2 w) _

/-- An occurrence that unwinds at once finishes with the outcome decided. -/
theorem unwind_idle_slots {o : Occ} {d : Decided} (rf : (h.ctx.get t).state.rfMayBeOn = false)
    (held : (h.ctx.get t).held = .occurrence o) (decided : (h.ctx.get t).decided = some d) :
    ∃ g, KeepsRecords h g ∧ (unwind e t h).slots = (finishRecord e t o.handle
      (outcomeOf d o.start o.finish (h.ctx.get t).lateSeconds (h.ctx.get t).wentOnAir) g).slots := by
  have occ : ((withdrawAll e t h).ctx.get t).occ = some o := by
    show (h.ctx.get t).occ = _
    rw [Context.occ, held]
  refine ⟨releasePath e t (withdrawAll e t h), withdrawAll_keepsRecords.trans (.of_path releasePath_path), ?_⟩
  rw [unwind_idle_eq rf]
  show (finishHeld e t (releasePath e t (withdrawAll e t h))).slots = _
  rw [finishHeld_of (releasePath_occ.trans occ) (releasePath_decided.trans decided), releasePath_late,
    releasePath_wentOnAir]
  rfl

theorem takenDown_keepsRecords {d : Decided} {x : RunResult} :
    KeepsRecords h (endRun t x (decideOutcome t d.outcome d.reason d.ended h)) :=
  decideOutcome_keepsRecords.trans endRun_keepsRecords

theorem takenDown_ctx {o : Occ} {d : Decided} {x : RunResult} (held : (h.ctx.get t).held = .occurrence o) :
    (endRun t x (decideOutcome t d.outcome d.reason d.ended h)).ctx.get t = { h.ctx.get t with decided := some d } :=
  decideOutcome_self held

theorem takenDown_ending_holds {o : Occ} {d : Decided} {x : RunResult} (rf : (h.ctx.get t).state.rfMayBeOn = true)
    (held : (h.ctx.get t).held = .occurrence o) (w : h.Holds o.handle r) :
    (takenDown e t d x h).Holds o.handle (r.enter .ending) := by
  have own := takenDown_ctx (d := d) (x := x) held
  exact unwind_ending_holds (by rw [own]; exact rf) (by rw [own]; exact held) (takenDown_keepsRecords.holds.2 w)

/-- What finishes at once when an occurrence is taken down with RF off. -/
theorem takenDown_idle_slots {o : Occ} {d : Decided} {x : RunResult} (rf : (h.ctx.get t).state.rfMayBeOn = false)
    (held : (h.ctx.get t).held = .occurrence o) :
    ∃ g, KeepsRecords h g ∧ (takenDown e t d x h).slots = (finishRecord e t o.handle
      (outcomeOf d o.start o.finish (h.ctx.get t).lateSeconds (h.ctx.get t).wentOnAir) g).slots := by
  have own := takenDown_ctx (d := d) (x := x) held
  obtain ⟨g, keeps, slots⟩ := unwind_idle_slots (e := e) (o := o) (d := d)
    (h := endRun t x (decideOutcome t d.outcome d.reason d.ended h)) (by rw [own]; exact rf) (by rw [own]; exact held)
    (by rw [own])
  rw [own] at slots
  exact ⟨g, takenDown_keepsRecords.trans keeps, slots⟩

end Sys2Proof.Machine
end

section
/-! PROOFS. RETIRE SLOT (O31), SUSPEND SLOT and RESUME SLOT (O32). -/

namespace Sys2Proof.Machine

variable {s t : State} {e : Env} {h : Hall} {p : List Byte} {k : Handle} {r r' : Record} {u : Tx} {now : Bool}

/-- What leaves every property of the base alone leaves the base. -/
theorem base_of_stays {g : Hall} (w : Stays e (fun g => g.base = h.base) h → Stays e (fun g => g.base = h.base) g) :
    g.base = h.base := (w ⟨base_stable h.base, rfl⟩).holds

theorem takeOutOfFlight_base : (takeOutOfFlight e k r now h).base = h.base := by
  refine base_of_stays (e := e) fun w => ?_
  unfold takeOutOfFlight
  (repeat' split) <;> simp [w]

/-! The hall with the record replaced. -/

theorem setRecord_heldBy {x : Option Record} {q : PlaceNo} : (h.setRecord q x).heldBy k = h.heldBy k := rfl

theorem setRecord_keptBy {x : Option Record} {q : PlaceNo} : (h.setRecord q x).keptBy k = h.keptBy k := rfl

theorem setRecord_keptStart {x : Option Record} {q : PlaceNo} : (h.setRecord q x).keptStart k = h.keptStart k := rfl

theorem Unwound.congr {g after : Hall} {x : Occ} {d : Decided} (same : g.ctx = h.ctx) (w : Unwound g u x d after) :
    Unwound h u x d after := by
  unfold Unwound TakenBack at *
  rw [same] at w
  exact w

/-! What a request that takes a record out of planning does, by the state of the record. -/

theorem takeOutOfFlight_kept (hk : h.keptBy k = some u) :
    takeOutOfFlight e k r now h = dropKept e u .aborted .command h := by
  unfold takeOutOfFlight
  rw [hk]

/-- The context that works on an occurrence is taken back with the outcome of R36 and R38. -/
theorem takeOutOfFlight_held (kept : h.keptBy k = none) (held : h.heldBy k = some u)
    (working : (h.ctx.get u).state.working = true)
    (state : r.state = .preparing ∨ (r.state = .onAir ∧ now = true) ∨
      (r.state = .retiring ∧ now = true ∧ r.retire = some .atEnd)) :
    takeOutOfFlight e k r now h = takenDown e u
      { outcome := if r.state = .preparing then .aborted else .cut, reason := some .command, ended := e.now } .halted h := by
  unfold takeOutOfFlight
  rw [kept, held]
  have taken {o : OccOutcome} : takeBack e u o (some .command) e.now h =
      takenDown e u ⟨o, some .command, e.now⟩ .halted h := takeBack_working working
  obtain state | ⟨state, yes⟩ | ⟨state, yes, old⟩ := state
  · simp [state, taken]
  · simp [state, yes, taken]
  · simp [state, yes, old, taken]

theorem takeOutOfFlight_lets (kept : h.keptBy k = none)
    (state : r.state = .ending ∨ (r.state = .onAir ∧ now = false) ∨
      (r.state = .retiring ∧ ¬(now = true ∧ r.retire = some .atEnd))) : takeOutOfFlight e k r now h = h := by
  unfold takeOutOfFlight
  rw [kept]
  obtain state | ⟨state, no⟩ | ⟨state, no⟩ := state <;> cases h.heldBy k
  · simp [state]
  · simp [state]
  · simp [state]
  · simp [state, no]
  · simp [state]
  · simp only [state]
    exact if_neg no

theorem takeOutOfFlight_ending (kept : h.keptBy k = none) (state : r.state = .retiring) (held : h.heldBy k = some u)
    (ending : (h.ctx.get u).state = .ending) : takeOutOfFlight e k r now h = h := by
  unfold takeOutOfFlight
  rw [kept, state, held]
  dsimp only
  split
  · exact takeBack_resting (by rw [ending]; rfl)
  · rfl

/-! RETIRE SLOT. -/

section retire

/-- The option a request names. -/
def retireOption? (p : List Byte) : RetireOpt := if byteAt p 2 = 0 then .now else .atEnd

theorem retireOptOf_le (hb : byteAt p 2 ≤ 1) : retireOptOf (byteAt p 2) = some (retireOption? p) := by
  unfold retireOption?
  obtain hb | hb : byteAt p 2 = 0 ∨ byteAt p 2 = 1 := by omega
  all_goals rw [hb]; rfl

theorem retireOptOf_large (hb : 1 < byteAt p 2) : retireOptOf (byteAt p 2) = none := by
  generalize byteAt p 2 = n at hb
  match n, hb with
  | n + 2, _ => rfl

/-- The record as RETIRE SLOT marks it. -/
def Record.marked (r : Record) (o : RetireOpt) : Record := { r with state := .retiring, retire := some o }

theorem retireSlotRule_rest (hb : byteAt p 2 ≤ 1) (rest : s.hall.inFlight k r = false) : retireSlotRule p k r s =
    acceptEvent s true { s with hall := retirePlace k.place s.hall } fun _ => b1 Indication.retired.code := by
  unfold retireSlotRule
  rw [retireOptOf_le hb]
  exact if_neg (ne_true_of_eq_false rest)

theorem retireSlotRule_flight (hb : byteAt p 2 ≤ 1) (flight : s.hall.inFlight k r = true) : retireSlotRule p k r s =
    acceptEvent s true { s with hall := takeOutOfFlight s.env k r (retireOption? p == .now) (s.hall.setRecord k.place
      (some (r.marked (retireOption s.hall k r (retireOption? p))))) } fun _ => b1 Indication.pending.code := by
  unfold retireSlotRule
  rw [retireOptOf_le hb]
  exact if_pos flight

theorem retireOption_new {o : RetireOpt} (none : r.retire = none) : retireOption h k r o = o := by
  unfold retireOption
  rw [none]

theorem retireOption_working {o : RetireOpt} (old : r.retire = some .atEnd) (held : h.heldBy k = some u)
    (working : (h.ctx.get u).state.working = true) : retireOption h k r o = o := by
  unfold retireOption
  rw [old, held]
  exact if_neg fun ending => by rw [ending] at working; cases working

/-- An option that stays: NOW, AT_END named again, AT_END while its occurrence is ENDING. -/
theorem retireOption_stands {o : RetireOpt} (old : r.retire = some .now ∨ (r.retire = some .atEnd ∧
    (o = .atEnd ∨ ∃ u, h.heldBy k = some u ∧ (h.ctx.get u).state = .ending))) : some (retireOption h k r o) = r.retire := by
  unfold retireOption
  obtain old | ⟨old, rfl | ⟨u, held, ending⟩⟩ := old
  · rw [old]
  · rw [old]
    cases h.heldBy k with
    | none => rfl
    | some u => exact congrArg some (ite_self _)
  · rw [old, held]
    exact congrArg some (if_pos ending)

end retire

/-- AT_END that stands lets the occurrence run on, and so does NOW. -/
theorem takeOutOfFlight_stands {o : RetireOpt} (kept : h.keptBy k = none) (state : r.state = .retiring)
    (old : r.retire = some .now ∨ (r.retire = some .atEnd ∧
      (o = .atEnd ∨ ∃ u, h.heldBy k = some u ∧ (h.ctx.get u).state = .ending))) :
    takeOutOfFlight e k r (o == .now) h = h := by
  obtain old | ⟨old, rfl | ⟨u, held, ending⟩⟩ := old
  · exact takeOutOfFlight_lets kept (.inr (.inr ⟨state, fun c => by rw [old] at c; cases c.2⟩))
  · exact takeOutOfFlight_lets kept (.inr (.inr ⟨state, fun c => by cases c.1⟩))
  · exact takeOutOfFlight_ending kept state held ending

/-! The record when its occurrence is taken down with RF off, and when its kept occurrence is dropped. -/

theorem takenDown_retires {x : Occ} {d : Decided} {result : RunResult} (rf : (h.ctx.get u).state.rfMayBeOn = false)
    (occ : (h.ctx.get u).held = .occurrence x) (w : h.Holds x.handle r) (state : r.state = .retiring)
    (current : ∀ c ∈ r.current, c.start = x.start) (kept : h.keptBy x.handle = none) :
    (takenDown e u d result h).slots.get x.handle.place = { gen := x.handle.gen + 1, record := none } := by
  obtain ⟨g, keeps, slots⟩ := takenDown_idle_slots (e := e) (d := d) (x := result) rf occ
  rw [slots]
  refine finishRecord_retires (keeps.holds.2 w) state current fun _ i hi => ?_
  rw [keeps.start, keptBy_none kept] at hi
  cases hi

theorem dropKept_slots {o : OccOutcome} {x : Reason} {y : Kept} (hk : (h.ctx.get u).kept = some y) :
    (dropKept e u o x h).slots = (finishRecord e u y.handle
      { outcome := o, reason := some x, start := y.start, late := 0, early := 0 } h).slots := by
  rw [dropKept_some hk]
  rfl

theorem dropKept_retires {o : OccOutcome} {x : Reason} {y : Kept} (hk : (h.ctx.get u).kept = some y)
    (handle : y.handle = k) (start : h.keptStart k = some y.start) (w : h.Holds k r) (state : r.state = .retiring)
    (current : r.current = none) :
    (dropKept e u o x h).slots.get k.place = { gen := k.gen + 1, record := none } := by
  rw [dropKept_slots hk, handle]
  refine finishRecord_retires w state (fun c hc => ?_) fun _ i hi => ?_
  · rw [current] at hc
    cases hc
  · rw [start] at hi
    exact (Option.mem_some.1 hi).symm

theorem dropKept_drops {o : OccOutcome} {x : Reason} {y : Kept} (hk : (h.ctx.get u).kept = some y) :
    (dropKept e u o x h).ctx = h.ctx.set u { h.ctx.get u with kept := none } := by
  rw [dropKept_some hk]
  unfold Hall.modCtx
  rw [finishRecord_ctx]
  rfl

/-- A request that takes the record out of planning drops its kept occurrence (R36, R38, R85). -/
theorem takeOutOfFlight_drops {y : Kept} {m : Option Record} (kept : h.keptBy k = some u)
    (ctx : (h.ctx.get u).kept = some y) :
    let g := h.setRecord k.place m
    takeOutOfFlight e k r now g = dropKept e u .aborted .command g ∧
    (dropKept e u .aborted .command g).ctx = h.ctx.set u { h.ctx.get u with kept := none } ∧
    (dropKept e u .aborted .command g).lastOutcome.get u = some { handle := k, last :=
      { outcome := .aborted, reason := some .command, start := y.start, late := 0, early := 0 } } ∧
    y.handle = k ∧ (g.ctx.get u).kept = some y ∧ g.keptStart k = some y.start := by
  have start := (setRecord_keptStart (x := m) (q := k.place)).trans (keptBy_start (k := k) kept ctx)
  have kept' := (setRecord_keptBy (k := k) (x := m) (q := k.place)).trans kept
  have same : (h.setRecord k.place m).ctx = h.ctx := rfl
  have handle := keptBy_kept kept ctx
  generalize h.setRecord k.place m = g at *
  rw [← same] at ctx ⊢
  exact ⟨takeOutOfFlight_kept kept', dropKept_drops ctx, (dropKept_dropped ctx).2.trans (by rw [handle]), handle, ctx,
    start⟩

/-- What RETIRE SLOT makes of an occurrence that it takes back (R36). -/
theorem retire_takesBack {x : Occ} {o : RetireOpt} (holds : h.Holds k r) (kept : h.keptBy k = none)
    (held : h.heldBy k = some u) (occ : (h.ctx.get u).held = .occurrence x)
    (working : (h.ctx.get u).state.working = true)
    (state : r.state = .preparing ∨ (r.state = .onAir ∧ o = .now) ∨
      (r.state = .retiring ∧ o = .now ∧ r.retire = some .atEnd)) :
    let after := takeOutOfFlight e k r (o == .now) (h.setRecord k.place (some (r.marked o)))
    Unwound h u x
      { outcome := if r.state = .preparing then .aborted else .cut, reason := some .command, ended := e.now } after ∧
    ((h.ctx.get u).state.rfMayBeOn = true →
      after.slots.get k.place = { gen := k.gen, record := some (r.marked o) }) ∧
    ((h.ctx.get u).state.rfMayBeOn = false → (∀ c ∈ r.current, c.start = x.start) →
      after.slots.get k.place = { gen := k.gen + 1, record := none }) := by
  have handle := heldBy_held held occ
  have marks := setRecord_holds holds (r' := r.marked o)
  have ctx : (h.setRecord k.place (some (r.marked o))).ctx = h.ctx := rfl
  have kept' := (setRecord_keptBy (k := k) (x := some (r.marked o)) (q := k.place)).trans kept
  have held' := (setRecord_heldBy (x := some (r.marked o)) (q := k.place)).trans held
  generalize h.setRecord k.place (some (r.marked o)) = g at *
  rw [← ctx] at occ working ⊢
  have now : (o == .now) = true ↔ o = .now := beq_iff_eq
  rw [takeOutOfFlight_held kept' held' working
    (state.imp_right (.imp (.imp_right now.2) (.imp_right (.imp_left now.2))))]
  rw [← handle] at marks kept' ⊢
  exact ⟨(takenDown_unwound occ).congr ctx, fun rf => takenDown_ending_holds rf occ marks,
    fun rf current => takenDown_retires rf occ marks rfl current kept'⟩

/-- RETIRE SLOT on a record in flight, as an event. -/
theorem retireSlot_flight (w : Received s) (hl : p.length = 3) (hb : byteAt p 2 ≤ 1)
    (named : namedRecord s.hall (wordAt p 0) = .ok (k, r)) (unlocked : s.env.banks.locked r.sched.bank = false)
    (flight : s.hall.inFlight k r = true) :
    ∃ t, exec (.retireSlot p) s = .next t ∧ OnlyDue s t ∧ t.hall.base = s.hall.base ∧ AnswersOk s t [1] ∧
      Concludes s { s with hall := takeOutOfFlight s.env k r (retireOption? p == .now) (s.hall.setRecord k.place
        (some (r.marked (retireOption s.hall k r (retireOption? p))))) } t := by
  obtain ⟨t, -, next, -, answers, due, base, concludes, -⟩ := concluded_slots (c := .retireSlot p) w rfl
    (beq_iff_eq.2 hl) rfl ((editRule_named named unlocked).trans (retireSlotRule_flight hb flight))
  exact ⟨t, next, due, base.trans takeOutOfFlight_base, answers, concludes⟩

/-- RETIRE SLOT on a record at rest. -/
theorem retireSlot_rest (w : Received s) (hl : p.length = 3) (hb : byteAt p 2 ≤ 1)
    (named : namedRecord s.hall (wordAt p 0) = .ok (k, r)) (unlocked : s.env.banks.locked r.sched.bank = false)
    (rest : s.hall.inFlight k r = false) (quiet : s.hall.uninvolved k.place) :
    ∃ t, exec (.retireSlot p) s = .next t ∧ OnlyDue s t ∧ t.hall.base = s.hall.base ∧
      t.hall.slots.get k.place = { gen := k.gen + 1, record := none } ∧ t.hall.recordOf k = none ∧ AnswersOk s t [2] ∧
      ∀ q : PlaceNo, q ≠ k.place → s.hall.uninvolved q → t.hall.slots.get q = s.hall.slots.get q := by
  obtain ⟨t, -, next, -, answers, due, base, -, slots⟩ := concluded_slots (c := .retireSlot p) w rfl
    (beq_iff_eq.2 hl) rfl ((editRule_named named unlocked).trans (retireSlotRule_rest hb rest))
  obtain ⟨-, -, holds⟩ := namedRecord_ok named
  have freed : t.hall.slots.get k.place = { gen := k.gen + 1, record := none } := by
    rw [slots _ quiet, retirePlace_slot, holds]
  refine ⟨t, next, due, base, freed, ?_, answers, fun q hq free => ?_⟩
  · unfold Hall.recordOf Hall.recordAt
    rw [freed]
    exact ite_self _
  · rw [slots q free, retirePlace_slot_other hq]

/-- Settles O31. -/
theorem retireSlotFreesThePlace : Obligations.RetireSlotFreesThePlace := by
  refine ⟨fun s p w hl => ⟨handleRefusals w rfl (beq_iff_eq.2 hl) rfl, fun k r named unlocked large => ?_⟩,
    fun s p k r w hl hb named unlocked => ⟨fun rest quiet => ?_, fun flight => ?_⟩⟩
  · refine refused_rule w rfl (beq_iff_eq.2 hl) rfl ((editRule_named named unlocked).trans ?_)
    unfold retireSlotRule
    rw [retireOptOf_large large]
  · exact retireSlot_rest w hl hb named unlocked rest quiet
  · intro o marked
    obtain ⟨t, next, due, base, answers, concludes⟩ := retireSlot_flight w hl hb named unlocked flight
    obtain ⟨-, -, holds⟩ := namedRecord_ok named
    change s.hall.Holds k r at holds
    have option : retireOption? p = o := rfl
    rw [option] at concludes
    refine ⟨t, next, due, base, answers, fun new kept state => ?_,
      fun u x new kept held occ working state => ?_, fun u x new current kept ctx => ?_,
      fun u x state old first kept held occ working => ?_, fun state kept old => ?_⟩
    · rw [retireOption_new new, takeOutOfFlight_lets (setRecord_keptBy.trans kept)] at concludes
      · exact concludes
      · exact state.imp_right fun ⟨air, later⟩ => .inl ⟨air, by rw [later]; rfl⟩
    · rw [retireOption_new new] at concludes
      obtain ⟨unwound, ending, idle⟩ := retire_takesBack (e := s.env) holds kept held occ working
        (state.imp_right .inl)
      refine ⟨_, concludes, unwound, ?_⟩
      split
      · next rf => exact ending rf
      · next rf => exact idle (eq_false_of_ne_true rf)
    · obtain ⟨drops, after, last, handle, own, start⟩ := takeOutOfFlight_drops (e := s.env) (r := r)
        (now := o == .now) (m := some (r.marked o)) kept ctx
      rw [retireOption_new new, drops] at concludes
      exact ⟨_, concludes, after, last, dropKept_retires own handle start (setRecord_holds holds) rfl current⟩
    · rw [retireOption_working old held working] at concludes
      obtain ⟨unwound, ending, -⟩ := retire_takesBack (e := s.env) (o := o) holds kept held occ working
        (.inr (.inr ⟨state, first, old⟩))
      rw [if_neg (by rw [state]; simp)] at unwound
      exact ⟨_, concludes, unwound, ending⟩
    · have same : r.marked (retireOption s.hall k r o) = r := by
        unfold Record.marked
        rw [retireOption_stands old, ← state]
      rw [same, setRecord_same holds, takeOutOfFlight_stands kept state old] at concludes
      exact concludes

/-! SUSPEND SLOT and RESUME SLOT. -/

section suspend

theorem suspendSlot_retiring (w : Received s) (hl : p.length = 2)
    (named : namedRecord s.hall (wordAt p 0) = .ok (k, r)) (unlocked : s.env.banks.locked r.sched.bank = false)
    (state : r.state = .retiring) :
    RefusedWith (.suspendSlot p) .busy s ∧ RefusedWith (.resumeSlot p) .busy s := by
  refine ⟨?_, ?_⟩ <;> refine refused_rule w rfl (beq_iff_eq.2 hl) rfl ((editRule_named named unlocked).trans ?_)
  · unfold suspendSlotRule
    rw [if_pos state]
  · unfold resumeSlotRule
    rw [if_pos state]

/-- The hall after SUSPEND SLOT, before it settles. -/
def suspended (s : State) (k : Handle) (r : Record) : Hall :=
  let h := s.hall.setRecord k.place (some (r.suspend (s.hall.inFlight k r)))
  if s.hall.inFlight k r ∧ !r.suspendPending ∧ r.state ≠ .suspended then takeOutOfFlight s.env k r true h else h

theorem suspendSlotRule_event (state : r.state ≠ .retiring) : suspendSlotRule k r s =
    acceptEvent s true { s with hall := suspended s k r } fun t => suspendReply t k := by
  unfold suspendSlotRule
  rw [if_neg state]
  rfl

theorem suspended_base : (suspended s k r).base = s.hall.base := by
  unfold suspended
  dsimp only
  split
  · exact takeOutOfFlight_base
  · rfl

theorem suspend_again {flying : Bool} (state : r.state = .suspended ∨ r.suspendPending = true) :
    r.suspend flying = r := if_pos state

theorem suspend_rest (state : r.state ≠ .suspended) (pending : r.suspendPending = false) :
    r.suspend false = { r with state := .suspended } := by
  simp [Record.suspend, state, pending]

theorem suspend_flying (state : r.state ≠ .suspended) (pending : r.suspendPending = false) :
    r.suspend true = { r with suspendPending := true } := by
  simp [Record.suspend, state, pending]

theorem suspended_again (holds : s.hall.Holds k r) (state : r.state = .suspended ∨ r.suspendPending = true) :
    suspended s k r = s.hall := by
  unfold suspended
  dsimp only
  rw [suspend_again state, setRecord_same holds, if_neg]
  rintro ⟨-, pending, other⟩
  obtain state | state := state
  · exact other state
  · rw [state] at pending
    cases pending

theorem suspended_rest (state : r.state ≠ .suspended) (pending : r.suspendPending = false)
    (rest : s.hall.inFlight k r = false) :
    suspended s k r = s.hall.setRecord k.place (some { r with state := .suspended }) := by
  unfold suspended
  dsimp only
  rw [rest, suspend_rest state pending]
  rfl

/-- The record as SUSPEND SLOT marks it in flight. -/
def Record.awaitsSuspension (r : Record) : Record := { r with suspendPending := true }

theorem suspended_flying (state : r.state ≠ .suspended) (pending : r.suspendPending = false)
    (flying : s.hall.inFlight k r = true) : suspended s k r =
      takeOutOfFlight s.env k r true (s.hall.setRecord k.place (some r.awaitsSuspension)) := by
  unfold suspended
  dsimp only
  rw [flying, suspend_flying state pending, pending]
  exact if_pos ⟨rfl, rfl, state⟩

theorem inFlight_started (state : r.state = .preparing ∨ r.state = .onAir ∨ r.state = .ending) :
    h.inFlight k r = true := by
  obtain state | state | state := state <;> simp [Hall.inFlight, state]

theorem inFlight_kept (kept : h.keptBy k = some u) : h.inFlight k r = true := by
  simp [Hall.inFlight, kept]

theorem inFlight_rest (state : r.state = .dormant ∨ r.state = .waiting) (quiet : h.uninvolved k.place) :
    h.inFlight k r = false := by
  obtain state | state := state <;> simp [Hall.inFlight, state, keptBy_uninvolved quiet]

/-- What a finish leaves of a record whose suspension is pending: SUSPENDED. -/
theorem writeOutcome_suspends {kept : Option Nat} {o : LastOutcome} (pending : r.suspendPending = true)
    (state : r.state ≠ .retiring ∧ r.state ≠ .suspended) (current : ∀ x ∈ r.current, x.start = o.start)
    (only : r.current = none → ∀ i ∈ kept, i = o.start) (served : o.outcome ≠ .halted) :
    let r' := writeOutcome e kept o r
    r'.state = .suspended ∧ r'.suspendPending = false ∧ r'.current = none ∧ r'.served = some o.start := by
  intro r'
  have written : r' = leaveFlight e { r with last := some o, served := servedAfter o r.served, current := none } :=
    writeOutcome_leaves current only
  have suspended := leaveFlight_suspends (e := e)
    (r := { r with last := some o, served := servedAfter o r.served, current := none }) pending state.1 state.2
  rw [written, suspended]
  refine ⟨rfl, rfl, rfl, ?_⟩
  show servedAfter o r.served = _
  unfold servedAfter
  split <;> simp_all

/-- What SUSPEND SLOT makes of an occurrence that it takes back (R38). -/
theorem suspend_takesBack {x : Occ} (holds : h.Holds k r) (kept : h.keptBy k = none)
    (held : h.heldBy k = some u) (occ : (h.ctx.get u).held = .occurrence x)
    (working : (h.ctx.get u).state.working = true) (state : r.state = .preparing ∨ r.state = .onAir) :
    let after := takeOutOfFlight e k r true (h.setRecord k.place (some r.awaitsSuspension))
    Unwound h u x
      { outcome := if r.state = .preparing then .aborted else .cut, reason := some .command, ended := e.now } after ∧
    ((h.ctx.get u).state.rfMayBeOn = true → after.slots.get k.place =
      { gen := k.gen, record := some { r with state := .ending, suspendPending := true } }) ∧
    ((h.ctx.get u).state.rfMayBeOn = false → (∀ c ∈ r.current, c.start = x.start) → ∃ r' : Record,
      after.slots.get k.place = { gen := k.gen, record := some r' } ∧ r'.state = .suspended ∧
      r'.suspendPending = false ∧ r'.current = none ∧ r'.served = some x.start) := by
  have handle := heldBy_held held occ
  have marks := setRecord_holds holds (r' := r.awaitsSuspension)
  have ctx : (h.setRecord k.place (some r.awaitsSuspension)).ctx = h.ctx := rfl
  have kept' := (setRecord_keptBy (k := k) (x := some r.awaitsSuspension) (q := k.place)).trans kept
  have held' := (setRecord_heldBy (x := some r.awaitsSuspension) (q := k.place)).trans held
  generalize h.setRecord k.place (some r.awaitsSuspension) = g at *
  rw [← ctx] at occ working ⊢
  rw [takeOutOfFlight_held kept' held' working (state.imp_right fun air => .inl ⟨air, rfl⟩)]
  have flying : r.awaitsSuspension.state ≠ .retiring ∧ r.awaitsSuspension.state ≠ .suspended := by
    obtain state | state := state <;> exact ⟨by simp [Record.awaitsSuspension, state], by simp [Record.awaitsSuspension, state]⟩
  rw [← handle] at marks kept' ⊢
  refine ⟨(takenDown_unwound occ).congr ctx, fun rf => ?_, fun rf current => ?_⟩
  · have ending := takenDown_ending_holds (e := e) (x := .halted) rf occ marks
      (d := { outcome := if r.state = .preparing then .aborted else .cut, reason := some .command, ended := e.now })
    unfold Record.enter at ending
    rw [if_neg flying.1] at ending
    exact ending
  · obtain ⟨f, keeps, slots⟩ := takenDown_idle_slots (e := e) (x := .halted) rf occ
      (d := { outcome := if r.state = .preparing then .aborted else .cut, reason := some .command, ended := e.now })
    rw [slots]
    have none : f.keptStart x.handle = none := keeps.start.trans (keptBy_none kept')
    refine ⟨_, finishRecord_holds (keeps.holds.2 marks) flying.1, writeOutcome_suspends rfl flying current ?_ ?_⟩
    · intro _ i hi
      rw [none] at hi
      cases hi
    · show (if r.state = .preparing then OccOutcome.aborted else OccOutcome.cut) ≠ .halted
      split <;> simp

/-- What SUSPEND SLOT makes of a kept occurrence (R38, R85). -/
theorem dropKept_suspends {y : Kept} (ctx : (h.ctx.get u).kept = some y) (handle : y.handle = k)
    (start : h.keptStart k = some y.start) (holds : h.Holds k r) (pending : r.suspendPending = true)
    (state : r.state = .waiting) (current : r.current = none) : ∃ r' : Record,
      (dropKept e u .aborted .command h).slots.get k.place = { gen := k.gen, record := some r' } ∧
      r'.state = .suspended ∧ r'.suspendPending = false ∧ r'.served = some y.start := by
  have flying : r.state ≠ .retiring ∧ r.state ≠ .suspended := by rw [state]; simp
  rw [dropKept_slots ctx, handle]
  obtain ⟨state, pending, -, served⟩ := writeOutcome_suspends (e := e) (kept := h.keptStart k)
    (o := { outcome := .aborted, reason := some .command, start := y.start, late := 0, early := 0 })
    pending flying (fun c hc => by rw [current] at hc; cases hc)
    (fun _ i hi => by rw [start] at hi; exact (Option.mem_some.1 hi).symm) (by simp)
  exact ⟨_, finishRecord_holds holds flying.1, state, pending, served⟩

/-- SUSPEND SLOT as an event. -/
theorem suspendSlot_event (w : Received s) (hl : p.length = 2)
    (named : namedRecord s.hall (wordAt p 0) = .ok (k, r)) (unlocked : s.env.banks.locked r.sched.bank = false)
    (state : r.state ≠ .retiring) :
    ∃ t u, exec (.suspendSlot p) s = .next t ∧ u.hall = t.hall ∧ AnswersOk s t (suspendReply u k) ∧ OnlyDue s t ∧
      t.hall.base = s.hall.base ∧ Concludes s { s with hall := suspended s k r } t ∧
      ∀ q, (suspended s k r).uninvolved q → t.hall.slots.get q = (suspended s k r).slots.get q := by
  obtain ⟨t, u, next, same, answers, due, base, concludes, slots⟩ := concluded_slots (c := .suspendSlot p) w rfl
    (beq_iff_eq.2 hl) rfl ((editRule_named named unlocked).trans (suspendSlotRule_event state))
  exact ⟨t, u, next, same, answers, due, base.trans suspended_base, concludes, slots⟩

theorem suspendReply_of {a : State} (hr : a.hall.recordOf k = some r) : suspendReply a k =
    [BitVec.ofNat 8 r.state.code, if r.suspendPending then 1 else 0] := by
  unfold suspendReply
  rw [hr]
  cases pending : r.suspendPending <;> simp [b1, pending, Indication.code]

/-- SUSPEND SLOT at rest. -/
theorem suspendSlot_rest (w : Received s) (hl : p.length = 2)
    (named : namedRecord s.hall (wordAt p 0) = .ok (k, r)) (unlocked : s.env.banks.locked r.sched.bank = false)
    (state : r.state = .dormant ∨ r.state = .waiting) (pending : r.suspendPending = false)
    (quiet : s.hall.uninvolved k.place) :
    ∃ t, exec (.suspendSlot p) s = .next t ∧ OnlyDue s t ∧ t.hall.base = s.hall.base ∧ AnswersOk s t [5, 0] ∧
      t.hall.slots.get k.place = { gen := k.gen, record := some { r with state := .suspended } } ∧
      ∀ q : PlaceNo, q ≠ k.place → s.hall.uninvolved q → t.hall.slots.get q = s.hall.slots.get q := by
  have other : r.state ≠ .retiring ∧ r.state ≠ .suspended := by obtain state | state := state <;> rw [state] <;> simp
  obtain ⟨t, u, next, same, answers, due, base, -, slots⟩ := suspendSlot_event w hl named unlocked other.1
  rw [suspended_rest other.2 pending (inFlight_rest state quiet)] at slots
  obtain ⟨-, -, holds⟩ := namedRecord_ok named
  have written := (slots _ quiet).trans (setRecord_holds holds)
  rw [suspendReply_of ((congrArg (Hall.recordOf · k) same).trans (recordOf_of_slot written))] at answers
  dsimp only at answers
  rw [pending] at answers
  exact ⟨t, next, due, base, answers, written, fun q hq free => (slots q free).trans (setRecord_slot_other hq)⟩

theorem resumeSlotRule_event (state : r.state ≠ .retiring) : resumeSlotRule k r s =
    acceptEvent s true { s with hall := s.hall.setRecord k.place (some (r.resume s.env)) }
      fun _ => b1 (r.resume s.env).state.code := by
  unfold resumeSlotRule
  rw [if_neg state]

/-- RESUME SLOT as an event. -/
theorem resumeSlot_event (w : Received s) (hl : p.length = 2)
    (named : namedRecord s.hall (wordAt p 0) = .ok (k, r)) (unlocked : s.env.banks.locked r.sched.bank = false)
    (state : r.state ≠ .retiring) (resumed : r.resume s.env = r') :
    ∃ t, exec (.resumeSlot p) s = .next t ∧ OnlyDue s t ∧ t.hall.base = s.hall.base ∧
      AnswersOk s t [BitVec.ofNat 8 r'.state.code] ∧
      Concludes s { s with hall := s.hall.setRecord k.place (some r') } t ∧
      ∀ q, s.hall.uninvolved q → t.hall.slots.get q = (s.hall.setRecord k.place (some r')).slots.get q := by
  obtain ⟨t, -, next, -, answers, due, base, concludes, slots⟩ := concluded_slots (c := .resumeSlot p) w rfl
    (beq_iff_eq.2 hl) rfl ((editRule_named named unlocked).trans (resumeSlotRule_event state))
  rw [resumed] at answers concludes slots
  exact ⟨t, next, due, base, answers, concludes, slots⟩

end suspend

/-- Settles O32. -/
theorem suspendAndResume : Obligations.SuspendAndResume := by
  refine ⟨fun s p w hl => ⟨handleRefusals w rfl (beq_iff_eq.2 hl) rfl, handleRefusals w rfl (beq_iff_eq.2 hl) rfl⟩,
    fun s p k r w hl named unlocked => ⟨suspendSlot_retiring w hl named unlocked,
      suspendSlot_rest w hl named unlocked, fun state pending quiet => ?_, fun state => ⟨?_, fun pending => ?_,
      fun pending other => ?_⟩⟩⟩
  all_goals
    obtain ⟨-, -, holds⟩ := namedRecord_ok named
    change s.hall.Holds k r at holds
  · have resumed : r.resume s.env = { r with state := (restand s.env { r with state := .waiting }).state } := by
      simp only [Record.resume, pending, state, if_true, Bool.false_eq_true, if_false]
      rw [restand_eq]
    obtain ⟨t, next, due, base, answers, -, slots⟩ := resumeSlot_event w hl named unlocked (by rw [state]; simp) resumed
    exact ⟨t, next, due, base, _, restand_dormant _ (.inr rfl), answers,
      (slots _ quiet).trans (setRecord_holds holds),
      fun q hq free => (slots q free).trans (setRecord_slot_other hq)⟩
  · obtain ⟨t, u, next, same, answers, due, base, concludes, -⟩ := suspendSlot_event w hl named unlocked state
    refine ⟨t, next, due, base, fun r' hr => ?_, fun again => ?_, fun state pending kept => ?_,
      fun u x state pending kept held occ working => ?_, fun u x state pending current kept ctx => ?_⟩
    · rwa [suspendReply_of ((congrArg (Hall.recordOf · k) same).trans hr)] at answers
    · rwa [suspended_again holds again] at concludes
    · rwa [suspended_flying (by rw [state]; simp) pending (inFlight_started (.inr (.inr state))),
        takeOutOfFlight_lets (setRecord_keptBy.trans kept) (.inl state)] at concludes
    · rw [suspended_flying (by obtain state | state := state <;> rw [state] <;> simp) pending
        (inFlight_started (state.imp_right .inl))] at concludes
      obtain ⟨unwound, ending, idle⟩ := suspend_takesBack (e := s.env) holds kept held occ working state
      refine ⟨_, concludes, unwound, ?_⟩
      split
      · next rf => exact ending rf
      · next rf => exact idle (eq_false_of_ne_true rf)
    · obtain ⟨drops, after, last, handle, own, start⟩ := takeOutOfFlight_drops (e := s.env) (r := r)
        (now := true) (m := some r.awaitsSuspension) kept ctx
      rw [suspended_flying (by rw [state]; simp) pending (inFlight_kept kept), drops] at concludes
      obtain ⟨r', slot, suspended⟩ := dropKept_suspends (e := s.env) own handle start (setRecord_holds holds) rfl state current
      exact ⟨_, r', concludes, after, last, slot, suspended⟩
  · obtain ⟨t, next, due, base, answers, concludes, -⟩ := resumeSlot_event w hl named unlocked state
      (r' := { r with suspendPending := false }) (if_pos pending)
    exact ⟨t, next, due, base, answers, concludes⟩
  · have resumed : r.resume s.env = r := by simp [Record.resume, pending, other]
    obtain ⟨t, next, due, base, answers, concludes, -⟩ := resumeSlot_event w hl named unlocked state resumed
    rw [setRecord_same holds] at concludes
    exact ⟨t, next, due, base, answers, concludes⟩

end Sys2Proof.Machine
end

section
/-! PROOFS. AMEND SLOT stores what its checks pass (O29). -/

namespace Sys2Proof.Machine

variable {s t : State} {e : Env} {h : Hall} {p : List Byte} {k : Handle} {r : Record} {u : Tx} {raw : Schedule}

/-- The record as AMEND SLOT leaves it, but for its standing (R33). -/
def Record.amended (e : Env) (raw : Schedule) (r : Record) : Record :=
  { r with sched := clampSchedule e raw, adjusted := adjustedBy raw (clampSchedule e raw) }

/-- The hall after AMEND SLOT, before it settles. -/
def amended (s : State) (p : List Byte) (k : Handle) (r : Record) (raw : Schedule) : Hall :=
  let h := s.hall.setRecord k.place (some (restand s.env (r.amended s.env raw)))
  if r.state.started ∧ amends p .duration then amendEnd s.env k r (clampSchedule s.env raw).duration h else h

theorem storeAmended_event (clear : conflictOf s.hall (some k.place) (clampSchedule s.env raw) = none) :
    storeAmended p k r raw s = acceptEvent s true { s with hall := amended s p k r raw } fun t =>
      b1 ((t.hall.recordOf k).elim (restand s.env (r.amended s.env raw)).state Record.state).code ++
      b1 (adjustedBy raw (clampSchedule s.env raw)).bits := by
  unfold storeAmended
  dsimp only
  rw [clear]
  rfl

theorem amendSlotRule_stores (layout : amendLayout p = true) (free : amendBusy s.hall p k r = false)
    (image : amendImage p r.sched = some raw) (fields : raw.fieldsOk = true)
    (configured : configuredFor s.env raw = true) (reach : reachCheck s.env raw = none) :
    amendSlotRule p k r s = storeAmended p k r raw s := by
  rw [amendSlotRule_image layout (ne_true_of_eq_false free), image]
  simp [fields, configured, reach]

theorem takeBack_base {o : OccOutcome} {x : Option Reason} {i : Nat} : (takeBack e u o x i h).base = h.base :=
  base_of_stays (e := e) (takeBack_stays u o x i)

theorem amendEnd_base {d : Nat} : (amendEnd e k r d h).base = h.base := by
  unfold amendEnd
  split
  · rfl
  dsimp only
  (repeat' split) <;> first | rfl | rw [takeBack_base, modRecord_base] | rw [modRecord_base]
  all_goals rfl

/-- The event of AMEND SLOT, its checks passed. -/
theorem amendSlot_event (w : Received s) (hl : p.length = 28)
    (named : namedRecord s.hall (wordAt p 0) = .ok (k, r)) (unlocked : s.env.banks.locked r.sched.bank = false)
    (rule : amendSlotRule p k r s = storeAmended p k r raw s)
    (clear : conflictOf s.hall (some k.place) (clampSchedule s.env raw) = none) :
    ∃ t v : State, exec (.amendSlot p) s = .next t ∧ v.hall = t.hall ∧
      AnswersOk s t
        (b1 ((v.hall.recordOf k).elim (restand s.env (r.amended s.env raw)).state Record.state).code ++
          b1 (adjustedBy raw (clampSchedule s.env raw)).bits) ∧
      OnlyDue s t ∧ t.hall.base = s.hall.base ∧ Concludes s { s with hall := amended s p k r raw } t ∧
      ∀ q, (amended s p k r raw).uninvolved q → t.hall.slots.get q = (amended s p k r raw).slots.get q := by
  obtain ⟨t, u, next, same, answers, due, base, concludes, slots⟩ := concluded_slots (c := .amendSlot p) w rfl
    (beq_iff_eq.2 hl) rfl ((editRule_named named unlocked).trans (rule.trans (storeAmended_event clear)))
  refine ⟨t, u, next, same, answers, due, base.trans ?_, concludes, slots⟩
  unfold amended
  dsimp only
  split
  · exact amendEnd_base
  · rfl

/-! A new E (R34). -/

/-- The hall in which the occurrence in flight has the E that its record now gives. -/
def newEnd (k : Handle) (u : Tx) (o : Occ) (finish : Nat) (h : Hall) : Hall :=
  (h.modCtx u fun c => { c with held := .occurrence { o with finish := finish } }).modRecord k
    fun r => { r with current := r.current.map fun c => { c with finish := finish } }

theorem newEnd_ctx {o : Occ} {i : Nat} : (newEnd k u o i h).ctx =
    h.ctx.set u { h.ctx.get u with held := .occurrence { o with finish := i } } := modRecord_ctx ..

theorem amendEnd_eq {o : Occ} {d : Nat} (held : h.heldBy k = some u) (occ : (h.ctx.get u).held = .occurrence o) :
    amendEnd e k r d h =
      let g := newEnd k u o (o.start + d * 60) h
      if e.now < o.start + d * 60 then g
      else if r.state = .onAir then takeBack e u (g.ctx.get u).completeOr none (o.start + d * 60) g
      else takeBack e u .aborted (some .command) e.now g := by
  unfold amendEnd
  rw [held]
  dsimp only
  rw [Context.occ, occ]
  rfl

theorem newEnd_self {o : Occ} {i : Nat} : (newEnd k u o i h).ctx.get u =
    { h.ctx.get u with held := .occurrence { o with finish := i } } := by
  rw [newEnd_ctx]
  exact Tab.get_set_same ..

theorem newEnd_late {o : Occ} {i : Nat} (occ : (h.ctx.get u).held = .occurrence o) :
    ((newEnd k u o i h).ctx.get u).lateSeconds = (h.ctx.get u).lateSeconds := by
  rw [newEnd_self]
  unfold Context.lateSeconds Context.occ
  rw [occ]
  dsimp only
  cases (h.ctx.get u).onAirAt <;> rfl

/-- An occurrence taken back with its new E. -/
theorem newEnd_unwound {o : Occ} {i : Nat} {d : Decided} {after : Hall} (occ : (h.ctx.get u).held = .occurrence o)
    (w : Unwound (newEnd k u o i h) u { o with finish := i } d after) : Unwound h u { o with finish := i } d after := by
  obtain ⟨⟨request, line, back⟩, others⟩ := w
  refine ⟨⟨request, line, ?_⟩, fun v hv => (others v hv).trans ?_⟩
  · have late := newEnd_late (k := k) (i := i) occ
    have own := newEnd_self (k := k) (h := h) (u := u) (o := o) (i := i)
    dsimp only at back
    rw [late] at back
    rw [own] at back
    exact back
  · rw [newEnd_ctx]
    exact Tab.get_set_ne _ _ hv.symm

/-- What a new E makes of the occurrence in flight. -/
theorem amendEnd_ends {r' : Record} {o : Occ} {d : Nat} (holds : h.Holds k r') (held : h.heldBy k = some u)
    (occ : (h.ctx.get u).held = .occurrence o) :
    let finish := o.start + d * 60
    let after := amendEnd e k r d h
    if e.now < finish then
      after.ctx = h.ctx.set u { h.ctx.get u with held := .occurrence { o with finish := finish } } ∧
      after.slots.get k.place = { gen := k.gen, record := some { r' with
        current := r'.current.map fun x => { x with finish := finish } } }
    else
      (h.ctx.get u).state.working = true → Unwound h u { o with finish := finish }
        (if r.state = .onAir then
          { outcome := if (h.ctx.get u).lateSeconds = 0 then .complete else .late, reason := none, ended := finish }
        else { outcome := .aborted, reason := some .command, ended := e.now }) after := by
  intro finish after
  have eq : after = _ := amendEnd_eq held occ
  have own := newEnd_self (k := k) (h := h) (u := u) (o := o) (i := finish)
  dsimp only at eq
  split
  · next later =>
    rw [eq, if_pos later]
    exact ⟨newEnd_ctx, modRecord_holds (r := r') (by exact holds) _⟩
  · next past =>
    intro working
    have working : ((newEnd k u o finish h).ctx.get u).state.working = true := by rw [own]; exact working
    rw [if_neg past] at eq
    refine newEnd_unwound (k := k) occ ?_
    have taken (o' : OccOutcome) (x : Option Reason) (i : Nat) :
        Unwound (newEnd k u o finish h) u { o with finish := finish } ⟨o', x, i⟩
          (takeBack e u o' x i (newEnd k u o finish h)) := by
      rw [takeBack_working working]
      exact takenDown_unwound (by rw [own])
    rw [eq]
    split
    · rw [← newEnd_late (k := k) (i := finish) occ]
      exact taken ..
    · exact taken ..

/-! The states in which a record may be amended. -/

theorem amendBusy_rest (state : r.state = .dormant ∨ r.state = .waiting ∨ r.state = .suspended)
    (pending : r.suspendPending = false) (quiet : h.uninvolved k.place) : amendBusy h p k r = false := by
  refine eq_false_of_ne_true fun busy => ?_
  rw [amendBusy_iff, pending, keptBy_uninvolved quiet] at busy
  obtain state | state | state := state <;> simp [state] at busy

theorem amendBusy_started (state : r.state = .preparing ∨ r.state = .onAir) (pending : r.suspendPending = false)
    (kept : h.keptBy k = none) (fields : ∀ f : SlotField, amends p f = true → f = .duration ∨ f = .power) :
    amendBusy h p k r = false := by
  refine eq_false_of_ne_true fun busy => ?_
  rw [amendBusy_iff, pending, kept] at busy
  have started : r.state ≠ .retiring ∧ r.state ≠ .ending := by obtain state | state := state <;> rw [state] <;> simp
  obtain state | state | state | state | ⟨-, f, -, named, duration, power⟩ := busy
  · exact started.1 state
  · exact started.2 state
  · cases state
  · exact state rfl
  · exact (fields f named).elim duration power

theorem amended_rest (state : r.state.started = false) :
    amended s p k r raw = s.hall.setRecord k.place (some (restand s.env (r.amended s.env raw))) := by
  unfold amended
  rw [state]
  exact if_neg fun c => by cases c.1

/-- Settles O29. -/
theorem amendSlotReplacesTheFields : Obligations.AmendSlotReplacesTheFields := by
  intro s p k r raw w hl named unlocked layout image fields configured reach clear
  obtain ⟨-, -, holds⟩ := namedRecord_ok named
  change s.hall.Holds k r at holds
  have rule (free : amendBusy s.hall p k r = false) := amendSlotRule_stores layout free image fields configured reach
  refine ⟨fun state pending quiet => ?_, fun state pending kept fields => ?_⟩
  · obtain ⟨t, u, next, same, answers, due, base, -, slots⟩ := amendSlot_event w hl named unlocked
      (rule (amendBusy_rest state pending quiet)) clear
    have rest : r.state.started = false := by obtain state | state | state := state <;> rw [state] <;> rfl
    rw [amended_rest rest] at slots
    have written := (slots _ quiet).trans (setRecord_holds holds)
    refine ⟨t, restand s.env (r.amended s.env raw), next, due, base, written, restand_eq .., fun suspended => ?_, ?_,
      fun q hq free => (slots q free).trans (setRecord_slot_other hq)⟩
    · rw [restand_started _ (by show r.state ≠ _; rw [suspended]; simp) (by show r.state ≠ _; rw [suspended]; simp)]
      exact suspended
    · rw [same, recordOf_of_slot written] at answers
      have adjusted : (restand s.env (r.amended s.env raw)).adjusted = adjustedBy raw (clampSchedule s.env raw) := by
        rw [restand_eq]
        rfl
      rw [adjusted]
      exact answers
  · intro c r1
    obtain ⟨t, u, next, same, answers, due, base, concludes, -⟩ := amendSlot_event w hl named unlocked
      (rule (amendBusy_started state pending kept fields)) clear
    have started : r.state.started = true := by obtain state | state := state <;> rw [state] <;> rfl
    have stands : restand s.env (r.amended s.env raw) = r1 := by
      refine restand_started _ ?_ ?_ <;> show r.state ≠ _ <;> obtain state | state := state <;> rw [state] <;> simp
    have holds1 := setRecord_holds holds (r' := r1)
    refine ⟨t, _, next, due, base, concludes, fun r' hr => ?_, fun no => ?_, fun u o yes held occ => ?_⟩
    · rw [same, hr] at answers
      exact answers
    · unfold amended
      rw [no, stands]
      exact if_neg fun c => by cases c.2
    · have ends := amendEnd_ends (e := s.env) (r := r) (d := c.duration) holds1 (setRecord_heldBy.trans held) occ
      have after : amended s p k r raw = amendEnd s.env k r c.duration (s.hall.setRecord k.place (some r1)) := by
        unfold amended
        rw [yes, started, stands]
        rfl
      rw [after]
      exact ends

end Sys2Proof.Machine
end

section
/-! SUPPORT. Scores and barring (R168, R170, R172), with the transmitter's own context left to the cause; the passing of the
sixteen contexts one by one; and the expiry of a context's timer (R69). -/

namespace Sys2Proof.Machine

variable {s : State} {e : Env} {h : Hall} {t u v : Tx} {m : Timer} {k : Handle} {r : Record}

/-! The sixteen transmitters in turn. -/

/-- What a pass over a list without repetition makes of one of its members: the steps before it and after it are others'. -/
theorem foldl_at {α : Type} {f : Hall → α → Hall} {l : List α} {a : α} {I R : Hall → Prop} (once : l.Nodup) (ha : a ∈ l)
    (start : I h) (before : ∀ g b, b ≠ a → I g → I (f g b)) (own : ∀ g, I g → R (f g a))
    (after : ∀ g b, b ≠ a → R g → R (f g b)) : R (l.foldl f h) := by
  obtain ⟨first, rest, rfl⟩ := List.append_of_mem ha
  obtain ⟨-, tail, apart⟩ := List.nodup_append.1 once
  have others (l : List α) (hl : ∀ b ∈ l, b ≠ a) {P : Hall → Prop} (step : ∀ g b, b ≠ a → P g → P (f g b)) {g : Hall}
      (w : P g) : P (l.foldl f g) := by
    induction l generalizing g with
    | nil => exact w
    | cons b l ih =>
      exact ih (fun b hb => hl b (List.mem_cons_of_mem _ hb)) (step g b (hl b (List.mem_cons_self ..)) w)
  rw [List.foldl_append, List.foldl_cons]
  refine others rest (fun b hb => ?_) after (own _ (others first (fun b hb => ?_) before start))
  · rintro rfl
    exact (List.nodup_cons.1 tail).1 hb
  · exact fun same => apart b hb a (List.mem_cons_self ..) same

/-- A pass that concerns one transmitter only. -/
theorem foldl_only {f : Hall → Tx → Hall} (other : ∀ g v, v ≠ t → f g v = g) : (allFin 16).foldl f h = f h t :=
  foldl_at (I := (· = h)) (R := (· = f h t)) (List.nodup_finRange 16) (List.mem_finRange t) rfl
    (fun g v hv w => (other g v hv).trans w) (fun g w => by rw [w]) fun g v hv w => (other g v hv).trans w

/-! Units. -/

theorem setUnit_txUnit {w : UnitRec} : (h.setUnit (.tx t) w).txUnit = h.txUnit.set t w := rfl

section fields

variable (w : UnitRec) (x : RunResult) (y : HallUnit)

@[simp] theorem setUnit_ctx : (h.setUnit y w).ctx = h.ctx := by cases y <;> rfl
@[simp] theorem setUnit_slots : (h.setUnit y w).slots = h.slots := by cases y <;> rfl
@[simp] theorem setUnit_lastOutcome : (h.setUnit y w).lastOutcome = h.lastOutcome := by cases y <;> rfl
@[simp] theorem setUnit_runs : (h.setUnit y w).runs = h.runs := by cases y <;> rfl
@[simp] theorem endRun_ctx : (endRun t x h).ctx = h.ctx := rfl
@[simp] theorem endRun_slots : (endRun t x h).slots = h.slots := rfl
@[simp] theorem endRun_lastOutcome : (endRun t x h).lastOutcome = h.lastOutcome := rfl

end fields

theorem unit_tx : h.unit (.tx t) = h.txUnit.get t := rfl

/-- A pass of barring or taking out that leaves the work of the transmitter's context to the cause (R172). -/
theorem strikeUnit_tx {w : Reason} : strikeUnit e (.tx t) w (some t) h = dropKept e t .missed w (endRun t (.failed w) h) := by
  unfold strikeUnit
  rw [foldl_only (t := t)]
  · simp [concernsUnit, keptConcerns]
  · intro g v hv
    simp [concernsUnit, keptConcerns, hv.symm]

theorem bar_tx : bar e (.tx t) (some t) h = dropKept e t .missed .barred (endRun t (.failed .barred)
    (raiseNotice .barred (h.setUnit (.tx t) { score := 255, service := .barred, provingMinutes := 0 }))) := strikeUnit_tx

/-- The tables of service records, and all that stands on another transmitter or is no context's. -/
structure Scored (t : Tx) (h g : Hall) : Prop where
  txUnit : ∀ u, u ≠ t → g.txUnit.get u = h.txUnit.get u
  antUnit : g.antUnit = h.antUnit
  gates : g.gates = h.gates
  own : g.ctx.get t = { h.ctx.get t with kept := (g.ctx.get t).kept }
  others : ∀ u, u ≠ t → g.ctx.get u = h.ctx.get u
  lasts : ∀ u, u ≠ t → g.lastOutcome.get u = h.lastOutcome.get u
  ages : g.ages = h.ages
  power : g.power = h.power
  links : g.links = h.links
  xps : g.xps = h.xps

theorem Scored.refl : Scored t h h := ⟨fun _ _ => rfl, rfl, rfl, rfl, fun _ _ => rfl, fun _ _ => rfl, rfl, rfl, rfl, rfl⟩

theorem setUnit_scored {w : UnitRec} : Scored t h (h.setUnit (.tx t) w) :=
  ⟨fun _ hu => Tab.get_set_ne _ _ hu.symm, rfl, rfl, rfl, fun _ _ => rfl, fun _ _ => rfl, rfl, rfl, rfl, rfl⟩

theorem Scored.trans {f g : Hall} (a : Scored t h g) (b : Scored t g f) : Scored t h f where
  txUnit u hu := (b.txUnit u hu).trans (a.txUnit u hu)
  antUnit := b.antUnit.trans a.antUnit
  gates := b.gates.trans a.gates
  own := by rw [b.own, a.own]
  others u hu := (b.others u hu).trans (a.others u hu)
  lasts u hu := (b.lasts u hu).trans (a.lasts u hu)
  ages := b.ages.trans a.ages
  power := b.power.trans a.power
  links := b.links.trans a.links
  xps := b.xps.trans a.xps

theorem dropKept_scored {o : OccOutcome} {w : Reason} : Scored t h (dropKept e t o w h) := by
  have eq := dropKept_eq (e := e) (t := t) (h := h) o w
  refine ⟨fun _ _ => ?_, ?_, ?_, ?_, fun u hu => (dropKept_other hu).1, fun u hu => (dropKept_other hu).2, ?_, ?_, ?_, ?_⟩
  case refine_4 =>
    cases hk : (h.ctx.get t).kept with
    | none => rw [dropKept_none hk]
    | some x => rw [(dropKept_dropped hk).1]
  all_goals rw [eq]

theorem endRun_scored {x : RunResult} : Scored t h (endRun t x h) :=
  ⟨fun _ _ => rfl, rfl, rfl, rfl, fun _ _ => rfl, fun _ _ => rfl, rfl, rfl, rfl, rfl⟩

theorem raiseNotice_scored {n : Notice} : Scored t h (raiseNotice n h) :=
  ⟨fun _ _ => rfl, rfl, rfl, rfl, fun _ _ => rfl, fun _ _ => rfl, rfl, rfl, rfl, rfl⟩

theorem bar_scored : Scored t h (bar e (.tx t) (some t) h) := by
  rw [bar_tx]
  exact setUnit_scored.trans (raiseNotice_scored.trans (endRun_scored.trans dropKept_scored))

/-- The record of a barred unit (R172). -/
def UnitRec.barred : UnitRec := { score := 255, service := .barred, provingMinutes := 0 }

theorem bar_unit : (bar e (.tx t) (some t) h).txUnit.get t = .barred := by
  rw [bar_tx, dropKept_eq]
  exact Tab.get_set_same ..

theorem bar_runs : (bar e (.tx t) (some t) h).runs.get t = (h.runs.get t).ended (.failed .barred) := by
  rw [bar_tx, dropKept_eq]
  exact endRun_self

theorem dropKept_notice {o : OccOutcome} {w : Reason} {n : Notice} (set : h.noticeSet n = true) :
    (dropKept e t o w h).noticeSet n = true := (dropKept_stays t o w ⟨notice_stable n, set⟩).holds

theorem bar_notice : (bar e (.tx t) (some t) h).noticeSet .barred = true := by
  rw [bar_tx]
  exact dropKept_notice (noticeSet_raised ..)

theorem restate_eq (u : HallUnit) : restate u h =
    if (h.unit u).service.latched then h
    else
      let g := h.setUnit u { h.unit u with service := serviceOf (h.unit u).score }
      if (h.unit u).service = .normal ∧ serviceOf (h.unit u).score = .watch then raiseNotice .watch g else g := rfl

theorem restate_scored : Scored t h (restate (.tx t) h) := by
  rw [restate_eq]
  dsimp only
  (repeat' split) <;> first | exact .refl | exact setUnit_scored.trans raiseNotice_scored | exact setUnit_scored

theorem restate_runs {w : HallUnit} : (restate w h).runs = h.runs := by
  rw [restate_eq]
  dsimp only
  cases w <;> (repeat' split) <;> rfl

theorem restate_ctx {w : HallUnit} : (restate w h).ctx = h.ctx := by
  rw [restate_eq]
  dsimp only
  cases w <;> (repeat' split) <;> rfl

theorem restate_unit (free : (h.txUnit.get t).service.latched = false) :
    (restate (.tx t) h).txUnit.get t = { h.txUnit.get t with service := serviceOf (h.txUnit.get t).score } := by
  rw [restate_eq, unit_tx, if_neg (ne_true_of_eq_false free)]
  dsimp only
  split <;> exact Tab.get_set_same ..

/-- What a score added to the transmitter's unit does, by the service it is in (R168, R170, R172). -/
theorem addScore_scored {n : Nat} : Scored t h (addScore e (.tx t) n (some t) h) := by
  unfold addScore
  dsimp only
  split
  · exact .refl
  · exact .refl
  · exact bar_scored
  all_goals
    split
    · exact bar_scored
    · exact setUnit_scored.trans restate_scored

theorem addScore_unit {n : Nat} : (addScore e (.tx t) n (some t) h).txUnit.get t = (h.txUnit.get t).scored n := by
  unfold addScore UnitRec.scored
  dsimp only
  rw [unit_tx]
  cases service : (h.txUnit.get t).service <;> dsimp only
  case proving => exact bar_unit
  all_goals
    split
    · next top =>
      rw [top, bar_unit]
      rfl
    · next top =>
      rw [restate_unit (by rw [setUnit_txUnit, Tab.get_set_same] <;> rfl), setUnit_txUnit, Tab.get_set_same]
      unfold serviceOf
      have : min 255 ((h.txUnit.get t).score + n) < 255 := by omega
      (repeat' split) <;> simp_all

/-- Points that do not bar the unit leave the contexts and the runs. -/
theorem addScore_unbarred {n : Nat} (clear : ((h.txUnit.get t).scored n).service ≠ .barred) :
    (addScore e (.tx t) n (some t) h).ctx = h.ctx ∧ (addScore e (.tx t) n (some t) h).runs = h.runs := by
  unfold UnitRec.scored at clear
  unfold addScore
  dsimp only at clear ⊢
  rw [unit_tx]
  cases service : (h.txUnit.get t).service <;> rw [service] at clear <;> dsimp only at clear ⊢
  case barred => exact ⟨rfl, rfl⟩
  case out => exact ⟨rfl, rfl⟩
  case proving => exact absurd rfl clear
  all_goals
    rw [if_neg (fun top => clear (by rw [top]; rfl))]
    exact ⟨restate_ctx, restate_runs⟩

/-- Points that bar the unit end its run, unless it is barred already. -/
theorem addScore_runs {n : Nat} : (addScore e (.tx t) n (some t) h).runs.get t = h.runs.get t ∨
    (addScore e (.tx t) n (some t) h).runs.get t = (h.runs.get t).ended (.failed .barred) := by
  unfold addScore
  dsimp only
  split
  · exact .inl rfl
  · exact .inl rfl
  · exact .inr bar_runs
  all_goals
    split
    · exact .inr bar_runs
    · exact .inl (by rw [restate_runs]; rfl)

theorem addScore_notice {n : Nat} {x : Notice} (set : h.noticeSet x = true) :
    (addScore e (.tx t) n (some t) h).noticeSet x = true := by
  have bars : (bar e (.tx t) (some t) h).noticeSet x = true := by
    rw [bar_tx]
    exact dropKept_notice (noticeSet_raise _ _ _ set)
  have states (g : Hall) (set : g.noticeSet x = true) : (restate (.tx t) g).noticeSet x = true := by
    rw [restate_eq]
    dsimp only
    (repeat' split) <;> first | exact set | exact noticeSet_raise _ _ _ set
  unfold addScore
  dsimp only
  split
  · exact set
  · exact set
  · exact bars
  all_goals
    split
    · exact bars
    · exact states _ set

end Sys2Proof.Machine
end

section
/-! PROOFS. The timers of the contexts (O39, O40, O41). -/

namespace Sys2Proof.Machine

variable {s : State} {e : Env} {h g : Hall} {t u v : Tx} {m : Timer} {k : Handle} {r : Record} {o : Occ}

/-! An expiry as an event (R69). -/

/-- The hall as an expiry finds it: the timer has stopped. -/
def Hall.stopTimer (t : Tx) (h : Hall) : Hall := h.modCtx t fun c => { c with timer := none }

theorem timerExpiry_eq {kind : TimerKind} {f : Env → Hall → Hall} (timer : (s.hall.ctx.get t).timer = some m)
    (same : m.kind = kind) : timerExpiry t kind f s = conclude s false { s with
      env := passTo m.expiry s.env, hall := f (passTo m.expiry s.env) (s.hall.stopTimer t) } := by
  unfold timerExpiry
  rw [timer]
  exact if_pos same

theorem stopTimer_self : (h.stopTimer t).ctx.get t = { h.ctx.get t with timer := none } := modCtx_self

theorem stopTimer_other (hv : v ≠ t) : (h.stopTimer t).ctx.get v = h.ctx.get v := modCtx_other hv

/-- What the end of an expiry's event leaves of its effect. -/
structure Expired (s : State) (i : Nat) (after : Hall) (t : State) : Prop where
  port : t.port = s.port
  env : t.env = { passTo i s.env with due := t.env.due }
  base : t.hall.base = after.base
  concludes : Concludes s { s with env := passTo i s.env, hall := after } t

theorem expired {i : Nat} {after : Hall} :
    Expired s i after (conclude s false { s with env := passTo i s.env, hall := after }) where
  port := conclude_port ..
  env := conclude_env ..
  base := conclude_base ..
  concludes := ⟨false, rfl, rfl⟩

/-- The expiry of a timer that runs, as a command. -/
theorem timerExpiry_expires {c : Instr} {kind : TimerKind} {f : Env → Hall → Hall} {after : Hall}
    (arm : exec c s = .next (timerExpiry t kind f s)) (timer : (s.hall.ctx.get t).timer = some m) (same : m.kind = kind)
    (effect : f (passTo m.expiry s.env) (s.hall.stopTimer t) = after) :
    ∃ d, exec c s = .next d ∧ Expired s m.expiry after d := by
  rw [timerExpiry_eq timer same, effect] at arm
  exact ⟨_, arm, expired⟩

section expired

variable {i : Nat} {after : Hall} {t : State}

theorem Expired.elapsed (w : Expired s i after t) : t.env.elapsed = max s.env.elapsed i := by
  rw [w.env]
  exact passTo_elapsed ..

theorem Expired.mode (w : Expired s i after t) : t.env.mode = s.env.mode := by rw [w.env]; rfl

theorem Expired.tables (w : Expired s i after t) : t.env.tables = s.env.tables := by rw [w.env]; rfl

theorem Expired.txUnit (w : Expired s i after t) : t.hall.txUnit = after.txUnit := congrArg Base.txUnit w.base

theorem Expired.antUnit (w : Expired s i after t) : t.hall.antUnit = after.antUnit := congrArg Base.antUnit w.base

theorem Expired.ages (w : Expired s i after t) : t.hall.ages = after.ages := congrArg Base.ages w.base

theorem Expired.notice {n : Notice} (w : Expired s i after t) (set : after.noticeSet n = true) :
    t.hall.noticeSet n = true := by
  obtain ⟨force, hall, -⟩ := w.concludes
  rw [hall]
  exact conclude_notice _ _ _ set

theorem Expired.stuck (w : Expired s i after t) : StuckKept after t.hall := fun x => by
  obtain ⟨force, hall, -⟩ := w.concludes
  rw [hall]
  exact conclude_stuck ..

end expired

/-! The tuning timer (O40). -/

theorem modCtx_modCtx {f f' : Context → Context} : (h.modCtx t f).modCtx t f' = h.modCtx t fun c => f' (f c) := by
  unfold Hall.modCtx Tab.modify
  rw [Tab.get_set_same]
  have twice : (h.ctx.set t (f (h.ctx.get t))).set t (f' (f (h.ctx.get t))) = h.ctx.set t (f' (f (h.ctx.get t))) := by
    refine Tab.ext_get fun v => ?_
    rw [Tab.get_set, Tab.get_set]
    split
    · next same => rw [← same, Tab.get_set_same]
    · next other => rw [Tab.get_set_ne _ _ other]
  rw [twice]

theorem modCtx_congr {f f' : Context → Context} (same : f (h.ctx.get t) = f' (h.ctx.get t)) :
    h.modCtx t f = h.modCtx t f' := by
  unfold Hall.modCtx Tab.modify
  rw [same]

theorem tuningExpired_eq {m : Option Timer} (state : (h.ctx.get t).state = .preparing)
    (tune : (h.ctx.get t).tune = .pending) :
    tuningExpired t m e h = tuneFailure e t (h.modCtx t fun c => { c with timer := m }) := if_pos ⟨state, tune⟩

/-- The first attempt fails: the PRESET again, and the timer with its length (R75). -/
theorem tuneFailure_again (occ : (h.ctx.get t).occ = some o) (first : (h.ctx.get t).tuneAttempts < 2) :
    tuneFailure e t h = handPreset t (tunePreset h t o) (h.modCtx t fun c => { c with
      tuneAttempts := 2
      timer := (h.ctx.get t).timer.map fun m => { m with expiry := e.elapsed + m.length } }) := by
  unfold tuneFailure
  dsimp only
  rw [occ]
  exact if_pos first

/-- The second attempt fails: scored, MISSED, TUNE and unwound (R75). -/
theorem tuneFailure_fails (occ : (h.ctx.get t).occ = some o) (second : 2 ≤ (h.ctx.get t).tuneAttempts) :
    tuneFailure e t h = unwind e t (decideOutcome t .missed (some .tune) e.now (addScore e (.tx t) 8 (some t)
      (h.modCtx t fun c => { c with tune := .failed, timer := none }))) := by
  unfold tuneFailure
  dsimp only
  rw [occ]
  exact if_neg (by omega)

/-- An occurrence MISSED, TUNE, whatever timer it had. -/
theorem tuneFailure_unwound (before : g.ctx.get t = { h.ctx.get t with timer := (g.ctx.get t).timer })
    (others : ∀ v, v ≠ t → g.ctx.get v = h.ctx.get v) (held : (h.ctx.get t).held = .occurrence o)
    (second : 2 ≤ (h.ctx.get t).tuneAttempts) :
    Unwound h t o { outcome := .missed, reason := some .tune, ended := e.now } (tuneFailure e t g) := by
  have heldNow : (g.ctx.get t).held = .occurrence o := by rw [before]; exact held
  rw [tuneFailure_fails (o := o) (by rw [Context.occ, heldNow]) (by rw [before]; exact second)]
  have failed : (g.modCtx t fun c => { c with tune := .failed, timer := none }).ctx.get t =
      { h.ctx.get t with tune := .failed, timer := none } := by rw [modCtx_self, before]
  generalize hf : g.modCtx t (fun c => { c with tune := .failed, timer := none }) = f at failed
  have scored := addScore_scored (e := e) (t := t) (h := f) (n := 8)
  have own := scored.own
  rw [failed] at own
  generalize ha : addScore e (.tx t) 8 (some t) f = a at scored own
  have decided := decideOutcome_self (t := t) (h := a) (o := .missed) (r := some .tune) (i := e.now) (x := o)
    (by rw [own]; exact held)
  rw [own] at decided
  refine ⟨unwind_takenBack ?_ ?_ ?_ ?_ ?_, fun v hv => ?_⟩
  · rw [decided]; exact held
  · rw [decided]
  · rw [decided]
  · rw [decided]; rfl
  · rw [decided]; rfl
  · rw [unwind_other hv, decideOutcome_other hv, scored.others v hv, ← hf, modCtx_other hv, others v hv]

theorem unwind_base : (unwind e t h).base = h.base := base_of_stays (e := e) (unwind_stays t)

/-- Settles O40. -/
theorem tuningTimerRunsOut : Obligations.TuningTimerRunsOut := by
  intro s tx m o timer kind state tune held
  have own : (s.hall.stopTimer tx).ctx.get tx = { s.hall.ctx.get tx with timer := none } := stopTimer_self
  let again := s.hall.modCtx tx fun c => { c with timer := some m }
  have before : again.ctx.get tx = { s.hall.ctx.get tx with timer := some m } := modCtx_self
  have occ : (again.ctx.get tx).occ = some o := by
    rw [before]
    show (s.hall.ctx.get tx).occ = _
    rw [Context.occ, held]
  have fails (e : Env) : tuningExpired tx (s.hall.ctx.get tx).timer e (s.hall.stopTimer tx) = tuneFailure e tx again := by
    rw [tuningExpired_eq (by rw [own]; exact state) (by rw [own]; exact tune), Hall.stopTimer, modCtx_modCtx, timer]
  refine ⟨fun first => ?_, fun second => ?_⟩
  · obtain ⟨t, next, w⟩ := timerExpiry_expires (c := .tuningTimerExpiry tx) rfl timer kind ((fails _).trans
      (tuneFailure_again occ (by rw [before]; exact first)))
    have concludes := w.concludes
    rw [modCtx_modCtx, before, Option.map_some, passTo_elapsed] at concludes
    exact ⟨t, next, w.port, concludes⟩
  · obtain ⟨t, next, w⟩ := timerExpiry_expires (c := .tuningTimerExpiry tx) rfl timer kind (fails _)
    have unwound : Unwound s.hall tx o { outcome := .missed, reason := some .tune, ended := s.env.now }
        (tuneFailure (passTo m.expiry s.env) tx again) := by
      rw [← passTo_now _ m.expiry]
      exact tuneFailure_unwound (h := s.hall) (by rw [before]) (fun v hv => modCtx_other hv) held second
    have base := w.base
    rw [tuneFailure_fails occ (by rw [before]; exact second), unwind_base] at base
    refine ⟨t, next, w.port, ?_, fun u hu => ?_, ?_, _, w.concludes, unwound⟩
    · exact (congrArg (fun b => b.txUnit.get tx) base).trans addScore_unit
    · exact (congrArg (fun b => b.txUnit.get u) base).trans (addScore_scored.txUnit u hu)
    · exact (congrArg Base.antUnit base).trans addScore_scored.antUnit

/-! The mute timer (O39). -/

/-- A record that is not RETIRING stands under its handle, with the schedule it had. -/
def Hall.Alive (h : Hall) (k : Handle) (r : Record) : Prop :=
  ∃ r', h.Holds k r' ∧ r'.sched = r.sched ∧ r'.state ≠ .retiring

/-- The finish of another handle leaves the record of this one. -/
theorem finishRecord_other {k' : Handle} {x : LastOutcome} (other : k' ≠ k) (w : h.Holds k r) :
    (finishRecord e t k' x h).Holds k r := by
  by_cases place : k'.place = k.place
  · have none : h.recordOf k' = none := by
      unfold Hall.recordOf
      rw [place, w]
      refine if_neg fun gen => other ?_
      cases k'
      cases k
      simp_all
    have same : h.modRecord k' (writeOutcome e (h.keptStart k') x) = h := by
      unfold Hall.modRecord
      rw [none]
    rw [holds_congr finishRecord_slots, same]
    unfold completeRetirement
    rw [none]
    exact w
  · unfold Hall.Holds
    rw [finishRecord_slot place]
    exact w

theorem finishRecord_alive {k' : Handle} {x : LastOutcome} (w : h.Alive k r) : (finishRecord e t k' x h).Alive k r := by
  obtain ⟨r', holds, sched, state⟩ := w
  by_cases same : k' = k
  · subst same
    obtain ⟨-, sched', state'⟩ := writeOutcome_last (e := e) (kept := h.keptStart k') (o := x) (r := r')
    exact ⟨_, finishRecord_holds holds state, sched'.trans sched, state' state⟩
  · exact ⟨r', finishRecord_other same holds, sched, state⟩

/-- A finish of a record that is not RETIRING shows the outcome as its last. -/
theorem finishRecord_shows {x : LastOutcome} (w : h.Alive k r) :
    ∃ r', (finishRecord e t k x h).Holds k r' ∧ r'.last = some x ∧ r'.sched = r.sched := by
  obtain ⟨r', holds, sched, state⟩ := w
  obtain ⟨last, sched', -⟩ := writeOutcome_last (e := e) (kept := h.keptStart k) (o := x) (r := r')
  exact ⟨_, finishRecord_holds holds state, last, sched'.trans sched⟩

theorem dropKept_alive {x : OccOutcome} {w : Reason} (a : h.Alive k r) : (dropKept e t x w h).Alive k r := by
  cases hk : (h.ctx.get t).kept with
  | none =>
    rw [dropKept_none hk]
    exact a
  | some y =>
    obtain ⟨r', holds, rest⟩ := finishRecord_alive (e := e) (t := t) (k' := y.handle)
      (x := { outcome := x, reason := some w, start := y.start, late := 0, early := 0 }) a
    exact ⟨r', (holds_congr (dropKept_slots hk)).2 holds, rest⟩

/-- A dropped kept occurrence shows in its record. -/
theorem dropKept_shows {x : OccOutcome} {w : Reason} {y : Kept} (hk : (h.ctx.get t).kept = some y)
    (a : h.Alive y.handle r) : ∃ r', (dropKept e t x w h).Holds y.handle r' ∧
      r'.last = some { outcome := x, reason := some w, start := y.start, late := 0, early := 0 } ∧
      r'.sched = r.sched := by
  obtain ⟨r', holds, rest⟩ := finishRecord_shows (e := e) (t := t)
    (x := { outcome := x, reason := some w, start := y.start, late := 0, early := 0 }) a
  exact ⟨r', (holds_congr (dropKept_slots hk)).2 holds, rest⟩

theorem finishIdle_slots : (finishIdle e t h).slots = (finishHeld e t (releasePath e t h)).slots := by rw [finishIdle_eq]

theorem releasePath_slots : (releasePath e t h).slots = h.slots := (KeepsRecords.of_path releasePath_path).slots

/-- A context that finishes shows its outcome in the record. -/
theorem finishIdle_shows {d : Decided} (ho : (h.ctx.get t).occ = some o) (hd : (h.ctx.get t).decided = some d)
    (a : h.Alive o.handle r) : ∃ r', (finishIdle e t h).Holds o.handle r' ∧ r'.last = some
      (outcomeOf d o.start o.finish (h.ctx.get t).lateSeconds (h.ctx.get t).wentOnAir) ∧ r'.sched = r.sched := by
  obtain ⟨r', holds, rest⟩ := a
  obtain ⟨r'', shows⟩ := finishRecord_shows (e := e) (t := t) (x := outcomeOf d o.start o.finish
    (h.ctx.get t).lateSeconds (h.ctx.get t).wentOnAir) ⟨r', (holds_congr releasePath_slots).2 holds, rest⟩
  refine ⟨r'', (holds_congr ?_).2 shows.1, shows.2⟩
  rw [finishIdle_slots, finishHeld_of (releasePath_occ.trans ho) (releasePath_decided.trans hd), releasePath_late,
    releasePath_wentOnAir]

/-- A context that finishes leaves the records of other places. -/
theorem finishIdle_slot_other {q : PlaceNo} (apart : ∀ o, (h.ctx.get t).occ = some o → o.handle.place ≠ q) :
    (finishIdle e t h).slots.get q = h.slots.get q := by
  rw [finishIdle_slots]
  unfold finishHeld
  dsimp only
  split
  · next o d ho _ =>
    rw [finishRecord_slot (apart o (releasePath_occ.symm.trans ho)), releasePath_slots]
  · rw [releasePath_slots]

/-- What a mute failure does to the unit (R178). -/
theorem barMuted_eq : barMuted e t h =
    if (h.txUnit.get t).service = .out ∨ (h.txUnit.get t).service = .barred then raiseNotice .muteFail h
    else bar e (.tx t) (some t) (raiseNotice .muteFail h) := by
  have same : ((raiseNotice .muteFail h).txUnit.get t).service = (h.txUnit.get t).service := rfl
  unfold barMuted
  dsimp only
  rw [same]
  cases (h.txUnit.get t).service <;> simp

theorem barMuted_scored : Scored t h (barMuted e t h) := by
  rw [barMuted_eq]
  split
  · exact raiseNotice_scored
  · exact raiseNotice_scored.trans bar_scored

theorem barMuted_notice : (barMuted e t h).noticeSet .muteFail = true := by
  rw [barMuted_eq]
  split
  · exact noticeSet_raised ..
  · rw [bar_tx]
    exact dropKept_notice (noticeSet_raise _ _ _ (noticeSet_raised ..))

theorem barMuted_unit : if (h.txUnit.get t).service = .out ∨ (h.txUnit.get t).service = .barred
    then (barMuted e t h).txUnit.get t = h.txUnit.get t
    else (barMuted e t h).txUnit.get t = .barred ∧ (barMuted e t h).noticeSet .barred = true := by
  rw [barMuted_eq]
  split
  · rfl
  · exact ⟨bar_unit, bar_notice⟩

/-- The transmitter's context is idle when its unit is barred for a mute failure, and keeps nothing: only a run that is
running still would be touched. -/
theorem barMuted_idle (idle : h.ctx.get t = Context.idle) : (barMuted e t h).ctx.get t = Context.idle ∧
    (barMuted e t h).lastOutcome = h.lastOutcome ∧ (barMuted e t h).slots = h.slots ∧
    ((h.runs.get t).running = false → (barMuted e t h).runs.get t = h.runs.get t) := by
  rw [barMuted_eq]
  split
  · exact ⟨idle, rfl, rfl, fun _ => rfl⟩
  · rw [bar_tx, dropKept_none (by simp [idle, Context.idle])]
    refine ⟨by simp [idle], by simp, by simp, fun stopped => ?_⟩
    rw [endRun_self]
    simp [RunRec.ended, stopped]

/-- The hall in which a context whose mute timer has run out becomes IDLE: its outcome decided in MUTING, its kept
occurrence dropped in ENDING. -/
def muteFailed (e : Env) (t : Tx) (h : Hall) : Hall :=
  if (h.ctx.get t).state = .muting then endRun t (.failed .mute) (decideOutcome t .missed (some .mute) e.now h)
  else dropKept e t .missed .mute h

theorem muteFailure_eq (state : (h.ctx.get t).state = .muting ∨ (h.ctx.get t).state = .ending) :
    muteFailure e t h = barMuted e t (finishIdle e t (muteFailed e t h)) := by
  unfold muteFailure muteFailed
  obtain state | state := state <;> rw [state] <;> rfl

theorem muteFailed_base : (muteFailed e t h).base = h.base := by
  unfold muteFailed
  split
  · rfl
  · exact base_of_stays (e := e) (dropKept_stays t _ _)

theorem finishIdle_base : (finishIdle e t h).base = h.base := base_of_stays (e := e) (finishIdle_stays t)

theorem muteFailed_other (hv : v ≠ t) : (muteFailed e t h).ctx.get v = h.ctx.get v := by
  unfold muteFailed
  split
  · exact decideOutcome_other hv
  · exact (dropKept_other hv).1

theorem muteFailed_alive (a : h.Alive k r) : (muteFailed e t h).Alive k r := by
  unfold muteFailed
  split
  · exact a
  · exact dropKept_alive a

/-- What the context holds and has decided when it becomes IDLE. -/
theorem muteFailed_own {d : Decided} (held : (h.ctx.get t).held = .occurrence o)
    (decided : ((h.ctx.get t).state = .muting ∧ d = { outcome := .missed, reason := some .mute, ended := e.now }) ∨
      ((h.ctx.get t).state = .ending ∧ (h.ctx.get t).decided = some d)) :
    ∃ kept, (muteFailed e t h).ctx.get t = { h.ctx.get t with decided := some d, kept := kept } := by
  unfold muteFailed
  obtain ⟨state, rfl⟩ | ⟨state, decided⟩ := decided
  · rw [if_pos state]
    exact ⟨_, decideOutcome_self held⟩
  · rw [if_neg (by rw [state]; simp), dropKept_scored.own, ← decided]
    exact ⟨_, rfl⟩

/-- What the mute timer's expiry makes of what the context holds. -/
theorem muteFailure_finishes {d : Decided} (state : (h.ctx.get t).state = .muting ∨ (h.ctx.get t).state = .ending)
    (held : (h.ctx.get t).held = .occurrence o)
    (decided : ((h.ctx.get t).state = .muting ∧ d = { outcome := .missed, reason := some .mute, ended := e.now }) ∨
      ((h.ctx.get t).state = .ending ∧ (h.ctx.get t).decided = some d)) :
    let last := outcomeOf d o.start o.finish (h.ctx.get t).lateSeconds (h.ctx.get t).wentOnAir
    (muteFailure e t h).lastOutcome.get t = some { handle := o.handle, last := last } ∧
    ∀ r : Record, h.recordOf o.handle = some r → r.state ≠ .retiring →
      ∃ r', (muteFailure e t h).recordOf o.handle = some r' ∧ r'.last = some last ∧ r'.sched = r.sched := by
  intro last
  obtain ⟨kept, own⟩ := muteFailed_own held decided
  have ho : ((muteFailed e t h).ctx.get t).occ = some o := by
    rw [own]
    show (h.ctx.get t).occ = _
    rw [Context.occ, held]
  have hd : ((muteFailed e t h).ctx.get t).decided = some d := by rw [own]
  have late : ((muteFailed e t h).ctx.get t).lateSeconds = (h.ctx.get t).lateSeconds := by rw [own]; rfl
  have air : ((muteFailed e t h).ctx.get t).wentOnAir = (h.ctx.get t).wentOnAir := by rw [own]; rfl
  obtain ⟨-, lasts, slots, -⟩ := barMuted_idle (e := e) (h := finishIdle e t (muteFailed e t h)) finishIdle_self
  rw [muteFailure_eq state, lasts, finishIdle_last_of ho hd, late, air]
  refine ⟨rfl, fun r hr alive => ?_⟩
  obtain ⟨r', holds, shows⟩ := finishIdle_shows (e := e) ho hd
    (muteFailed_alive (e := e) (t := t) ⟨r, holds_of_recordOf hr, rfl, alive⟩)
  rw [late, air] at shows
  exact ⟨r', ((holds_congr slots).2 holds).record, shows⟩

/-- What it makes of a kept occurrence in ENDING. -/
theorem muteFailure_drops {y : Kept} (state : (h.ctx.get t).state = .ending) (hk : (h.ctx.get t).kept = some y)
    (apart : ∀ o : Occ, (h.ctx.get t).held = .occurrence o → o.handle.place ≠ y.handle.place)
    (hr : h.recordOf y.handle = some r) (alive : r.state ≠ .retiring) :
    ∃ r', (muteFailure e t h).recordOf y.handle = some r' ∧ r'.sched = r.sched ∧ r'.last =
      some { outcome := .missed, reason := some .mute, start := y.start, late := 0, early := 0 } := by
  obtain ⟨-, -, slots, -⟩ := barMuted_idle (e := e) (h := finishIdle e t (muteFailed e t h)) finishIdle_self
  obtain ⟨r', holds, last, sched⟩ := dropKept_shows (e := e) (x := .missed) (w := .mute) hk
    ⟨r, holds_of_recordOf hr, rfl, alive⟩
  rw [muteFailure_eq (.inr state)]
  refine ⟨r', Hall.Holds.record ((holds_congr slots).2 ?_), sched, last⟩
  have drops : muteFailed e t h = dropKept e t .missed .mute h := if_neg (by rw [state]; simp)
  unfold Hall.Holds
  rw [finishIdle_slot_other fun o ho => ?_, drops]
  · exact holds
  · rw [drops, dropKept_scored.own] at ho
    refine apart o ?_
    cases held : (h.ctx.get t).held with
    | occurrence x =>
      rw [Context.occ, held] at ho
      rw [Option.some.inj ho]
    | nothing => rw [Context.occ, held] at ho; cases ho
    | proving row => rw [Context.occ, held] at ho; cases ho

/-- What it leaves of the run of a context in MUTING. -/
theorem muteFailure_run (state : (h.ctx.get t).state = .muting) (running : (h.runs.get t).running = true) :
    (muteFailure e t h).runs.get t = { h.runs.get t with running := false, result := .failed .mute } := by
  obtain ⟨-, -, -, runs⟩ := barMuted_idle (e := e) (h := finishIdle e t (muteFailed e t h)) finishIdle_self
  have ended : (finishIdle e t (muteFailed e t h)).runs.get t =
      { h.runs.get t with running := false, result := .failed .mute } := by
    rw [finishIdle_runs, muteFailed, if_pos state, endRun_self]
    exact if_pos running
  rw [muteFailure_eq (.inl state), runs (by rw [ended]), ended]

/-! What the mute timer's expiry leaves of the units and the contexts. -/

section muteFailure

variable (state : (h.ctx.get t).state = .muting ∨ (h.ctx.get t).state = .ending)
include state

theorem muteFailure_scored : Scored t (finishIdle e t (muteFailed e t h)) (muteFailure e t h) := by
  rw [muteFailure_eq state]
  exact barMuted_scored

theorem muteFailure_notice : (muteFailure e t h).noticeSet .muteFail = true := by
  rw [muteFailure_eq state]
  exact barMuted_notice

theorem muteFailure_self : (muteFailure e t h).ctx.get t = Context.idle := by
  rw [muteFailure_eq state]
  exact (barMuted_idle finishIdle_self).1

theorem muteFailure_other (hv : v ≠ t) : (muteFailure e t h).ctx.get v = h.ctx.get v := by
  rw [(muteFailure_scored state).others v hv, finishIdle_other hv, muteFailed_other hv]

theorem muteFailure_unit : if (h.txUnit.get t).service = .out ∨ (h.txUnit.get t).service = .barred
    then (muteFailure e t h).txUnit.get t = h.txUnit.get t
    else (muteFailure e t h).txUnit.get t = .barred ∧ (muteFailure e t h).noticeSet .barred = true := by
  have units : (finishIdle e t (muteFailed e t h)).txUnit = h.txUnit :=
    congrArg Base.txUnit (finishIdle_base.trans muteFailed_base)
  have unit := barMuted_unit (e := e) (t := t) (h := finishIdle e t (muteFailed e t h))
  rw [units] at unit
  rwa [muteFailure_eq state]

theorem muteFailure_units (hv : v ≠ t) : (muteFailure e t h).txUnit.get v = h.txUnit.get v :=
  ((muteFailure_scored state).txUnit v hv).trans
    (congrArg (fun b => b.txUnit.get v) (finishIdle_base.trans muteFailed_base))

theorem muteFailure_antUnit : (muteFailure e t h).antUnit = h.antUnit :=
  (muteFailure_scored state).antUnit.trans (congrArg Base.antUnit (finishIdle_base.trans muteFailed_base))

theorem muteFailure_ages : (muteFailure e t h).ages = h.ages :=
  (muteFailure_scored state).ages.trans (congrArg Base.ages (finishIdle_base.trans muteFailed_base))

end muteFailure

theorem stopTimer_late : ((h.stopTimer t).ctx.get t).lateSeconds = (h.ctx.get t).lateSeconds := by
  rw [stopTimer_self]
  rfl

theorem stopTimer_wentOnAir : ((h.stopTimer t).ctx.get t).wentOnAir = (h.ctx.get t).wentOnAir := by
  rw [stopTimer_self]
  rfl

/-- Settles O39. -/
theorem muteFailureBars : Obligations.MuteFailureBars := by
  intro s tx m timer kind state c
  obtain ⟨t, next, w⟩ := timerExpiry_expires (c := .muteTimerExpiry tx) (f := fun e h => muteFailure e tx h) rfl timer
    kind rfl
  have own : (s.hall.stopTimer tx).ctx.get tx = { c with timer := none } := stopTimer_self
  have state : ((s.hall.stopTimer tx).ctx.get tx).state = .muting ∨ ((s.hall.stopTimer tx).ctx.get tx).state = .ending := by
    rw [own]
    exact state
  refine ⟨t, next, w.port, w.notice (muteFailure_notice state), w.elapsed, w.mode, w.tables, ?_, fun u hu => ?_,
    w.antUnit.trans (muteFailure_antUnit state), w.ages.trans (muteFailure_ages state), _, w.concludes,
    muteFailure_self state, fun u hu => (muteFailure_other state hu).trans (stopTimer_other hu),
    fun o d held decided => ?_, fun muting running => ?_, fun k r ending hk apart hr alive => ?_⟩
  · have unit := muteFailure_unit (e := passTo m.expiry s.env) state
    rw [w.txUnit]
    split
    · next latched => exact (if_pos latched).mp unit
    · next free =>
      obtain ⟨unit, notice⟩ := (if_neg free).mp unit
      exact ⟨unit, w.notice notice⟩
  · rw [w.txUnit]
    exact muteFailure_units state hu
  · have finishes := muteFailure_finishes (e := passTo m.expiry s.env) (d := d) (o := o) state (by rw [own]; exact held)
      (by rw [own]; exact decided)
    rw [stopTimer_late, stopTimer_wentOnAir] at finishes
    exact finishes
  · exact muteFailure_run (h := s.hall.stopTimer tx) (by rw [own]; exact muting) running
  · exact muteFailure_drops (h := s.hall.stopTimer tx) (by rw [own]; exact ending) (by rw [own]; exact hk)
      (by rw [own]; exact apart) hr alive

end Sys2Proof.Machine
end

section
/-! PROOFS. The ramp timer and the re-strike pause (O41), by the trips of R87 to R90. -/

namespace Sys2Proof.Machine

variable {s : State} {e : Env} {h g : Hall} {t u v : Tx} {m : Timer} {o : Occ} {row : Row} {cause : TripCause}

/-- A context as a trip leaves it before it is scored and decided (R67, R87). -/
def Context.tripped (e : Env) (c : Context) : Context :=
  { c with timer := none, spellBegan := none, state := .restrike
           trips := (c.trips ++ [e.now]).filter fun i => e.now < i + 60 }

/-- The hall in which a trip is scored: the context tripped, its permit dropped, TRIP raised. -/
def trippedHall (e : Env) (t : Tx) (h : Hall) : Hall := raiseNotice .trip (dropPermit e t (h.modCtx t (Context.tripped e)))

theorem trippedHall_self : (trippedHall e t h).ctx.get t = (h.ctx.get t).tripped e := modCtx_self

theorem trippedHall_other (hv : v ≠ t) : (trippedHall e t h).ctx.get v = h.ctx.get v := modCtx_other hv

/-- A trip of cause OTHER scores the transmitter only (R168). -/
theorem takeTrip_other (held : (h.ctx.get t).heldRow = some row) : takeTrip e t .other h =
    decideTrip e t .other row (addScore e (.tx t) 8 (some t) (trippedHall e t h)) := by
  have scored (g : Hall) : scoreTrip e t .other row g = addScore e (.tx t) 8 (some t) (raiseNotice .trip g) := by
    unfold scoreTrip tripPoints
    cases rowAnt row <;> rfl
  unfold takeTrip
  rw [held]
  exact congrArg (decideTrip e t .other row) (scored _)

/-! The decision (R171). -/

theorem unitBarred_iff : unitBarred h t row = true ↔ (h.txUnit.get t).service = .barred ∨ h.rowService row = .barred := by
  simp [unitBarred]

theorem decideTrip_barred (barred : unitBarred h t row = true) :
    decideTrip e t cause row h = cutDecision e t true cause h := if_pos barred

/-- The re-strike pause (R88). -/
theorem decideTrip_few (clear : unitBarred h t row = false)
    (few : (h.ctx.get t).trips.length ≤ restrikeLimit h t row) : decideTrip e t cause row h =
      h.modCtx t fun c => { c with timer := some (timerOf e .pause e.tables.pause) } :=
  (if_neg (ne_true_of_eq_false clear)).trans (if_pos few)

theorem decideTrip_many (clear : unitBarred h t row = false) (other : cause.antennaCause = false)
    (many : restrikeLimit h t row < (h.ctx.get t).trips.length) :
    decideTrip e t cause row h = cutDecision e t false cause h := by
  unfold decideTrip
  dsimp only
  rw [if_neg (ne_true_of_eq_false clear), if_neg (by omega), other]
  split <;> rfl

/-- What a cut decision decides (R90). -/
def Context.cutBy (c : Context) (barred : Bool) (cause : TripCause) (now : Nat) : Decided :=
  { outcome := if c.wentOnAir then .cut else .missed
    reason := some (if barred then .barred else if c.wentOnAir then .trips
      else if cause.antennaCause then .path else .tune)
    ended := now }

/-- The reason with which a cut decision fails a proving run (R177). -/
def cutReason (barred : Bool) : Reason := if barred then .barred else .trips

theorem cutDecision_eq (barred : Bool) : cutDecision e t barred cause h =
    enterEnding e t (decideOutcome t ((h.ctx.get t).cutBy barred cause e.now).outcome
      ((h.ctx.get t).cutBy barred cause e.now).reason e.now (endRun t (.failed (cutReason barred)) h)) := by
  unfold cutDecision Context.cutBy cutReason
  dsimp only
  cases (h.ctx.get t).wentOnAir <;> cases barred <;> rfl

theorem cutDecision_other {barred : Bool} (hv : v ≠ t) : (cutDecision e t barred cause h).ctx.get v = h.ctx.get v := by
  rw [cutDecision_eq, enterEnding_other hv, decideOutcome_other hv, endRun_ctx]

theorem cutDecision_runs {barred : Bool} : (cutDecision e t barred cause h).runs.get t =
    (h.runs.get t).ended (.failed (cutReason barred)) := by
  rw [cutDecision_eq, enterEnding_runs]
  exact endRun_self

theorem cutDecision_dropped {barred : Bool} : ((cutDecision e t barred cause h).gates.get t).Dropped := by
  rw [cutDecision_eq]
  exact enterEnding_dropped

/-- A context that a cut decision takes to ENDING. -/
theorem cutDecision_self {barred : Bool} : ∃ d, (cutDecision e t barred cause h).ctx.get t =
      ({ h.ctx.get t with decided := d }).ended e t ∧
    ∀ o, (h.ctx.get t).held = .occurrence o → d = some ((h.ctx.get t).cutBy barred cause e.now) := by
  rw [cutDecision_eq, enterEnding_self]
  cases held : (h.ctx.get t).held with
  | occurrence o =>
    rw [decideOutcome_self (x := o) (by rw [endRun_ctx]; exact held), endRun_ctx]
    exact ⟨_, rfl, fun _ _ => rfl⟩
  | nothing =>
    rw [decideOutcome_idle (by rw [endRun_ctx, Context.occ, held]), endRun_ctx]
    exact ⟨_, rfl, fun _ h => by cases h⟩
  | proving row =>
    rw [decideOutcome_idle (by rw [endRun_ctx, Context.occ, held]), endRun_ctx]
    exact ⟨_, rfl, fun _ h => by cases h⟩

theorem decideTrip_cases : ∃ f, decideTrip e t .other row h = h.modCtx t f ∨
    ∃ barred, decideTrip e t .other row h = cutDecision e t barred .other h := by
  cases clear : unitBarred h t row
  · by_cases few : (h.ctx.get t).trips.length ≤ restrikeLimit h t row
    · exact ⟨_, .inl (decideTrip_few clear few)⟩
    · exact ⟨id, .inr ⟨_, decideTrip_many clear rfl (by omega)⟩⟩
  · exact ⟨id, .inr ⟨_, decideTrip_barred clear⟩⟩

theorem cutDecision_base {barred : Bool} : (cutDecision e t barred cause h).base = h.base := by
  rw [cutDecision_eq]
  exact base_of_stays (e := e) (h := h) fun w => enterEnding_stays t (decideOutcome_stays _ _ _ _ (endRun_stays _ _ w))

theorem decideTrip_base : (decideTrip e t .other row h).base = h.base := by
  obtain ⟨f, eq | ⟨barred, eq⟩⟩ := decideTrip_cases (e := e) (t := t) (row := row) (h := h)
  · rw [eq]
    rfl
  · rw [eq]
    exact cutDecision_base

/-- The limit and the bar by the services of the two units (R171). -/
theorem rowService_eq (a : Ant → Service) (all : ∀ x, (h.antUnit.get x).service = a x) (v : Service) (hv : v ≠ .normal) :
    h.rowService row = v ↔ ∃ x, rowAnt row = some x ∧ a x = v := by
  unfold Hall.rowService
  cases hr : rowAnt row with
  | none => simp [hv.symm]
  | some x => simp [all]

theorem restrikeLimit_eq : restrikeLimit h t row =
    if ((h.txUnit.get t).service = .reduced ∨ h.rowService row = .reduced) ∨
      ((h.txUnit.get t).service = .proving ∨ h.rowService row = .proving) then 1 else 3 := by
  unfold restrikeLimit
  cases (h.txUnit.get t).service <;> cases h.rowService row <;> rfl

/-! A trip of cause OTHER, and the ramp timer that gives one (R80). -/

/-- The hall in which a trip of cause OTHER is decided. -/
def scoredTrip (e : Env) (t : Tx) (h : Hall) : Hall := addScore e (.tx t) 8 (some t) (trippedHall e t h)

theorem scoredTrip_own : (scoredTrip e t h).ctx.get t =
    { (h.ctx.get t).tripped e with kept := ((scoredTrip e t h).ctx.get t).kept } := by
  rw [scoredTrip, addScore_scored.own, trippedHall_self]

theorem scoredTrip_others (hv : v ≠ t) : (scoredTrip e t h).ctx.get v = h.ctx.get v := by
  rw [scoredTrip, addScore_scored.others v hv, trippedHall_other hv]

theorem scoredTrip_unit : (scoredTrip e t h).txUnit.get t = (h.txUnit.get t).scored 8 := addScore_unit

theorem scoredTrip_units (hv : v ≠ t) : (scoredTrip e t h).txUnit.get v = h.txUnit.get v := addScore_scored.txUnit v hv

theorem scoredTrip_antUnit : (scoredTrip e t h).antUnit = h.antUnit := addScore_scored.antUnit

theorem scoredTrip_dropped : ((scoredTrip e t h).gates.get t).Dropped := by
  rw [scoredTrip, addScore_scored.gates]
  exact dropPermit_dropped

theorem scoredTrip_notice : (scoredTrip e t h).noticeSet .trip = true := addScore_notice (noticeSet_raised ..)

theorem scoredTrip_unbarred (clear : ((h.txUnit.get t).scored 8).service ≠ .barred) :
    (scoredTrip e t h).ctx.get t = (h.ctx.get t).tripped e ∧ (scoredTrip e t h).runs = h.runs := by
  obtain ⟨ctx, runs⟩ := addScore_unbarred (e := e) (t := t) (h := trippedHall e t h) (n := 8) clear
  exact ⟨(congrArg (Tab.get · t) ctx).trans trippedHall_self, runs⟩

theorem scoredTrip_runs : (scoredTrip e t h).runs.get t = h.runs.get t ∨
    (scoredTrip e t h).runs.get t = (h.runs.get t).ended (.failed .barred) := addScore_runs

theorem notice_of_stays {n : Notice} (w : Stays e (fun g => g.noticeSet n = true) h → Stays e (fun g => g.noticeSet n = true) g)
    (set : h.noticeSet n = true) : g.noticeSet n = true := (w ⟨notice_stable n, set⟩).holds

theorem decideTrip_notice {n : Notice} (set : h.noticeSet n = true) :
    (decideTrip e t .other row h).noticeSet n = true := by
  obtain ⟨f, eq | ⟨barred, eq⟩⟩ := decideTrip_cases (e := e) (t := t) (row := row) (h := h)
  · rw [eq]
    exact set
  · rw [eq, cutDecision_eq]
    exact notice_of_stays (e := e) (fun w => enterEnding_stays t (decideOutcome_stays _ _ _ _ (endRun_stays _ _ w))) set

theorem decideTrip_dropped (dropped : (h.gates.get t).Dropped) :
    ((decideTrip e t .other row h).gates.get t).Dropped := by
  obtain ⟨f, eq | ⟨barred, eq⟩⟩ := decideTrip_cases (e := e) (t := t) (row := row) (h := h)
  · rw [eq]
    exact dropped
  · rw [eq]
    exact cutDecision_dropped

theorem decideTrip_others (hv : v ≠ t) (own : ∀ f, (h.modCtx t f).ctx.get v = h.ctx.get v) :
    (decideTrip e t .other row h).ctx.get v = h.ctx.get v := by
  obtain ⟨f, eq | ⟨barred, eq⟩⟩ := decideTrip_cases (e := e) (t := t) (row := row) (h := h)
  · rw [eq, own]
  · rw [eq, cutDecision_other hv]

/-- The services that the decision on a trip of cause OTHER reads, by the unit the trip leaves. -/
theorem scoredTrip_either {x : Service} (hx : x ≠ .normal) :
    (((scoredTrip e t h).txUnit.get t).service = x ∨ (scoredTrip e t h).rowService row = x) ↔
      (((h.txUnit.get t).scored 8).service = x ∨ ∃ a : Ant, rowAnt row = some a ∧ (h.antUnit.get a).service = x) := by
  rw [scoredTrip_unit, rowService_eq (fun a => (h.antUnit.get a).service) (fun a => by rw [scoredTrip_antUnit]) x hx]

/-- The re-strike pause (R88): few trips, and no unit barred. -/
theorem trip_restrikes (clear : unitBarred (scoredTrip e t h) t row = false)
    (unit : ((h.txUnit.get t).scored 8).service ≠ .barred)
    (few : ((h.ctx.get t).tripped e).trips.length ≤ restrikeLimit (scoredTrip e t h) t row) :
    (decideTrip e t .other row (scoredTrip e t h)).ctx.get t =
      { (h.ctx.get t).tripped e with timer := some (timerOf e .pause e.tables.pause) } := by
  obtain ⟨own, -⟩ := scoredTrip_unbarred (e := e) unit
  rw [decideTrip_few clear (by rw [own]; exact few), modCtx_self, own]

/-- The end of a trip that is not re-struck (R90). -/
theorem trip_cuts (barred : Bool) (decision : decideTrip e t .other row (scoredTrip e t h) =
      cutDecision e t barred .other (scoredTrip e t h)) :
    let after := decideTrip e t .other row (scoredTrip e t h)
    (after.ctx.get t).state = .ending ∧ (after.ctx.get t).held = (h.ctx.get t).held ∧
    (after.ctx.get t).endingBegan = some e.now ∧ (after.ctx.get t).timer = some (muteTimer e t) ∧
    ∀ o : Occ, (h.ctx.get t).held = .occurrence o →
      (after.ctx.get t).decided = some ((h.ctx.get t).cutBy barred .other e.now) := by
  have own := scoredTrip_own (e := e) (t := t) (h := h)
  obtain ⟨d, self, decided⟩ := cutDecision_self (e := e) (t := t) (h := scoredTrip e t h) (cause := .other) (barred := barred)
  dsimp only
  rw [decision, self]
  rw [own] at decided ⊢
  exact ⟨rfl, rfl, rfl, rfl, decided⟩

theorem trip_runs {barred : Bool} (running : (h.runs.get t).running = true)
    (first : barred = false → ((h.txUnit.get t).scored 8).service ≠ .barred) :
    (cutDecision e t barred cause (scoredTrip e t h)).runs.get t =
      { h.runs.get t with running := false, result := .failed (cutReason barred) } := by
  rw [cutDecision_runs]
  have ended : (h.runs.get t).ended (.failed (cutReason barred)) =
      { h.runs.get t with running := false, result := .failed (cutReason barred) } := if_pos running
  cases barred with
  | false => rw [(scoredTrip_unbarred (first rfl)).2, ended]
  | true =>
    obtain same | struck := scoredTrip_runs (e := e) (t := t) (h := h)
    · rw [same, ended]
    · rw [struck]
      have struck : (h.runs.get t).ended (.failed .barred) =
          { h.runs.get t with running := false, result := .failed .barred } := if_pos running
      rw [struck]
      rfl

theorem scoredTrip_stuck : StuckKept h (decideTrip e t .other row (scoredTrip e t h)) := fun x => by
  have xps : (scoredTrip e t h).xps = h.xps := addScore_scored.xps
  have same : ((scoredTrip e t h).xp x).stuck = (h.xp x).stuck := by
    unfold Hall.xp
    rw [xps]
  have w : Stays e (fun g => (g.xp x).stuck = (h.xp x).stuck) (scoredTrip e t h) := ⟨stuck_stable x _, same⟩
  exact (decideTrip_stays t .other row w).holds

theorem le_restrikeLimit {n : Nat} :
    let weak := ((h.txUnit.get t).service = .reduced ∨ h.rowService row = .reduced) ∨
      ((h.txUnit.get t).service = .proving ∨ h.rowService row = .proving)
    n ≤ restrikeLimit h t row ↔ (weak ∧ n ≤ 1) ∨ (¬weak ∧ n ≤ 3) := by
  intro weak
  rw [restrikeLimit_eq]
  by_cases hw : weak
  · rw [if_pos hw]
    simp [hw]
  · rw [if_neg hw]
    simp [hw]

theorem muteTimer_passed {i : Nat} {e : Env} : muteTimer (passTo i e) t =
    { kind := .mute, expiry := max e.elapsed i + (e.muteTime t + 10) * 1000, length := (e.muteTime t + 10) * 1000 } := by
  rw [muteTimer, timerOf, passTo_elapsed]
  rfl

theorem timerOf_passed {i : Nat} {e : Env} {k : TimerKind} {n : Nat} : timerOf (passTo i e) k n =
    { kind := k, expiry := max e.elapsed i + n * 1000, length := n * 1000 } := by
  rw [timerOf, passTo_elapsed]

/-- The ramp timer runs out (R80). -/
theorem ramp_trips (timer : (s.hall.ctx.get t).timer = some m) (kind : m.kind = .ramp)
    (state : (s.hall.ctx.get t).state = .ramping) (held : (s.hall.ctx.get t).heldRow = some row) :
    ∃ d, exec (.rampTimerExpiry t) s = .next d ∧ Expired s m.expiry
      (decideTrip (passTo m.expiry s.env) t .other row (scoredTrip (passTo m.expiry s.env) t (s.hall.stopTimer t))) d := by
  have own : (s.hall.stopTimer t).ctx.get t = { s.hall.ctx.get t with timer := none } := stopTimer_self
  exact timerExpiry_expires rfl timer kind
    ((if_pos (by rw [own]; exact state)).trans (takeTrip_other (by rw [own]; exact held)))

/-- The re-strike pause is over (R88). -/
theorem pause_ramps (timer : (s.hall.ctx.get t).timer = some m) (kind : m.kind = .pause)
    (state : (s.hall.ctx.get t).state = .restrike) :
    ∃ d, exec (.pauseTimerExpiry t) s = .next d ∧ Expired s m.expiry ((s.hall.modCtx t fun c => { c with
      state := .ramping, timer := some (timerOf (passTo m.expiry s.env) .ramp (s.env.ramp t + 15)) }).modGate t
        fun g => { g with request := true }) d := by
  have own : (s.hall.stopTimer t).ctx.get t = { s.hall.ctx.get t with timer := none } := stopTimer_self
  refine timerExpiry_expires rfl timer kind ((if_pos (by rw [own]; exact state)).trans ?_)
  unfold enterRamping requestPermit Hall.stopTimer
  rw [modCtx_modCtx]
  rfl

theorem cutBy_barred {c : Context} {i : Nat} : c.cutBy true cause i =
    { outcome := if c.wentOnAir then .cut else .missed, reason := some (if c.wentOnAir then .barred else .barred)
      ended := i } := by
  unfold Context.cutBy
  cases c.wentOnAir <;> rfl

theorem cutBy_other {c : Context} {i : Nat} : c.cutBy false .other i =
    { outcome := if c.wentOnAir then .cut else .missed, reason := some (if c.wentOnAir then .trips else .tune)
      ended := i } := by
  unfold Context.cutBy
  cases c.wentOnAir <;> rfl

/-- Settles O41. -/
theorem rampAndPauseTimersRunOut : Obligations.RampAndPauseTimersRunOut := by
  intro s tx m timer
  refine ⟨fun row kind state held => ?_, fun kind state => ?_⟩
  · intro c unit either trips weak few
    obtain ⟨t, next, w⟩ := ramp_trips timer kind state held
    have own : (s.hall.stopTimer tx).ctx.get tx = { c with timer := none } := stopTimer_self
    have others (u : Tx) (hu : u ≠ tx) : (s.hall.stopTimer tx).ctx.get u = s.hall.ctx.get u := stopTimer_other hu
    have tripped : ((s.hall.stopTimer tx).ctx.get tx).tripped (passTo m.expiry s.env) =
        { c with timer := none, spellBegan := none, state := .restrike, trips := trips } := by rw [own]; rfl
    have services {x : Service} (hx : x ≠ .normal) := scoredTrip_either (e := passTo m.expiry s.env) (t := tx)
      (h := s.hall.stopTimer tx) (row := row) hx
    have base := w.base.trans decideTrip_base
    have barred := unitBarred_iff.trans (services (x := .barred) (by simp))
    have limit := le_restrikeLimit (h := scoredTrip (passTo m.expiry s.env) tx (s.hall.stopTimer tx)) (t := tx) (row := row)
      (n := trips.length)
    dsimp only at limit
    rw [services (x := .reduced) (by simp), services (x := .proving) (by simp)] at limit
    refine ⟨t, next, w.port, w.notice (decideTrip_notice scoredTrip_notice), ?_, fun u hu => ?_, ?_, w.elapsed, w.tables,
      ?_, fun x => (w.stuck x).trans (scoredTrip_stuck x), _, w.concludes, (decideTrip_dropped scoredTrip_dropped).1,
      (decideTrip_dropped scoredTrip_dropped).2, fun u hu => ?_, fun clear few' => ?_, fun cut => ?_⟩
    · exact (congrArg (fun b => b.txUnit.get tx) base).trans scoredTrip_unit
    · exact (congrArg (fun b => b.txUnit.get u) base).trans (scoredTrip_units hu)
    · exact (congrArg Base.antUnit base).trans scoredTrip_antUnit
    · exact (congrArg Base.ages base).trans addScore_scored.ages
    · rw [decideTrip_others hu fun f => modCtx_other hu, scoredTrip_others hu, others u hu]
    · rw [trip_restrikes (eq_false_of_ne_true fun b => clear (barred.1 b)) (fun b => clear (.inl b))
        (by rw [tripped]; exact limit.2 few'), tripped, timerOf_passed]
      rfl
    · intro ms cuts ends
      by_cases bars : either .barred
      · have decision := decideTrip_barred (e := passTo m.expiry s.env) (cause := .other) (barred.2 bars)
        obtain ⟨state, held', began, timer', decided⟩ := trip_cuts true decision
        rw [own, cutBy_barred] at decided
        rw [own] at held'
        rw [muteTimer_passed] at timer'
        refine ⟨state, held', began, timer', fun _ => ⟨decided, fun running => ?_⟩, fun clear => absurd bars clear⟩
        rw [decision, trip_runs (h := s.hall.stopTimer tx) running (fun no => by cases no)]
        rfl
      · have clear := eq_false_of_ne_true fun b => bars (barred.1 b)
        have many : ¬few := cut.resolve_left bars
        have decision := decideTrip_many (e := passTo m.expiry s.env) (cause := .other) clear rfl (by
          rw [scoredTrip_own, tripped]
          exact Nat.lt_of_not_le fun le => many (limit.1 le))
        obtain ⟨state, held', began, timer', decided⟩ := trip_cuts false decision
        rw [own, cutBy_other] at decided
        rw [own] at held'
        rw [muteTimer_passed] at timer'
        refine ⟨state, held', began, timer', fun b => absurd b bars, fun _ => ⟨decided, fun running => ?_⟩⟩
        rw [decision, trip_runs (h := s.hall.stopTimer tx) running fun _ b => bars (.inl b)]
        rfl
  · obtain ⟨t, next, w⟩ := pause_ramps timer kind state
    have concludes := w.concludes
    rw [timerOf_passed] at concludes
    exact ⟨t, next, w.port, w.base, concludes⟩

end Sys2Proof.Machine
end

section
/-! SUPPORT. What a cause that stops occurrences before their time leaves of each context, when it passes the sixteen in
turn (R11, R12, R92, R93). -/

namespace Sys2Proof.Machine

variable {s : State} {e : Env} {h g f : Hall} {t u v : Tx} {k : Handle} {r : Record} {o : Occ} {row : Row}

/-- What stands of a transmitter is as it was: its context, last outcome, run and gate. -/
structure Apart (v : Tx) (h g : Hall) : Prop where
  ctx : g.ctx.get v = h.ctx.get v
  last : g.lastOutcome.get v = h.lastOutcome.get v
  runs : g.runs.get v = h.runs.get v
  gates : g.gates.get v = h.gates.get v

theorem Apart.refl : Apart v h h := ⟨rfl, rfl, rfl, rfl⟩

theorem Apart.symm (a : Apart v h g) : Apart v g h := ⟨a.ctx.symm, a.last.symm, a.runs.symm, a.gates.symm⟩

theorem Apart.trans (a : Apart v h g) (b : Apart v g f) : Apart v h f :=
  ⟨b.ctx.trans a.ctx, b.last.trans a.last, b.runs.trans a.runs, b.gates.trans a.gates⟩

theorem Apart.ite {c : Prop} [Decidable c] (a : Apart v h g) (b : Apart v h f) : Apart v h (if c then g else f) := by
  split <;> assumption

theorem endRun_apart {x : RunResult} (hv : v ≠ t) : Apart v h (endRun t x h) := ⟨rfl, rfl, endRun_other hv, rfl⟩

theorem decideOutcome_apart {x : OccOutcome} {w : Option Reason} {i : Nat} (hv : v ≠ t) :
    Apart v h (decideOutcome t x w i h) := ⟨decideOutcome_other hv, rfl, rfl, rfl⟩

theorem unwind_apart (hv : v ≠ t) : Apart v h (unwind e t h) :=
  ⟨unwind_other hv, unwind_last_other hv, by rw [unwind_runs], unwind_gate_other hv⟩

theorem takenDown_apart {d : Decided} {x : RunResult} (hv : v ≠ t) : Apart v h (takenDown e t d x h) :=
  (decideOutcome_apart hv).trans ((endRun_apart hv).trans (unwind_apart hv))

theorem takeBack_apart {x : OccOutcome} {w : Option Reason} {i : Nat} (hv : v ≠ t) : Apart v h (takeBack e t x w i h) := by
  cases working : (h.ctx.get t).state.working
  · rw [takeBack_resting working]
    exact .refl
  · rw [takeBack_working working]
    exact takenDown_apart hv

theorem cut_apart {w : Reason} (hv : v ≠ t) : Apart v h (cut e t w h) := by
  cases working : (h.ctx.get t).state.working
  · rw [cut_resting working]
    exact .refl
  · rw [cut_working working]
    exact takenDown_apart hv

theorem dropKept_apart {x : OccOutcome} {w : Reason} (hv : v ≠ t) : Apart v h (dropKept e t x w h) := by
  obtain ⟨ctx, last⟩ := dropKept_other (e := e) (h := h) (o := x) (r := w) hv
  have eq := dropKept_eq (e := e) (t := t) (h := h) x w
  exact ⟨ctx, last, by rw [eq], by rw [eq]⟩

theorem enterEnding_apart (hv : v ≠ t) : Apart v h (enterEnding e t h) :=
  ⟨enterEnding_other hv, by rw [enterEnding_last], by rw [enterEnding_runs], enterEnding_gate_other hv⟩

theorem finishIdle_apart (hv : v ≠ t) : Apart v h (finishIdle e t h) :=
  ⟨finishIdle_other hv, finishIdle_last_other hv, by rw [finishIdle_runs], by rw [finishIdle_gates]⟩

theorem dropPermit_apart (hv : v ≠ t) : Apart v h (dropPermit e t h) := ⟨rfl, rfl, rfl, dropPermit_other hv⟩

theorem setUnit_apart {y : HallUnit} {w : UnitRec} : Apart v h (h.setUnit y w) := by cases y <;> exact ⟨rfl, rfl, rfl, rfl⟩

/-! `Stopped`, by what stands of the transmitter before and after. -/

section stopped

variable {occ : Occ → Option Decided} {run : Option RunResult} {kept : Kept → Option (OccOutcome × Reason)}

theorem TakenBack.apart {d : Decided} (a : Apart v h g) (w : TakenBack f v o d h) : TakenBack f v o d g := by
  obtain ⟨request, line, back⟩ := w
  unfold TakenBack
  rw [a.gates, a.ctx, a.last]
  exact ⟨request, line, back⟩

theorem RunTakenBack.apart {x : RunResult} (a : Apart v h g) (w : RunTakenBack f v row x h) : RunTakenBack f v row x g := by
  obtain ⟨request, line, back⟩ := w
  unfold RunTakenBack
  rw [a.gates, a.ctx, a.last, a.runs]
  exact ⟨request, line, back⟩

theorem KeptDropped.apart {x : Kept} {y : OccOutcome} {w : Reason} (a : Apart v h g) (z : KeptDropped f v x y w h) :
    KeptDropped f v x y w g := by
  obtain ⟨ctx, last⟩ := z
  exact ⟨a.ctx.trans ctx, a.last.trans last⟩

/-- What stands of a context is as it was. -/
def AsItWas (v : Tx) (h g : Hall) : Prop := g.ctx.get v = h.ctx.get v ∧ g.lastOutcome.get v = h.lastOutcome.get v

/-- What becomes of the occurrence that a working context holds. -/
def OccStopped (h : Hall) (v : Tx) (o : Occ) (d : Option Decided) (g : Hall) : Prop :=
  match d with
  | some d => TakenBack h v o d g
  | none => AsItWas v h g

/-- What becomes of the proving run of a working context. -/
def RunStopped (h : Hall) (v : Tx) (row : Row) (x : Option RunResult) (g : Hall) : Prop :=
  match x with
  | some x => RunTakenBack h v row x g
  | none => AsItWas v h g

/-- What becomes of the kept occurrence of a context that does not work. -/
def KeptStopped (h : Hall) (v : Tx) (k : Kept) (x : Option (OccOutcome × Reason)) (g : Hall) : Prop :=
  match x with
  | some (o, r) => KeptDropped h v k o r g
  | none => AsItWas v h g

/-- `Stopped`, case by case. -/
theorem stopped_iff : Stopped h v occ run kept g ↔
    ((h.ctx.get v).state.working = true → (h.ctx.get v).kept = none →
      (∀ o, (h.ctx.get v).held = .occurrence o → OccStopped h v o (occ o) g) ∧
      ∀ row, (h.ctx.get v).held = .proving row → RunStopped h v row run g) ∧
    ((h.ctx.get v).state.working = false →
      ((h.ctx.get v).kept = none → AsItWas v h g) ∧
      ∀ k, (h.ctx.get v).kept = some k → KeptStopped h v k (kept k) g) := by
  unfold Stopped OccStopped RunStopped KeptStopped AsItWas
  dsimp only
  cases (h.ctx.get v).state.working <;> cases (h.ctx.get v).held <;> cases (h.ctx.get v).kept <;>
    simp only [reduceCtorEq, Held.occurrence.injEq, Held.proving.injEq, Option.some.injEq, forall_eq', false_imp_iff,
      imp_self, implies_true, and_true, true_and, forall_const] <;> rfl

theorem AsItWas.apart (a : Apart v g f) (w : AsItWas v h g) : AsItWas v h f := ⟨a.ctx.trans w.1, a.last.trans w.2⟩

theorem Stopped.apart (a : Apart v g f) (w : Stopped h v occ run kept g) : Stopped h v occ run kept f := by
  rw [stopped_iff] at *
  obtain ⟨working, resting⟩ := w
  refine ⟨fun yes none => ⟨fun o held => ?_, fun row held => ?_⟩, fun no => ⟨fun none => ?_, fun k hk => ?_⟩⟩
  · have w := (working yes none).1 o held
    unfold OccStopped at *
    split
    · next d hd => rw [hd] at w; exact w.apart a
    · next hd => rw [hd] at w; exact w.apart a
  · have w := (working yes none).2 row held
    unfold RunStopped at *
    split
    · exact RunTakenBack.apart a w
    · exact AsItWas.apart a w
  · exact ((resting no).1 none).apart a
  · have w := (resting no).2 k hk
    unfold KeptStopped at *
    split
    · next d hd => rw [hd] at w; exact w.apart a
    · next hd => rw [hd] at w; exact w.apart a

/-- What stands of the transmitter before is all that `Stopped` reads of the hall before. -/
theorem Stopped.before (a : Apart v h f) (w : Stopped f v occ run kept g) : Stopped h v occ run kept g := by
  unfold Stopped TakenBack RunTakenBack KeptDropped at *
  rw [a.ctx, a.last, a.runs] at w
  exact w

end stopped

/-! What a transmitter keeps when its occurrence is taken down. -/

theorem takenDown_kept {d : Decided} {x : RunResult} (empty : (h.ctx.get v).kept = none) :
    ((takenDown e v d x h).ctx.get v).kept = none := by
  have own : ((endRun v x (decideOutcome v d.outcome d.reason d.ended h)).ctx.get v).kept = none := by
    rw [endRun_ctx, decideOutcome_keepsRecords.kept v, empty]
  unfold takenDown
  cases rf : ((endRun v x (decideOutcome v d.outcome d.reason d.ended h)).ctx.get v).state.rfMayBeOn
  · rw [unwind_idle rf]
    rfl
  · obtain ⟨b, after⟩ := unwind_ending (e := e) rf
    rw [after]
    exact own

theorem cut_kept {w : Reason} (empty : (h.ctx.get v).kept = none) : ((cut e v w h).ctx.get v).kept = none := by
  cases working : (h.ctx.get v).state.working
  · rw [cut_resting working]
    exact empty
  · rw [cut_working working]
    exact takenDown_kept empty

theorem takeBack_kept {x : OccOutcome} {w : Option Reason} {i : Nat} (empty : (h.ctx.get v).kept = none) :
    ((takeBack e v x w i h).ctx.get v).kept = none := by
  cases working : (h.ctx.get v).state.working
  · rw [takeBack_resting working]
    exact empty
  · rw [takeBack_working working]
    exact takenDown_kept empty

theorem ended_ended {x : RunRec} {y : RunResult} : (x.ended y).ended y = x.ended y := by
  unfold RunRec.ended
  cases running : x.running <;> simp [running]

/-! A unit struck (R172, R174). -/

section strike

variable {w : HallUnit} {why : Reason}

/-- What a struck unit does to one transmitter's context (R172). -/
def struck (e : Env) (w : HallUnit) (why : Reason) (h : Hall) (t : Tx) : Hall :=
  let h := if concernsUnit h w t then cut e t why h else h
  let h := if w = .tx t then endRun t (.failed why) h else h
  if keptConcerns h w t then dropKept e t .missed why h else h

theorem strikeUnit_eq : strikeUnit e w why none h = (allFin 16).foldl (struck e w why) h := by
  unfold strikeUnit struck
  simp

theorem struck_apart (hv : v ≠ t) : Apart v h (struck e w why h t) := by
  have first : Apart v h (if concernsUnit h w t then cut e t why h else h) := .ite (cut_apart hv) .refl
  have second {g : Hall} : Apart v g (if w = .tx t then endRun t (.failed why) g else g) := .ite (endRun_apart hv) .refl
  have third {g : Hall} : Apart v g (if keptConcerns g w t then dropKept e t .missed why g else g) :=
    .ite (dropKept_apart hv) .refl
  exact first.trans (second.trans third)

/-- An occurrence on a row is one that the unit concerns. -/
def concernsRow (w : HallUnit) (v : Tx) (row : Row) : Bool :=
  match w with
  | .tx t => t = v
  | .ant a => row = antRow a

theorem concernsUnit_held (held : (h.ctx.get v).held = .occurrence o) :
    concernsUnit h w v = concernsRow w v o.row := by
  unfold concernsUnit concernsRow Context.occ
  cases w
  · rfl
  · rw [held]
    rfl

theorem concernsUnit_idle (occ : (h.ctx.get v).occ = none) : concernsUnit h w v = decide (w = .tx v) := by
  unfold concernsUnit
  cases w
  · simp [beq_eq_decide]
  · simp [occ]

theorem keptConcerns_kept {k : Kept} (hk : (h.ctx.get v).kept = some k) :
    keptConcerns h w v = concernsRow w v k.row := by
  unfold keptConcerns concernsRow
  cases w
  · rfl
  · rw [hk]
    rfl

/-- A context that keeps nothing is struck by the cut and the end of its run. -/
theorem struck_noneKept (empty : (h.ctx.get v).kept = none) : struck e w why h v =
    if w = .tx v then endRun v (.failed why) (if concernsUnit h w v then cut e v why h else h)
    else if concernsUnit h w v then cut e v why h else h := by
  have after : ((if w = .tx v then endRun v (.failed why) (if concernsUnit h w v then cut e v why h else h)
      else if concernsUnit h w v then cut e v why h else h).ctx.get v).kept = none := by
    have cuts : ((if concernsUnit h w v then cut e v why h else h).ctx.get v).kept = none := by
      split
      · exact cut_kept empty
      · exact empty
    split <;> exact cuts
  unfold struck
  dsimp only
  rw [dropKept_none after, ite_self]

/-- What is left of a struck transmitter. -/
theorem struck_stopped : Stopped h v
    (fun o => if concernsRow w v o.row then some (cutDecided why e.now (h.ctx.get v).wentOnAir) else none)
    (if w = .tx v then some (.failed why) else none)
    (fun k => if concernsRow w v k.row then some (.missed, why) else none) (struck e w why h v) := by
  rw [stopped_iff]
  refine ⟨fun working empty => ⟨fun o held => ?_, fun row held => ?_⟩, fun resting => ⟨fun empty => ?_, fun k hk => ?_⟩⟩
  · rw [struck_noneKept empty, concernsUnit_held held]
    split
    · have taken := takenDown_takenBack (e := e) (d := cutDecided why e.now (h.ctx.get v).wentOnAir) (r := .failed why) held
      rw [cut_working working]
      split
      · exact taken
      · exact taken
    · next other =>
      rw [if_neg]
      · exact ⟨rfl, rfl⟩
      · rintro rfl
        exact other (by simp [concernsRow])
  · rw [struck_noneKept empty, concernsUnit_idle (by rw [Context.occ, held])]
    split
    · next own =>
      rw [if_pos (decide_eq_true own), cut_working working]
      obtain ⟨request, line, last, runs, rest⟩ := takenDown_runTakenBack (e := e)
        (d := cutDecided why e.now (h.ctx.get v).wentOnAir) (r := .failed why) held
      exact ⟨request, line, last, by rw [endRun_self, runs, ended_ended], rest⟩
    · next other =>
      rw [if_neg (by simp [other])]
      exact ⟨rfl, rfl⟩
  · rw [struck_noneKept empty, cut_resting resting, ite_self]
    split <;> exact ⟨rfl, rfl⟩
  · have ends : ∃ g, g = (if w = .tx v then endRun v (.failed why) h else h) ∧ g.ctx = h.ctx ∧
        g.lastOutcome = h.lastOutcome := ⟨_, rfl, by split <;> rfl, by split <;> rfl⟩
    obtain ⟨g, hg, ctx, lasts⟩ := ends
    have hk' : (g.ctx.get v).kept = some k := by rw [ctx]; exact hk
    unfold struck
    dsimp only
    rw [cut_resting resting, ite_self, ← hg, keptConcerns_kept hk']
    split
    · have dropped := dropKept_dropped (e := e) (o := .missed) (r := why) hk'
      unfold KeptDropped at dropped
      rw [ctx] at dropped
      exact dropped
    · exact ⟨by rw [ctx], by rw [lasts]⟩

theorem struck_runs : (w = .tx v → (struck e w why h v).runs.get v = (h.runs.get v).ended (.failed why)) ∧
    (w ≠ .tx v → (h.ctx.get v).occ = none → (struck e w why h v).runs.get v = h.runs.get v) := by
  have drops (g : Hall) : (if keptConcerns g w v then dropKept e v .missed why g else g).runs = g.runs := by
    split
    · rw [dropKept_eq]
    · rfl
  unfold struck
  dsimp only
  rw [drops]
  refine ⟨fun own => ?_, fun other idle => ?_⟩
  · rw [if_pos own, endRun_self]
    split
    · cases working : (h.ctx.get v).state.working
      · rw [cut_resting working]
      · rw [cut_working working, takenDown_runs_self, ended_ended]
    · rfl
  · rw [if_neg other, concernsUnit_idle idle, if_neg (by simp [other])]

/-- What is left of a transmitter when a unit has been struck (R172, R174). -/
structure StruckLeaves (w : HallUnit) (why : Reason) (now : Nat) (v : Tx) (h g : Hall) : Prop where
  stopped : Stopped h v
    (fun o => if concernsRow w v o.row then some (cutDecided why now (h.ctx.get v).wentOnAir) else none)
    (if w = .tx v then some (.failed why) else none)
    (fun k => if concernsRow w v k.row then some (.missed, why) else none) g
  own : w = .tx v → g.runs.get v = (h.runs.get v).ended (.failed why)
  other : w ≠ .tx v → (h.ctx.get v).occ = none → g.runs.get v = h.runs.get v

theorem strikeUnit_leaves : StruckLeaves w why e.now v h (strikeUnit e w why none h) := by
  rw [strikeUnit_eq]
  refine foldl_at (f := struck e w why) (I := Apart v h) (R := StruckLeaves w why e.now v h) (List.nodup_finRange 16)
    (List.mem_finRange v) .refl (fun g b hb a => a.trans (struck_apart hb.symm)) (fun g a => ?_) fun g b hb a => ?_
  · have stopped := struck_stopped (e := e) (h := g) (v := v) (w := w) (why := why)
    obtain ⟨own, other⟩ := struck_runs (e := e) (h := g) (v := v) (w := w) (why := why)
    rw [a.ctx] at stopped other
    rw [a.runs] at own other
    exact ⟨stopped.before a, own, other⟩
  · have apart := struck_apart (e := e) (h := g) (w := w) (why := why) hb.symm
    exact ⟨a.stopped.apart apart, fun same => apart.runs.trans (a.own same),
      fun no idle => apart.runs.trans (a.other no idle)⟩

end strike

end Sys2Proof.Machine
end

section
/-! PROOFS. RESTORE, TAKE OUT and RETURN (O54). -/

namespace Sys2Proof.Machine

variable {s : State} {e : Env} {h g : Hall} {v : Tx} {u w : HallUnit} {x : UnitRec} {b : Byte}

theorem setUnit_unit : (h.setUnit u x).unit u = x := by cases u <;> exact Tab.get_set_same ..

theorem setUnit_unit_other (hw : w ≠ u) : (h.setUnit u x).unit w = h.unit w := by
  cases u <;> cases w
  case tx.ant => rfl
  case ant.tx => rfl
  all_goals exact Tab.get_set_ne _ _ fun same => hw (by rw [same])

theorem unit_of_base (same : g.base = h.base) : g.unit w = h.unit w := by
  cases w with
  | tx t => exact congrArg (fun b : Base => b.txUnit.get t) same
  | ant a => exact congrArg (fun b : Base => b.antUnit.get a) same

theorem setUnit_ages : (h.setUnit u x).ages = h.ages := by cases u <;> rfl

/-- A request on a unit that is in the service state asked for. -/
theorem unitRule_taken {wanted : Service} {f : UnitRec → UnitRec} {p : List Byte} (named : unitOf (byteAt p 0) = some u)
    (service : (s.hall.unit u).service = wanted) : unitRule p wanted f s =
      acceptEvent s true { s with hall := s.hall.setUnit u (f (s.hall.unit u)) }
        fun _ => b1 (f (s.hall.unit u)).service.code := by
  unfold unitRule
  rw [named]
  exact if_neg (not_not.2 service)

theorem unitRule_busy {wanted : Service} {f : UnitRec → UnitRec} {p : List Byte} (named : unitOf (byteAt p 0) = some u)
    (service : (s.hall.unit u).service ≠ wanted) : unitRule p wanted f s = refuse .busy := by
  unfold unitRule
  rw [named]
  exact if_pos service

theorem unitRule_field {wanted : Service} {f : UnitRec → UnitRec} {p : List Byte} (named : unitOf (byteAt p 0) = none) :
    unitRule p wanted f s = refuse .field := by
  unfold unitRule
  rw [named]

/-- What a request on one unit leaves of the units. -/
theorem unitRule_leaves {c : Instr} {wanted : Service} {f : UnitRec → UnitRec} {p : List Byte} (r : Received s)
    (arm : exec c s = .next (request (p.length == 1) anyMode (unitRule p wanted f) s)) (hl : p.length = 1)
    (named : unitOf (byteAt p 0) = some u) (service : (s.hall.unit u).service = wanted) :
    ∃ t, exec c s = .next t ∧ AnswersOk s t (b1 (f (s.hall.unit u)).service.code) ∧ OnlyDue s t ∧
      t.hall.unit u = f (s.hall.unit u) ∧ (∀ w, w ≠ u → t.hall.unit w = s.hall.unit w) ∧
      t.hall.ages = s.hall.ages := by
  obtain ⟨t, -, next, -, answers, due, base, -, -⟩ := concluded_slots r arm (beq_iff_eq.2 hl) rfl
    (unitRule_taken named service)
  exact ⟨t, next, answers, due, (unit_of_base base).trans setUnit_unit,
    fun w hw => (unit_of_base base).trans (setUnit_unit_other hw), (congrArg Base.ages base).trans setUnit_ages⟩

/-! TAKE OUT. -/

theorem takeOutRule_unit {p : List Byte} (named : unitOf (byteAt p 0) = some u) : takeOutRule p s =
    acceptEvent s false { s with hall := takeOutUnit s.env u s.hall } fun _ => [] := by
  unfold takeOutRule
  rw [named]

/-- The record of a unit that is taken out. -/
def UnitRec.takenOut (x : UnitRec) : UnitRec :=
  if x.service = .out then x else { x with service := .out, provingMinutes := 0 }

theorem takeOutUnit_out (out : (h.unit u).service = .out) : takeOutUnit e u h = h := if_pos out

theorem takeOutUnit_in (other : (h.unit u).service ≠ .out) : takeOutUnit e u h =
    strikeUnit e u .out none (h.setUnit u { h.unit u with service := .out, provingMinutes := 0 }) := if_neg other

theorem strikeUnit_base {why : Reason} {except : Option Tx} : (strikeUnit e u why except h).base = h.base :=
  base_of_stays (e := e) (strikeUnit_stays u why except)

theorem takeOutUnit_units : (takeOutUnit e u h).unit u = (h.unit u).takenOut ∧
    (∀ w, w ≠ u → (takeOutUnit e u h).unit w = h.unit w) ∧ (takeOutUnit e u h).ages = h.ages := by
  by_cases out : (h.unit u).service = .out
  · rw [takeOutUnit_out out, UnitRec.takenOut, if_pos out]
    exact ⟨rfl, fun _ _ => rfl, rfl⟩
  · rw [takeOutUnit_in out, UnitRec.takenOut, if_neg out]
    exact ⟨(unit_of_base strikeUnit_base).trans setUnit_unit,
      fun w hw => (unit_of_base strikeUnit_base).trans (setUnit_unit_other hw),
      (congrArg Base.ages strikeUnit_base).trans setUnit_ages⟩

theorem cutDecided_out {i : Nat} {air : Bool} : cutDecided .out i air =
    { outcome := if air then .cut else .missed, reason := some .out, ended := i } := by cases air <;> rfl

/-- What is left of each transmitter when a unit that is not OUT is taken out. -/
theorem takeOutUnit_leaves (other : (h.unit u).service ≠ .out) :
    StruckLeaves u .out e.now v h (takeOutUnit e u h) := by
  rw [takeOutUnit_in other]
  have leaves := strikeUnit_leaves (e := e) (v := v) (w := u) (why := .out)
    (h := h.setUnit u { h.unit u with service := .out, provingMinutes := 0 })
  have stopped := leaves.stopped.before (h := h) setUnit_apart
  rw [setUnit_ctx] at stopped
  have own := leaves.own
  have rest := leaves.other
  rw [setUnit_runs] at own rest
  rw [setUnit_ctx] at rest
  exact ⟨stopped, own, rest⟩

/-- Settles O54. -/
theorem unitsLeaveAndReturnToService : Obligations.UnitsLeaveAndReturnToService := by
  intro s b r
  cases named : unitOf b.toNat with
  | none =>
    exact ⟨refused_rule r rfl rfl rfl (unitRule_field named),
      refused_rule r rfl rfl rfl (by unfold takeOutRule; rw [show unitOf (byteAt [b] 0) = none from named]),
      refused_rule r rfl rfl rfl (unitRule_field named)⟩
  | some u =>
    dsimp only
    refine ⟨fun other => refused_rule r rfl rfl rfl (unitRule_busy named other), fun barred => ?_, ?_,
      fun other => refused_rule r rfl rfl rfl (unitRule_busy named other), fun out => ?_⟩
    · exact unitRule_leaves (c := .restore [b]) r rfl rfl named barred
    · obtain ⟨t, -, next, -, answers, due, base, concludes, -⟩ := concluded_slots (c := .takeOut [b]) r rfl rfl rfl
        (takeOutRule_unit named)
      obtain ⟨unit, units, ages⟩ := takeOutUnit_units (e := s.env) (h := s.hall) (u := u)
      refine ⟨t, next, answers, due, (unit_of_base base).trans unit, fun v hv => (unit_of_base base).trans (units v hv),
        (congrArg Base.ages base).trans ages, fun out => ?_, fun other => ⟨_, concludes, fun v => ?_, fun v => ?_⟩⟩
      · rw [takeOutUnit_out out] at concludes
        exact concludes
      · have leaves := takeOutUnit_leaves (e := s.env) (v := v) other
        exact ⟨leaves.own, leaves.other⟩
      · have stopped := (takeOutUnit_leaves (e := s.env) (v := v) other).stopped
        simp only [cutDecided_out] at stopped
        cases u <;> exact stopped
    · exact unitRule_leaves (c := .returnUnit [b]) r rfl rfl named out

end Sys2Proof.Machine
end

section
/-! PROOFS. GO RUN and GO CONFIG (O60). -/

namespace Sys2Proof.Machine

variable {s : State} {e : Env} {h g a : Hall} {t v : Tx} {x : Xp}

/-! A context taken back, and its kept occurrence dropped. -/

section taken

variable {occ : Occ → Option Decided} {run : Option RunResult} {q : Kept → Bool} {y : OccOutcome} {w : Reason}

/-- What `Stopped` says of a context that a first step takes down, and whose kept occurrence is dropped by a second. -/
theorem stopped_of_steps
    (working : (h.ctx.get v).state.working = true → (h.ctx.get v).kept = none →
      (a.ctx.get v).kept = none ∧ (∀ o, (h.ctx.get v).held = .occurrence o → OccStopped h v o (occ o) a) ∧
      ∀ row, (h.ctx.get v).held = .proving row → RunStopped h v row run a)
    (resting : (h.ctx.get v).state.working = false → a = h) :
    Stopped h v occ run (fun k => if q k then some (y, w) else none)
      (if (a.ctx.get v).kept.any q then dropKept e v y w a else a) := by
  rw [stopped_iff]
  refine ⟨fun yes empty => ?_, fun no => ⟨fun empty => ?_, fun k hk => ?_⟩⟩
  · obtain ⟨none, stops⟩ := working yes empty
    rw [none]
    exact stops
  · rw [resting no, empty]
    exact ⟨rfl, rfl⟩
  · rw [resting no, hk, Option.any_some]
    split
    · exact dropKept_dropped hk
    · exact ⟨rfl, rfl⟩

/-- `takeBack` as the first step. -/
theorem takeBack_stops {r : Option Reason} {i : Nat} (working : (h.ctx.get v).state.working = true)
    (empty : (h.ctx.get v).kept = none) : let a := takeBack e v y r i h
    (a.ctx.get v).kept = none ∧
    (∀ o, (h.ctx.get v).held = .occurrence o → OccStopped h v o (some ⟨y, r, i⟩) a) ∧
    ∀ row, (h.ctx.get v).held = .proving row → RunStopped h v row (some .halted) a := by
  refine ⟨takeBack_kept empty, fun o held => ?_, fun row held => ?_⟩ <;> rw [takeBack_working working]
  · exact takenDown_takenBack held
  · exact takenDown_runTakenBack held

end taken

/-! GO CONFIG with force in RUN (R205). -/

theorem forceContext_apart (hv : v ≠ t) : Apart v h (forceContext e h t) := (takeBack_apart hv).trans (dropKept_apart hv)

theorem forceContext_stopped : Stopped h v (fun _ => some { outcome := .aborted, reason := some .mode, ended := e.now })
    (some .halted) (fun _ => some (.aborted, .mode)) (forceContext e h v) := by
  have steps := stopped_of_steps (e := e) (h := h) (v := v) (q := fun _ => true) (y := .aborted) (w := .mode)
    (occ := fun _ => some { outcome := .aborted, reason := some .mode, ended := e.now }) (run := some .halted)
    (a := takeBack e v .aborted (some .mode) e.now h) takeBack_stops takeBack_resting
  unfold forceContext
  cases hk : ((takeBack e v .aborted (some .mode) e.now h).ctx.get v).kept with
  | none =>
    rw [hk] at steps
    rw [dropKept_none hk]
    exact steps
  | some k =>
    rw [hk] at steps
    exact steps

theorem forceAll_stopped : Stopped h v (fun _ => some { outcome := .aborted, reason := some .mode, ended := e.now })
    (some .halted) (fun _ => some (.aborted, .mode)) ((allFin 16).foldl (forceContext e) h) :=
  foldl_at (f := forceContext e) (I := Apart v h) (R := Stopped h v _ _ _) (List.nodup_finRange 16)
    (List.mem_finRange v) .refl (fun _ _ hb w => w.trans (forceContext_apart hb.symm))
    (fun _ w => forceContext_stopped.before w) fun _ _ hb w => w.apart (forceContext_apart hb.symm)

/-! The rules of the two requests. -/

theorem lineHolds_iff {e : Env} : lineHolds e = true ↔
    (e.mode = .stop ∨ e.mode = .localKey) ∧ (e.pins.hallstop = true ∨ e.pins.localKey = true) := by
  simp [lineHolds]

theorem xpAt_of (x : Xp) : ∃ i, xpAt i = x := by
  obtain ⟨⟨tx, htx⟩, ⟨row, hrow⟩⟩ := x
  refine ⟨⟨row * 16 + tx, by omega⟩, ?_⟩
  simp only [xpAt, Xp.mk.injEq, Fin.mk.injEq]
  omega

theorem unread_iff : h.unread = true ↔ ∃ x, (h.xp x).pos = .unknown ∧ (h.xp x).stuck = false := by
  simp only [Hall.unread, List.any_map, List.any_eq_true, Function.comp, Bool.and_eq_true, beq_iff_eq,
    Bool.not_eq_true']
  constructor
  · rintro ⟨i, -, hi⟩
    exact ⟨_, hi⟩
  · rintro ⟨x, hx⟩
    obtain ⟨i, rfl⟩ := xpAt_of x
    exact ⟨i, List.mem_finRange i, hx⟩

/-- No line is high at the end of an event outside RUN. -/
theorem lineLow_of {t : State} (guarded : PermitsGuarded t) (mode : t.env.mode ≠ .run) (u : Tx) : t.hall.lineLow u := by
  refine eq_false_of_ne_true fun high => ?_
  have permits := (permitConditionsOneByOne ..).1 (guarded u high)
  exact mode permits.1

/-- The station's rule for leaving a mode that a line holds. -/
def LineHeld (e : Env) : Prop :=
  (e.mode = .stop ∨ e.mode = .localKey) ∧ (e.pins.hallstop = true ∨ e.pins.localKey = true)

theorem goRunRule_held (held : LineHeld s.env) : goRunRule s = refuse .mode := if_pos (lineHolds_iff.2 held)

theorem unconfigured_iff : (allFin 16).any s.env.txConfigured = false ↔ ∀ u, s.env.tables.tx.get u = none := by
  simp [Env.txConfigured]

theorem goRunRule_notReady (free : ¬LineHeld s.env)
    (w : s.env.clock.valid = false ∨ ∀ u, s.env.tables.tx.get u = none) : goRunRule s = refuse .notReady := by
  unfold goRunRule
  rw [if_neg fun held => free (lineHolds_iff.1 held), if_pos]
  rw [← unconfigured_iff] at w
  obtain w | w := w <;> simp [w]

theorem ready_of (valid : s.env.clock.valid = true) (configured : ∃ u, s.env.tables.tx.get u ≠ none) :
    (!s.env.clock.valid || !(allFin 16).any s.env.txConfigured) = false := by
  have any : (allFin 16).any s.env.txConfigured = true := by
    refine eq_true_of_ne_false fun none => ?_
    obtain ⟨u, hu⟩ := configured
    exact hu (unconfigured_iff.1 none u)
  rw [valid, any]
  rfl

theorem goRunRule_busy (free : ¬LineHeld s.env) (valid : s.env.clock.valid = true)
    (configured : ∃ u, s.env.tables.tx.get u ≠ none) (sweeping : s.hall.sweep.state ≠ .idle) :
    goRunRule s = refuse .busy := by
  unfold goRunRule
  rw [if_neg fun held => free (lineHolds_iff.1 held), ready_of valid configured]
  exact (if_neg (by simp)).trans (if_pos sweeping)

/-- The state when GO RUN is taken, before the hall settles. -/
def goneRun (s : State) : State :=
  { s with
    env := { s.env with mode := runEntry s.env.mode s.hall }
    hall := leaveFor s.env.mode { s.env with mode := runEntry s.env.mode s.hall } s.hall }

theorem goRunRule_taken (free : ¬LineHeld s.env) (valid : s.env.clock.valid = true)
    (configured : ∃ u, s.env.tables.tx.get u ≠ none) (still : s.hall.sweep.state = .idle) :
    goRunRule s = acceptEvent s true (goneRun s) fun t => b1 t.env.mode.code := by
  unfold goRunRule
  rw [if_neg fun held => free (lineHolds_iff.1 held), ready_of valid configured]
  exact (if_neg (by simp)).trans (if_neg (not_not.2 still))

/-! What GO RUN leaves behind in the hall. -/

/-- An entry that only commands ask for fails without a word to a context (R124). -/
theorem failCommand_matrix (n : QEntry) : MatrixOnly h (failCommand e h n) := by
  unfold failCommand
  dsimp only
  split
  · exact ⟨rfl⟩
  · next alone =>
    have reqs : n.reqs = [] := by
      by_contra some
      exact alone (by simp [QEntry.wanted, some])
    have exercise : n.exercise = false := by
      by_contra yes
      exact alone (by simp [QEntry.wanted, yes])
    unfold failEntry failEntries
    simp only [List.foldl_cons, List.foldl_nil, reqs, List.any_cons, List.any_nil, exercise, Bool.false_or,
      Bool.false_eq_true, if_false]
    exact MatrixOnly.trans (h' := (h.dropEntry n.arrival).setLast n.xp .mode) ⟨rfl⟩ (settleRow_matrix _)

theorem leaveConfig_matrix : MatrixOnly h (leaveConfig e h) := .foldl _ fun _ n => failCommand_matrix n

theorem unhalt_eq : unhalt h = { h with ctx := (unhalt h).ctx } := rfl

/-- The contexts after GO RUN, and the next read of a survey (R95, R121). -/
theorem leaveFor_ctx {m : Mode} (hm : m ≠ .survey) (hm' : m ≠ .run) (u : Tx) : (leaveFor m e h).ctx.get u =
    if m ≠ .config ∧ (h.ctx.get u).state = .halted then Context.idle else h.ctx.get u := by
  have reads (g : Hall) : (if e.mode = .survey then { g with surveyNext := some 0 } else g).ctx = g.ctx := by
    split <;> rfl
  unfold leaveFor
  dsimp only
  rw [reads]
  cases m with
  | config =>
    dsimp only
    rw [leaveConfig_matrix.eq]
    exact (if_neg fun no => no.1 rfl).symm
  | stop | localKey => simp [unhalt]
  | survey => exact absurd rfl hm
  | run => exact absurd rfl hm'

theorem leaveFor_surveyNext {m : Mode} : (leaveFor m e h).surveyNext =
    if e.mode = .survey then some 0 else h.surveyNext := by
  unfold leaveFor
  dsimp only
  split
  · rfl
  · cases m with
    | config =>
      dsimp only
      rw [leaveConfig_matrix.eq]
    | stop | localKey | survey | run => rfl

theorem surveyFrom_stays {P : Hall → Prop} {c : Prop} [Decidable c] {n : Option (Fin 416)} (w : Stays e P h) :
    Stays e P (if c then { h with surveyNext := n } else h) :=
  ite_stays (w.same (.plain rfl rfl rfl rfl rfl rfl rfl rfl rfl)) w

theorem unhalt_base : (unhalt h).base = h.base := rfl

theorem leaveFor_base {m : Mode} : (leaveFor m e h).base = h.base := by
  cases m with
  | config => exact base_of_stays (e := e) fun w => surveyFrom_stays (leaveConfig_stays w)
  | stop | localKey | survey | run => unfold leaveFor; dsimp only; split <;> rfl

theorem leaveFor_stuck {m : Mode} : StuckKept h (leaveFor m e h) := by
  intro x
  cases m with
  | config =>
    have w : Stays e (fun g => (g.xp x).stuck = (h.xp x).stuck) h := ⟨stuck_stable x _, rfl⟩
    exact (surveyFrom_stays (leaveConfig_stays w)).holds
  | stop | localKey | survey | run => unfold leaveFor; dsimp only; split <;> rfl

/-! What a mode request leaves when the hall has settled. -/

section settled

variable {s t d : State} {b : State} {f : Bool}

theorem base_of_conclude (hall : t.hall = (conclude b f d).hall) (base : d.hall.base = s.hall.base) :
    t.hall.base = s.hall.base := by rw [hall, conclude_base, base]

theorem stuck_of_conclude (hall : t.hall = (conclude b f d).hall) (stuck : StuckKept s.hall d.hall) :
    StuckKept s.hall t.hall := fun x => by rw [hall, conclude_stuck, stuck x]

theorem env_of_conclude (env : t.env = (conclude b f d).env) : t.env = { d.env with due := t.env.due } := by
  rw [env]
  exact conclude_env b d f

theorem lineLow_of_conclude (hall : t.hall = (conclude b f d).hall) (mode : d.env.mode ≠ .run) (u : Tx) :
    t.hall.lineLow u := by
  rw [hall]
  exact lineLow_of (conclude_permits b d f) (by rwa [conclude_mode]) u

end settled

/-! GO RUN taken. -/

theorem runEntry_survey {m : Mode} (w : m = .localKey ∨ ∃ x, (h.xp x).pos = .unknown ∧ (h.xp x).stuck = false) :
    runEntry m h = .survey := by
  rw [← unread_iff] at w
  exact if_pos w

theorem runEntry_run {m : Mode} (key : m ≠ .localKey) (read : ∀ x, (h.xp x).pos = .unknown → (h.xp x).stuck = true) :
    runEntry m h = .run := by
  refine if_neg ?_
  rintro (yes | unread)
  · exact key yes
  · obtain ⟨x, unknown, free⟩ := unread_iff.1 unread
    simp [read x unknown] at free

theorem goRunMode_of {m : Mode} (survey : m ≠ .survey) (run : m ≠ .run) : goRunMode m = true := by
  cases m <;> simp_all [goRunMode]

theorem goRun_taken (w : Received s) (survey : s.env.mode ≠ .survey) (run : s.env.mode ≠ .run) (free : ¬LineHeld s.env)
    (valid : s.env.clock.valid = true) (configured : ∃ u, s.env.tables.tx.get u ≠ none)
    (still : s.hall.sweep.state = .idle) : ∃ t, exec (.goRun []) s = .next t ∧
      t.hall = (conclude s true (goneRun s)).hall ∧ t.env = (conclude s true (goneRun s)).env ∧
      AnswersOk s t (b1 (runEntry s.env.mode s.hall).code) := by
  have taken := concluded_answers (c := .goRun []) w rfl rfl (goRunMode_of survey run)
    (goRunRule_taken free valid configured still) rfl rfl
  rwa [conclude_mode] at taken

/-! GO CONFIG. -/

theorem any_cells {α : Type} {n : Nat} {c : Tab α n} {p : α → Bool} : c.cells.any p = true ↔ ∃ i, p (c.get i) = true := by
  obtain ⟨l, rfl⟩ := c
  simp only [List.any_eq_true, List.mem_iff_getElem, Tab.get]
  constructor
  · rintro ⟨_, ⟨i, hi, rfl⟩, yes⟩
    exact ⟨⟨i, hi⟩, yes⟩
  · rintro ⟨i, yes⟩
    exact ⟨_, ⟨i, i.isLt, rfl⟩, yes⟩

/-- GO CONFIG without force is refused while a context is at work (R205). -/
def ConfigWaits (s : State) (force : Bool) : Prop :=
  s.env.mode = .run ∧ force = false ∧ ∃ u, (s.hall.ctx.get u).state ≠ .idle

theorem configWaits_iff {force : Bool} : ConfigWaits s force ↔
    s.env.mode = .run ∧ (!force) = true ∧ (s.hall.ctx.cells.any fun c => c.state != .idle) = true := by
  unfold ConfigWaits
  rw [any_cells]
  simp

/-- The state when GO CONFIG is taken, before the hall settles. -/
def goneConfig (s : State) : State :=
  { s with
    env := { s.env with mode := .config }
    hall := configFrom s.env.mode { s.env with mode := .config } s.hall }

theorem yesNoAt_force (force : Bool) : yesNoAt [if force then 1 else 0] 0 = some force := by cases force <;> rfl

section goConfig

variable {force : Bool}

theorem goConfigRule_held (held : LineHeld s.env) : goConfigRule [if force then 1 else 0] s = refuse .mode := by
  unfold goConfigRule
  rw [yesNoAt_force]
  exact if_pos (lineHolds_iff.2 held)

theorem goConfigRule_busy (free : ¬LineHeld s.env) (waits : ConfigWaits s force) :
    goConfigRule [if force then 1 else 0] s = refuse .busy := by
  unfold goConfigRule
  rw [yesNoAt_force]
  exact (if_neg fun held => free (lineHolds_iff.1 held)).trans (if_pos (configWaits_iff.1 waits))

theorem goConfigRule_taken (free : ¬LineHeld s.env) (waits : ¬ConfigWaits s force) :
    goConfigRule [if force then 1 else 0] s = acceptEvent s true (goneConfig s) fun _ =>
      b1 (if s.env.mode = .run then s.hall.workingCount else 0) := by
  unfold goConfigRule
  rw [yesNoAt_force]
  exact (if_neg fun held => free (lineHolds_iff.1 held)).trans (if_neg fun yes => waits (configWaits_iff.2 yes))

end goConfig

theorem configFrom_stays {P : Hall → Prop} {m : Mode} (hm : m = .run ∨ m = .survey) (w : Stays e P h) :
    Stays e P (configFrom m e h) := by
  obtain rfl | rfl := hm
  · exact foldl_stays _ _ (lowerAll_stays w) fun _ _ => forceContext_stays _
  · exact abortSurvey_stays w

theorem configFrom_base {m : Mode} : (configFrom m e h).base = h.base := by
  cases m with
  | run => exact base_of_stays (e := e) (configFrom_stays (.inl rfl))
  | survey | stop | localKey | config => rfl

theorem configFrom_stuck {m : Mode} : StuckKept h (configFrom m e h) := by
  cases m with
  | run => exact fun x => (configFrom_stays (e := e) (.inl rfl) ⟨stuck_stable x _, rfl⟩).holds
  | survey | stop | localKey | config => exact fun _ => rfl

/-- `Stopped` reads no gate of the hall before. -/
theorem Stopped.rebase {occ : Occ → Option Decided} {run : Option RunResult} {kept : Kept → Option (OccOutcome × Reason)}
    (ctx : a.ctx = h.ctx) (last : a.lastOutcome = h.lastOutcome) (runs : a.runs = h.runs)
    (w : Stopped a v occ run kept g) : Stopped h v occ run kept g := by
  unfold Stopped TakenBack RunTakenBack KeptDropped at *
  rw [ctx, last, runs] at w
  exact w

theorem configFrom_stopped : Stopped h v (fun _ => some { outcome := .aborted, reason := some .mode, ended := e.now })
    (some .halted) (fun _ => some (.aborted, .mode)) (configFrom .run e h) :=
  forceAll_stopped.rebase (a := lowerAll e h) rfl rfl rfl

theorem goConfigMode_of {m : Mode} (config : m ≠ .config) : goConfigMode m = true := by
  cases m <;> simp_all [goConfigMode]

theorem goConfig_taken {force : Bool} (w : Received s) (config : s.env.mode ≠ .config) (free : ¬LineHeld s.env)
    (waits : ¬ConfigWaits s force) : ∃ t, exec (.goConfig [if force then 1 else 0]) s = .next t ∧
      t.hall = (conclude s true (goneConfig s)).hall ∧ t.env = (conclude s true (goneConfig s)).env ∧
      AnswersOk s t (b1 (if s.env.mode = .run then s.hall.workingCount else 0)) :=
  concluded_answers (c := .goConfig _) w rfl rfl (goConfigMode_of config) (goConfigRule_taken free waits) rfl rfl

theorem workingReply : b1 (if s.env.mode = .run then s.hall.workingCount else 0) = [if s.env.mode = .run
    then BitVec.ofNat 8 (s.hall.ctx.cells.countP fun c => c.state.working) else 0] := by
  split <;> rfl

/-- Settles O60. -/
theorem goRunAndGoConfig : Obligations.GoRunAndGoConfig := by
  intro s w held
  refine ⟨fun survey run => ⟨fun hold => ?_, fun free notReady => ?_, fun free valid configured sweeping => ?_,
    fun free valid configured still => ?_⟩, fun force config => ⟨fun hold => ?_, fun free waits => ?_,
      fun free waits => ?_⟩, rfl⟩
  · exact refused_rule w rfl rfl (goRunMode_of survey run) (goRunRule_held hold)
  · exact refused_rule w rfl rfl (goRunMode_of survey run) (goRunRule_notReady free notReady)
  · exact refused_rule w rfl rfl (goRunMode_of survey run) (goRunRule_busy free valid configured sweeping)
  · obtain ⟨t, next, hall, env, answers⟩ := goRun_taken w survey run free valid configured still
    have mode : t.env.mode = runEntry s.env.mode s.hall := by rw [env, conclude_mode]; rfl
    refine ⟨t, next, base_of_conclude hall leaveFor_base, stuck_of_conclude hall leaveFor_stuck, ?_, ?_,
      fun unread => mode.trans (runEntry_survey unread), fun key read => mode.trans (runEntry_run key read),
      leaveFor s.env.mode { s.env with mode := runEntry s.env.mode s.hall } s.hall, ⟨true, ?_⟩, ?_, ?_⟩
    · rw [mode]
      exact env_of_conclude env
    · rw [mode]
      exact answers
    · rw [mode]
      exact ⟨hall, env⟩
    · rw [mode]
      exact leaveFor_surveyNext
    · exact leaveFor_ctx survey run
  · exact refused_rule w rfl rfl (goConfigMode_of config) (goConfigRule_held hold)
  · exact refused_rule w rfl rfl (goConfigMode_of config) (goConfigRule_busy free waits)
  · obtain ⟨t, next, hall, env, answers⟩ := goConfig_taken w config free waits
    refine ⟨t, next, base_of_conclude hall configFrom_base, stuck_of_conclude hall configFrom_stuck,
      env_of_conclude env, lineLow_of_conclude hall (d := goneConfig s) Mode.noConfusion, ?_,
      configFrom s.env.mode { s.env with mode := .config } s.hall, ⟨true, hall, env⟩, fun run u => ?_, fun survey => ?_,
      fun still => ?_⟩
    · rw [← workingReply]
      exact answers
    · rw [run]
      exact configFrom_stopped
    · rw [survey]
      rfl
    · obtain stop | key := still
      · rw [stop]
        exact ⟨rfl, unhalt_ctx⟩
      · rw [key]
        exact ⟨rfl, unhalt_ctx⟩

end Sys2Proof.Machine
end

section
/-! SUPPORT. Claims, failing entries and the exercise: of a context they change no more than what its claim tells it
(R76, R104, R111). -/

namespace Sys2Proof.Machine

variable {e : Env} {h h' h'' a : Hall} {t u v : Tx} {q : Req} {row r : Row} {n : QEntry}

/-- Only the matrix and the exercise are new, and of the contexts what their claims have told them. -/
structure ClaimsOnly (h h' : Hall) : Prop where
  eq : h' = { h with claims := h'.claims, rows := h'.rows, queue := h'.queue, arrivals := h'.arrivals, xps := h'.xps,
                     work := h'.work, ctx := h'.ctx, exercise := h'.exercise, sweep := h'.sweep, flags := h'.flags }
  ctx : ∀ v, h'.ctx.get v =
    { h.ctx.get v with claimWaiting := (h'.ctx.get v).claimWaiting, path := (h'.ctx.get v).path }

namespace ClaimsOnly

theorem refl (h : Hall) : ClaimsOnly h h := ⟨rfl, fun _ => rfl⟩

theorem trans (a : ClaimsOnly h h') (b : ClaimsOnly h' h'') : ClaimsOnly h h'' :=
  ⟨by rw [b.eq, a.eq], fun v => by rw [b.ctx, a.ctx]⟩

theorem ite {c : Prop} [Decidable c] (a : ClaimsOnly h h') (b : ClaimsOnly h h'') :
    ClaimsOnly h (if c then h' else h'') := by
  split <;> assumption

theorem foldl {β : Type} {f : Hall → β → Hall} (l : List β) (hf : ∀ h b, ClaimsOnly h (f h b)) :
    ClaimsOnly h (l.foldl f h) := by
  induction l generalizing h with
  | nil => exact refl h
  | cons b l ih => exact (hf h b).trans ih

theorem state (a : ClaimsOnly h h') : (h'.ctx.get v).state = (h.ctx.get v).state := by rw [a.ctx]
theorem held (a : ClaimsOnly h h') : (h'.ctx.get v).held = (h.ctx.get v).held := by rw [a.ctx]
theorem kept (a : ClaimsOnly h h') : (h'.ctx.get v).kept = (h.ctx.get v).kept := by rw [a.ctx]
theorem gates (a : ClaimsOnly h h') : h'.gates = h.gates := by rw [a.eq]
theorem runs (a : ClaimsOnly h h') : h'.runs = h.runs := by rw [a.eq]
theorem power (a : ClaimsOnly h h') : h'.power = h.power := by rw [a.eq]
theorem links (a : ClaimsOnly h h') : h'.links = h.links := by rw [a.eq]
theorem pos (a : ClaimsOnly h h') : h'.pos = h.pos := by rw [a.eq]
theorem slots (a : ClaimsOnly h h') : h'.slots = h.slots := by rw [a.eq]
theorem lastOutcome (a : ClaimsOnly h h') : h'.lastOutcome = h.lastOutcome := by rw [a.eq]

end ClaimsOnly

theorem MatrixOnly.claims (a : MatrixOnly h h') : ClaimsOnly h h' := ⟨by rw [a.eq], fun _ => by rw [a.eq]⟩

/-- A context told of its claim. -/
theorem modCtx_claimsOnly {f : Context → Context}
    (hf : ∀ c, f c = { c with claimWaiting := (f c).claimWaiting, path := (f c).path }) : ClaimsOnly h (h.modCtx t f) := by
  refine ⟨rfl, fun v => ?_⟩
  rw [Hall.modCtx_get]
  split
  · exact hf _
  · rfl

theorem PathOnly.claims (w : PathOnly t h h') : ClaimsOnly h h' := by
  refine ⟨by rw [w.eq], fun v => ?_⟩
  by_cases hv : v = t
  · subst hv
    rw [w.own]
  · rw [w.others v hv]

theorem queueOp_claimsOnly {x : Xp} {d : Dir} {z : Requester} : ClaimsOnly h (queueOp x d z h) := (queueOp_matrix x d z).claims
theorem reportRow_claimsOnly : ClaimsOnly h (reportRow r h) := (reportRow_matrix r).claims
theorem settleRow_claimsOnly : ClaimsOnly h (settleRow r h) := (settleRow_matrix r).claims
theorem withdrawOps_claimsOnly : ClaimsOnly h (withdrawOps e t h) := withdrawOps_matrix.claims
theorem withdrawClaim_claimsOnly : ClaimsOnly h (withdrawClaim e t h) := withdrawClaim_path.claims

theorem failClaim_claimsOnly : ClaimsOnly h (failClaim e t h) := by
  unfold failClaim
  exact .ite (withdrawClaim_claimsOnly.trans ⟨rfl, fun _ => rfl⟩) withdrawOps_claimsOnly

/-! Claims that proceed (R104 to R106). -/

/-- The status of a claim changed. -/
theorem setStatus_claimsOnly {f : Claim → Claim} : ClaimsOnly h
    (match h.claims.get t with
      | some c => h.setClaim t (some (f c))
      | none => h) := by
  split <;> exact ⟨rfl, fun _ => rfl⟩

theorem tellGranted_claimsOnly : ClaimsOnly h (tellGranted t h) := setStatus_claimsOnly.trans (modCtx_claimsOnly fun _ => rfl)

theorem tellConnected_claimsOnly : ClaimsOnly h (tellConnected t h) := setStatus_claimsOnly.trans (modCtx_claimsOnly fun _ => rfl)

theorem tellWaiting_claimsOnly : ClaimsOnly h (tellWaiting t h) := modCtx_claimsOnly fun _ => rfl

theorem releaseFormers_claimsOnly : ClaimsOnly h (releaseFormers q row h) :=
  setStatus_claimsOnly.trans (.foldl _ fun h r => (MatrixOnly.claims (h' := h.setRes r .releasing) ⟨rfl⟩).trans
    (queueOp_claimsOnly.trans reportRow_claimsOnly))

theorem grant_claimsOnly : ClaimsOnly h (grant q row h) :=
  (MatrixOnly.claims (h' := h.setRes row (.claimed q.tx)) ⟨rfl⟩).trans (queueOp_claimsOnly.trans tellGranted_claimsOnly)

theorem connect_claimsOnly : ClaimsOnly h (connect q row h) :=
  (MatrixOnly.claims (h' := h.setRes row (.connected q.tx)) ⟨rfl⟩).trans tellConnected_claimsOnly

theorem takeReleasing_claimsOnly : ClaimsOnly h (takeReleasing q row h) := by
  unfold takeReleasing
  split
  · next n _ =>
    have dropped : MatrixOnly h ((h.dropEntry n.arrival).setLast n.xp .withdrawn) := ⟨rfl⟩
    exact .ite grant_claimsOnly (dropped.claims.trans connect_claimsOnly)
  · exact (MatrixOnly.claims (h' := inheritOpens q row h) ⟨rfl⟩).trans grant_claimsOnly

theorem joinWaiting_claimsOnly : ClaimsOnly h (joinWaiting q row h) :=
  (MatrixOnly.claims ⟨rfl⟩).trans tellWaiting_claimsOnly

theorem yieldOp_matrix : MatrixOnly h (yieldOp q h) := by
  unfold yieldOp
  dsimp only
  (repeat' split) <;> exact ⟨rfl⟩

theorem writeExercise_claimsOnly {x : ExResult} : ClaimsOnly h (writeExercise x h) := ⟨rfl, fun _ => rfl⟩

theorem yieldRow_claimsOnly : ClaimsOnly h (yieldRow q h) := yieldOp_matrix.claims.trans writeExercise_claimsOnly

theorem proceed_claimsOnly : ClaimsOnly h (proceed q row h) := by
  have yields {g : Hall} : ClaimsOnly g (if g.res row = .exercise ∨ g.exercised row then yieldRow q g else g) :=
    .ite yieldRow_claimsOnly (.refl g)
  refine (releaseFormers_claimsOnly (q := q) (row := row)).trans (yields.trans ?_)
  unfold proceed
  dsimp only
  generalize (if (releaseFormers q row h).res row = .exercise ∨ (releaseFormers q row h).exercised row
    then yieldRow q (releaseFormers q row h) else releaseFormers q row h) = g
  split
  · exact grant_claimsOnly
  · exact .ite connect_claimsOnly (queueOp_claimsOnly.trans grant_claimsOnly)
  · exact takeReleasing_claimsOnly
  · exact .ite grant_claimsOnly joinWaiting_claimsOnly
  · exact .ite connect_claimsOnly joinWaiting_claimsOnly
  · exact grant_claimsOnly

theorem handRowOn_claimsOnly : ClaimsOnly h (handRowOn r h) := by
  unfold handRowOn
  split
  · split
    · next x _ =>
      exact (MatrixOnly.claims (h' := h.setWaiting r ((h.rows.get r).waiting.filter fun y => y.tx != x.tx)) ⟨rfl⟩).trans
        proceed_claimsOnly
    · exact .refl h
  · exact .refl h

theorem handRowsOn_claimsOnly {later : Hall → Row → Bool} (n : Nat) : ClaimsOnly h (handRowsOn later n h) := by
  induction n generalizing h with
  | zero => exact .refl h
  | succ n ih =>
    unfold handRowsOn
    split
    · next r _ =>
      exact (MatrixOnly.claims (h' := { h with work := h.work.erase (.handOn r) }) ⟨rfl⟩).trans
        (handRowOn_claimsOnly.trans ih)
    · exact .refl h

theorem claim_claimsOnly : ClaimsOnly h (claim e q row h) := by
  have earlier {g : Hall} : ClaimsOnly g (match g.claims.get q.tx with
      | some c => if c.row = row ∧ g.res row = .connected q.tx then g else withdrawClaim e q.tx g
      | none => g) := by
    split
    · exact .ite (.refl g) withdrawClaim_claimsOnly
    · exact .refl g
  unfold claim
  dsimp only
  refine (handRowsOn_claimsOnly Config.settleBound).trans (earlier.trans ((handRowsOn_claimsOnly Config.settleBound).trans
    (.ite ⟨rfl, fun _ => rfl⟩ ?_)))
  exact (MatrixOnly.claims ⟨rfl⟩).trans proceed_claimsOnly

/-! The exercise (Chapter 9). -/

theorem raiseNotice_claimsOnly {y : Notice} : ClaimsOnly h (raiseNotice y h) := ⟨rfl, fun _ => rfl⟩

theorem beginExercise_claimsOnly {o : ExOrigin} {x : Xp} : ClaimsOnly h (beginExercise o x h) :=
  ClaimsOnly.trans (h' := { h.setRes x.row .exercise with
    exercise := { h.exercise with phase := .closing, xp := x, origin := o } }) ⟨rfl, fun _ => rfl⟩ queueOp_claimsOnly

theorem endSweep_claimsOnly {x : SweepResult} : ClaimsOnly h (endSweep x h) :=
  ClaimsOnly.trans (h' := { h with sweep := { h.sweep with state := .idle, next := none, result := x } })
    ⟨rfl, fun _ => rfl⟩ raiseNotice_claimsOnly

/-- The sweep record is new. -/
theorem sweep_claimsOnly {w : Sweep} : ClaimsOnly h { h with sweep := w } := ⟨rfl, fun _ => rfl⟩

theorem sweepReach_claimsOnly : ClaimsOnly h (sweepReach e h) := by
  unfold sweepReach
  split
  · exact endSweep_claimsOnly
  · split
    · exact sweep_claimsOnly.trans beginExercise_claimsOnly
    · exact sweep_claimsOnly.trans endSweep_claimsOnly

theorem endExercise_claimsOnly {x : ExResult} : ClaimsOnly h (endExercise e x h) := by
  have written : ClaimsOnly h (writeExercise x h) := writeExercise_claimsOnly
  unfold endExercise
  dsimp only
  split
  · exact written
  · split
    · exact written.trans (sweep_claimsOnly.trans sweepReach_claimsOnly)
    · exact written.trans (sweep_claimsOnly.trans endSweep_claimsOnly)
    · exact written.trans sweep_claimsOnly

theorem releaseExerciseRow_claimsOnly : ClaimsOnly h (releaseExerciseRow h) :=
  (MatrixOnly.claims (h' := h.setRes h.exercise.xp.row .free) ⟨rfl⟩).trans settleRow_claimsOnly

theorem exerciseFailed_claimsOnly {x : XpResult} : ClaimsOnly h (exerciseFailed e x h) :=
  releaseExerciseRow_claimsOnly.trans endExercise_claimsOnly

theorem exerciseConfirmed_claimsOnly : ClaimsOnly h (exerciseConfirmed e n h) := by
  unfold exerciseConfirmed exerciseClosed exerciseOpened
  split
  · split
    · exact .ite exerciseFailed_claimsOnly (ClaimsOnly.trans (h' := { h with
        exercise := { h.exercise with phase := .opening } }) ⟨rfl, fun _ => rfl⟩ queueOp_claimsOnly)
    · exact (MatrixOnly.claims (h' := h.setRes h.exercise.xp.row .free) ⟨rfl⟩).trans
        (reportRow_claimsOnly.trans endExercise_claimsOnly)
  · exact .refl h

/-! Failing entries (R111, R116). -/

section failing

variable {why : XpResult} {gone : List QEntry}

/-- The entries leave the queue and take their last results. -/
def failGone (why : XpResult) (gone : List QEntry) (h : Hall) : Hall :=
  gone.foldl (fun h n => (h.dropEntry n.arrival).setLast n.xp why) h

/-- The requesters of the entries, then the exercise unit, are told. -/
def failTold (e : Env) (why : XpResult) (gone : List QEntry) (h : Hall) : Hall :=
  let h := gone.foldl (fun h n => n.reqs.foldl (failRequester e why) h) h
  if gone.any QEntry.exercise then exerciseFailed e why h else h

theorem failEntries_eq : failEntries e why gone h =
    gone.foldl (fun h n => settleRow n.xp.row h) (failTold e why gone (failGone why gone h)) := rfl

theorem failGone_matrix : MatrixOnly h (failGone why gone h) := .foldl _ fun _ _ => ⟨rfl⟩

theorem failRequester_claimsOnly : ClaimsOnly h (failRequester e why h q) := .ite withdrawClaim_claimsOnly failClaim_claimsOnly

theorem failTold_claimsOnly : ClaimsOnly h (failTold e why gone h) := by
  have told : ClaimsOnly h (gone.foldl (fun h n => n.reqs.foldl (failRequester e why) h) h) :=
    .foldl _ fun _ _ => .foldl _ fun _ _ => failRequester_claimsOnly
  exact .ite (told.trans exerciseFailed_claimsOnly) told

theorem failEntries_claimsOnly : ClaimsOnly h (failEntries e why gone h) :=
  failGone_matrix.claims.trans (failTold_claimsOnly.trans (.foldl _ fun _ _ => settleRow_claimsOnly))

theorem failEntry_claimsOnly : ClaimsOnly h (failEntry e why n h) := failEntries_claimsOnly

theorem makeStuck_claimsOnly {x : Xp} : ClaimsOnly h (makeStuck e x h) :=
  (ClaimsOnly.trans (h' := h.modXp x fun w => { w with stuck := true }) ⟨rfl, fun _ => rfl⟩ raiseNotice_claimsOnly).trans
    (failEntries_claimsOnly.trans (.foldl _ fun _ _ => failClaim_claimsOnly))

end failing

end Sys2Proof.Machine
end

section
/-! PROOFS. MOVE CROSSPOINT and CLEAR CROSSPOINT (O51). -/

namespace Sys2Proof.Machine

variable {s t b d : State} {e : Env} {h g : Hall} {x y : Xp} {r : Row} {dir : Dir} {n m : QEntry} {z : Requester}

/-! What an event's conclusion leaves of its direct effect. -/

namespace Concludes

theorem base (w : Concludes b d t) : t.hall.base = d.hall.base := by
  obtain ⟨f, hall, -⟩ := w
  rw [hall, conclude_base]

theorem stuck (w : Concludes b d t) (x : Xp) : (t.hall.xp x).stuck = (d.hall.xp x).stuck := by
  obtain ⟨f, hall, -⟩ := w
  rw [hall, conclude_stuck]

theorem notice {y : Notice} (w : Concludes b d t) (set : d.hall.noticeSet y = true) : t.hall.noticeSet y = true := by
  obtain ⟨f, hall, -⟩ := w
  rw [hall]
  exact conclude_notice b f y set

theorem env (w : Concludes b d t) : t.env = { d.env with due := t.env.due } := by
  obtain ⟨f, -, env⟩ := w
  rw [env]
  exact conclude_env b d f

theorem link (w : Concludes b d t) (u : Tx) : LinkKept (d.hall.links.get u) (t.hall.links.get u) := by
  obtain ⟨f, hall, -⟩ := w
  rw [hall]
  exact conclude_link b d f u

end Concludes

/-- A property of the hall before that its direct effect keeps. -/
theorem stuckKept_of_stays (w : ∀ x, Stays e (fun g => (g.xp x).stuck = (h.xp x).stuck) h →
    Stays e (fun g => (g.xp x).stuck = (h.xp x).stuck) g) : StuckKept h g :=
  fun x => (w x ⟨stuck_stable x _, rfl⟩).holds

/-- The stuck flags after an event whose direct effect keeps them. -/
theorem StuckKept.concludes (k : StuckKept h d.hall) (w : Concludes b d t) : StuckKept h t.hall :=
  fun x => (w.stuck x).trans (k x)

/-! A queued move. -/

theorem queueOp_xps : (queueOp x dir z h).xps = h.xps := by
  unfold queueOp
  (repeat' split) <;> rfl

/-- An entry as it joins the queue for one requester. -/
def QEntry.joining (x : Xp) (dir : Dir) (z : Requester) (arrival : Nat) : QEntry :=
  QEntry.attach { xp := x, dir := dir, reqs := [], exercise := false, commands := 0, arrival := arrival
                  inFlight := false, timeoutAt := 0, followOpen := none } z

theorem joinQueue_queue : (joinQueue x dir z h).queue = h.queue ++ [.joining x dir z h.arrivals] := rfl

theorem queueOp_attached (hn : h.entry x dir = some n) : queueOp x dir z h = h.modEntry n.arrival fun m => m.attach z := by
  unfold queueOp
  rw [hn]

theorem queueOp_joined (hn : h.entry x dir = none) (hz : ∀ q, z ≠ .claim q) : queueOp x dir z h = joinQueue x dir z h := by
  unfold queueOp
  rw [hn]
  cases z with
  | claim q => exact absurd rfl (hz q)
  | exercise | command => cases h.entry x dir.opposite <;> rfl

theorem entry_none (alone : ∀ n ∈ h.queue, n.xp = x → n.dir ≠ dir) : h.entry x dir = none := by
  unfold Hall.entry
  rw [List.find?_eq_none]
  intro n hn
  simpa using alone n hn

theorem entry_mem (hn : h.entry x dir = some n) : n ∈ h.queue := List.mem_of_find?_eq_some hn

theorem sum_map_attach {l : List QEntry} (hn : n ∈ l) (hl : (l.map QEntry.arrival).Nodup) :
    ((l.map fun m => if m.arrival = n.arrival then m.attach .command else m).map QEntry.commands).sum =
      (l.map QEntry.commands).sum + 1 := by
  induction l with
  | nil => cases hn
  | cons m l ih =>
    obtain ⟨fresh, rest⟩ := List.nodup_cons.1 hl
    obtain rfl | later := List.mem_cons.1 hn
    · have same : l.map (fun m => if m.arrival = n.arrival then m.attach .command else m) = l := by
        conv_rhs => rw [← List.map_id l]
        refine List.map_congr_left fun m hm => if_neg fun eq => fresh ?_
        rw [← eq]
        exact List.mem_map_of_mem hm
      rw [List.map_cons, if_pos rfl, same]
      simp only [List.map_cons, List.sum_cons, QEntry.attach]
      omega
    · have other : m.arrival ≠ n.arrival := fun eq => fresh (eq ▸ List.mem_map_of_mem later)
      rw [List.map_cons, if_neg other]
      simp only [List.map_cons, List.sum_cons]
      rw [ih later rest]
      omega

/-- A commanded move counts as one more outstanding (R118). -/
theorem commanded_queueOp (hl : (h.queue.map QEntry.arrival).Nodup) :
    (queueOp x dir .command h).commanded = h.commanded + 1 := by
  cases hn : h.entry x dir with
  | none =>
    rw [queueOp_joined hn fun _ => Requester.noConfusion]
    unfold Hall.commanded
    rw [joinQueue_queue]
    simp [QEntry.joining, QEntry.attach]
  | some n =>
    rw [queueOp_attached hn]
    exact sum_map_attach (entry_mem hn) hl

/-! MOVE CROSSPOINT (R118). -/

section requests

variable {a c p : Byte}

/-- The bytes of a crosspoint and what follows them. -/
theorem xpOf_bytes {l : List Byte} : xpOf (byteAt (BitVec.ofNat 8 x.tx.val :: BitVec.ofNat 8 x.row.val :: l) 0)
    (byteAt (BitVec.ofNat 8 x.tx.val :: BitVec.ofNat 8 x.row.val :: l) 1) = some x := by
  unfold xpOf
  rw [byteAt_zero, byteAt_succ, byteAt_zero, below_ofNat (by decide) x.tx, below_ofNat (by decide) x.row]

theorem xpOf_none {i j : Nat} (w : 15 < i ∨ 25 < j) : xpOf i j = none := by
  unfold xpOf
  obtain hi | hj := w
  · rw [below_eq_none hi]
  · rw [below_eq_none hj]
    cases below 16 i <;> rfl

theorem dirOf_none {i : Nat} (close : i ≠ 1) (opens : i ≠ 2) : dirOf i = none := by
  unfold dirOf
  split
  · exact absurd rfl close
  · exact absurd rfl opens
  · rfl

theorem declaredOf_none {i : Nat} (w : 1 < i) : declaredOf i = none := by
  unfold declaredOf
  split <;> first | omega | rfl

theorem moveCrosspointRule_field (w : 15 < a.toNat ∨ 25 < p.toNat ∨ (c.toNat ≠ 1 ∧ c.toNat ≠ 2)) :
    moveCrosspointRule [a, p, c] s = refuse .field := by
  unfold moveCrosspointRule
  simp only [byteAt_zero, byteAt_succ]
  rw [← or_assoc] at w
  obtain hx | ⟨close, opens⟩ := w
  · rw [xpOf_none hx]
  · rw [dirOf_none close opens]
    cases xpOf a.toNat p.toNat <;> rfl

theorem clearCrosspointRule_field (w : 15 < a.toNat ∨ 25 < p.toNat ∨ 1 < c.toNat) :
    clearCrosspointRule [a, p, c] s = refuse .field := by
  unfold clearCrosspointRule
  simp only [byteAt_zero, byteAt_succ]
  rw [← or_assoc] at w
  obtain hx | hc := w
  · rw [xpOf_none hx]
  · rw [declaredOf_none hc]
    cases xpOf a.toNat p.toNat <;> rfl

theorem moveCrosspointRule_busy (hc : dirOf c.toNat = some dir) (busy : 4 ≤ s.hall.commanded ∨ s.hall.res x.row = .exercise) :
    moveCrosspointRule [BitVec.ofNat 8 x.tx.val, BitVec.ofNat 8 x.row.val, c] s = refuse .busy := by
  unfold moveCrosspointRule
  rw [xpOf_bytes]
  simp only [byteAt_succ, byteAt_zero, hc]
  split
  · rfl
  · next free => exact if_pos (busy.resolve_left free)

theorem moveCrosspointRule_taken (hc : dirOf c.toNat = some dir)
    (free : ¬(4 ≤ s.hall.commanded ∨ s.hall.res x.row = .exercise)) :
    moveCrosspointRule [BitVec.ofNat 8 x.tx.val, BitVec.ofNat 8 x.row.val, c] s =
      acceptEvent s false { s with hall := queueOp x dir .command s.hall } fun s => b1 s.hall.commanded := by
  unfold moveCrosspointRule
  rw [not_or] at free
  rw [xpOf_bytes]
  simp only [byteAt_succ, byteAt_zero, hc]
  rw [if_neg free.1, if_neg free.2]

/-! CLEAR CROSSPOINT (R117). -/

/-- The BUSY conditions of a declaration, one by one (R117). -/
def DeclareBusy (s : State) (x : Xp) (closed : Bool) : Prop :=
  rfOff s.env s.hall x.tx = false ∨ (∃ n ∈ s.hall.queue, n.xp = x) ∨
    (closed = true ∧ ((∃ y ∈ otherXps x, (s.hall.xp y).pos = .closed) ∨
      (s.hall.res x.row ≠ .free ∧ s.hall.res x.row ≠ .parked x.tx))) ∨
    (closed = false ∧ (s.hall.res x.row = .claimed x.tx ∨ s.hall.res x.row = .connected x.tx))

theorem barsClosed_iff {w : Reservation} {u : Tx} : w.barsClosed u = true ↔ w ≠ .free ∧ w ≠ .parked u := by
  cases w <;> simp [Reservation.barsClosed]

theorem clearBusy_iff {closed : Bool} : clearBusy s.env s.hall x closed = true ↔ DeclareBusy s x closed := by
  unfold clearBusy DeclareBusy
  cases closed <;> simp [Hall.busyXp, barsClosed_iff, or_assoc]

/-- The position that is declared. -/
def declaredPos (closed : Bool) : Pos := if closed then .closed else .opened

theorem declaredPos_closed {closed : Bool} : (declaredPos closed == .closed) = closed := by cases closed <;> rfl

section clear

variable {closed : Bool}

theorem declaredOf_byte (w : (closed = true ∧ c = 1) ∨ (closed = false ∧ c = 0)) :
    declaredOf c.toNat = some (declaredPos closed) := by
  obtain ⟨rfl, rfl⟩ | ⟨rfl, rfl⟩ := w <;> rfl

theorem clearCrosspointRule_busy (hc : declaredOf c.toNat = some (declaredPos closed)) (busy : DeclareBusy s x closed) :
    clearCrosspointRule [BitVec.ofNat 8 x.tx.val, BitVec.ofNat 8 x.row.val, c] s = refuse .busy := by
  unfold clearCrosspointRule
  rw [xpOf_bytes]
  simp only [byteAt_succ, byteAt_zero, hc]
  rw [declaredPos_closed]
  exact if_pos (clearBusy_iff.2 busy)

theorem clearCrosspointRule_taken (hc : declaredOf c.toNat = some (declaredPos closed)) (free : ¬DeclareBusy s x closed) :
    clearCrosspointRule [BitVec.ofNat 8 x.tx.val, BitVec.ofNat 8 x.row.val, c] s =
      acceptEvent s false { s with hall := declarePos x (declaredPos closed) s.hall } fun s =>
        b1 (s.hall.xp x).pos.code ++ bBool (s.hall.rowBlocked x.row) ++ bBool (s.hall.columnBlocked x.tx) := by
  unfold clearCrosspointRule
  rw [xpOf_bytes]
  simp only [byteAt_succ, byteAt_zero, hc]
  rw [declaredPos_closed]
  exact if_neg fun busy => free (clearBusy_iff.1 busy)

end clear

end requests

/-- A crosspoint whose position is declared (R117). -/
def XpRec.declared (p : Pos) (w : XpRec) : XpRec := { w with pos := p, stuck := false, last := .none }

theorem reportRow_xps : (reportRow r h).xps = h.xps := by
  unfold reportRow
  split <;> rfl

theorem settleRow_xps : (settleRow r h).xps = h.xps := by
  unfold settleRow
  split
  · rfl
  · exact reportRow_xps

theorem declarePos_xps {p : Pos} : (declarePos x p h).xps = (h.modXp x (.declared p)).xps := by
  unfold declarePos
  dsimp only
  split
  · exact reportRow_xps
  all_goals
    split
    · exact settleRow_xps
    · rfl

theorem declarePos_xp {p : Pos} : (declarePos x p h).xp y = if x = y then (h.xp y).declared p else h.xp y := by
  have xps : (declarePos x p h).xp y = (h.modXp x (.declared p)).xp y := by unfold Hall.xp; rw [declarePos_xps]
  rw [xps, Hall.modXp_xp]

theorem declarePos_base {p : Pos} : (declarePos x p h).base = h.base := by
  have matrix : MatrixOnly h (declarePos x p h) := by
    have declared : MatrixOnly h (h.modXp x (.declared p)) := ⟨rfl⟩
    have parked : MatrixOnly (h.modXp x (.declared p)) ((h.modXp x (.declared p)).setRes x.row (.parked x.tx)) := ⟨rfl⟩
    unfold declarePos
    dsimp only
    split
    · exact (declared.trans parked).trans (reportRow_matrix _)
    all_goals exact declared.trans (.ite (settleRow_matrix _) (.refl _))
  rw [matrix.eq]
  rfl

theorem reportRow_rows : (reportRow r h).rows = h.rows := by
  unfold reportRow
  split <;> rfl

theorem declarePos_parked : (declarePos x .closed h).res x.row = .parked x.tx := by
  unfold declarePos Hall.res
  dsimp only
  rw [reportRow_rows]
  unfold Hall.setRes
  dsimp only
  rw [Tab.get_modify_same]

theorem queueOp_base : (queueOp x dir z h).base = h.base := by
  rw [(queueOp_matrix x dir z).eq]
  rfl

/-- MOVE CROSSPOINT as O51 says it. -/
theorem moveCrosspoint_spec (w : Received s) (mode : s.env.mode = .config) {c : Byte} (hc : dirOf c.toNat = some dir) :
    let p := [BitVec.ofNat 8 x.tx.val, BitVec.ofNat 8 x.row.val, c]
    let after := queueOp x dir .command s.hall
    if 4 ≤ s.hall.commanded ∨ s.hall.res x.row = .exercise then RefusedWith (.moveCrosspoint p) .busy s
    else
      (∃ t, exec (.moveCrosspoint p) s = .next t ∧ AnswersOk s t [BitVec.ofNat 8 t.hall.commanded] ∧ OnlyDue s t ∧
        t.hall.base = s.hall.base ∧ StuckKept s.hall t.hall ∧ Concludes s { s with hall := after } t) ∧
      ((s.hall.queue.map QEntry.arrival).Nodup → after.commanded = s.hall.commanded + 1) ∧
      ((∀ n ∈ s.hall.queue, n.xp = x → n.dir ≠ dir) →
        ∃ n : QEntry, after.queue = s.hall.queue ++ [n] ∧ n.xp = x ∧ n.dir = dir ∧ n.commands = 1 ∧ n.reqs = [] ∧
          n.exercise = false ∧ n.inFlight = false) := by
  intro p after
  split
  · next busy => exact refused_rule w rfl rfl (configMode_of mode) (moveCrosspointRule_busy hc busy)
  · next free =>
    obtain ⟨t, u, next, hall, answers, due, base, concludes, -⟩ := concluded_slots (c := .moveCrosspoint p) w rfl rfl
      (configMode_of mode) (moveCrosspointRule_taken hc free)
    rw [hall] at answers
    refine ⟨⟨t, next, answers, due, base.trans queueOp_base, ?_, concludes⟩, commanded_queueOp, fun alone => ?_⟩
    · refine StuckKept.concludes (fun y => ?_) concludes
      exact congrArg (fun xps => ((xps.get y.row).get y.tx).stuck) queueOp_xps
    · refine ⟨.joining x dir .command s.hall.arrivals, ?_, rfl, rfl, rfl, rfl, rfl, rfl⟩
      show (queueOp x dir .command s.hall).queue = _
      rw [queueOp_joined (entry_none alone) fun _ => Requester.noConfusion, joinQueue_queue]

/-- CLEAR CROSSPOINT as O51 says it. -/
theorem clearCrosspoint_spec (w : Received s) {closed : Bool} {c : Byte}
    (hc : declaredOf c.toNat = some (declaredPos closed)) :
    let p := [BitVec.ofNat 8 x.tx.val, BitVec.ofNat 8 x.row.val, c]
    let after := declarePos x (declaredPos closed) s.hall
    (DeclareBusy s x closed → RefusedWith (.clearCrosspoint p) .busy s) ∧
    (¬DeclareBusy s x closed →
      (∃ t, exec (.clearCrosspoint p) s = .next t ∧ OnlyDue s t ∧ t.hall.base = s.hall.base ∧
        AnswersOk s t [BitVec.ofNat 8 (t.hall.xp x).pos.code, if t.hall.rowBlocked x.row then 1 else 0,
          if t.hall.columnBlocked x.tx then 1 else 0] ∧
        (t.hall.xp x).stuck = false ∧ (∀ y : Xp, y ≠ x → (t.hall.xp y).stuck = (s.hall.xp y).stuck) ∧
        Concludes s { s with hall := after } t) ∧
      (after.xp x).pos = declaredPos closed ∧ (after.xp x).last = .none ∧
      (closed = true → after.res x.row = .parked x.tx)) := by
  intro p after
  refine ⟨fun busy => refused_rule w rfl rfl rfl (clearCrosspointRule_busy hc busy), fun free => ⟨?_, ?_, ?_, ?_⟩⟩
  · obtain ⟨t, u, next, hall, answers, due, base, concludes, -⟩ := concluded_slots (c := .clearCrosspoint p) w rfl rfl rfl
      (clearCrosspointRule_taken hc free)
    rw [hall, bBool_eq, bBool_eq] at answers
    refine ⟨t, next, due, base.trans declarePos_base, answers, ?_, fun y hy => ?_, concludes⟩
    · rw [concludes.stuck]
      dsimp only
      rw [declarePos_xp, if_pos rfl]
      rfl
    · rw [concludes.stuck]
      dsimp only
      rw [declarePos_xp, if_neg hy.symm]
  · show ((declarePos x (declaredPos closed) s.hall).xp x).pos = _
    rw [declarePos_xp, if_pos rfl]
    rfl
  · show ((declarePos x (declaredPos closed) s.hall).xp x).last = _
    rw [declarePos_xp, if_pos rfl]
    rfl
  · rintro rfl
    exact declarePos_parked

/-- Settles O51. -/
theorem crosspointRequests : Obligations.CrosspointRequests := by
  intro s x w
  refine ⟨fun a b c => ⟨fun mode field => ?_, fun field => ?_⟩, fun dir b mode hb => ?_, fun closed b hb => ?_⟩
  · exact refused_rule w rfl rfl (configMode_of mode) (moveCrosspointRule_field field)
  · exact refused_rule w rfl rfl rfl (clearCrosspointRule_field field)
  · have hc : dirOf b.toNat = some dir := by obtain ⟨rfl, rfl⟩ | ⟨rfl, rfl⟩ := hb <;> rfl
    exact moveCrosspoint_spec w mode hc
  · exact clearCrosspoint_spec w (declaredOf_byte hb)

end Sys2Proof.Machine
end

section
/-! PROOFS. The ends of a move in flight (O50). -/

namespace Sys2Proof.Machine

variable {s t : State} {e : Env} {h g : Hall} {x y : Xp} {u : Tx} {r : Row} {dir : Dir} {n m : QEntry} {z : Requester}
  {c : Prop} {w : XpRec} {P : Nat → Prop} {why : XpResult}

/-! What the end of a move leaves of its crosspoint and of the queue. Where `c` holds no queued entry is of the
crosspoint; the arrivals of the entries in flight meet `P`. -/

/-- An entry of a queue that has lost what ended. -/
def QEntry.Fits (c : Prop) (x : Xp) (P : Nat → Prop) (n : QEntry) : Prop :=
  (n.inFlight = true → P n.arrival) ∧ (n.inFlight = false → c → n.xp ≠ x)

/-- A crosspoint that reads `w`, and the queue. -/
structure Ended (c : Prop) (x : Xp) (w : XpRec) (P : Nat → Prop) (h : Hall) : Prop where
  own : h.xp x = w
  stuck : c → w.stuck = true
  fits : ∀ n ∈ h.queue, n.Fits c x P

namespace Ended

theorem same (k : Ended c x w P h) (xps : g.xps = h.xps) (queue : g.queue = h.queue) : Ended c x w P g :=
  ⟨by rw [← k.own]; unfold Hall.xp; rw [xps], k.stuck, by rw [queue]; exact k.fits⟩

theorem ite {b : Prop} [Decidable b] {f : Hall} (k : Ended c x w P f) (l : Ended c x w P g) :
    Ended c x w P (if b then f else g) := by
  split <;> assumption

theorem foldl {β : Type} {f : Hall → β → Hall} {l : List β} (k : Ended c x w P h)
    (hf : ∀ h, ∀ b ∈ l, Ended c x w P h → Ended c x w P (f h b)) : Ended c x w P (l.foldl f h) := by
  induction l generalizing h with
  | nil => exact k
  | cons b l ih => exact ih (hf h b (List.mem_cons_self ..) k) fun h b hb => hf h b (List.mem_cons_of_mem _ hb)

theorem setLast (k : Ended c x w P h) (hy : y ≠ x) : Ended c x w P (h.setLast y why) :=
  ⟨by rw [Hall.setLast, Hall.modXp_xp, if_neg hy, k.own], k.stuck, k.fits⟩

theorem dropEntry {i : Nat} (k : Ended c x w P h) : Ended c x w P (h.dropEntry i) :=
  ⟨k.own, k.stuck, fun n hn => k.fits n (List.mem_of_mem_filter hn)⟩

theorem modEntry {i : Nat} {f : QEntry → QEntry} (k : Ended c x w P h)
    (hf : ∀ n ∈ h.queue, n.arrival = i → (f n).Fits c x P) : Ended c x w P (h.modEntry i f) := by
  refine ⟨k.own, k.stuck, fun n hn => ?_⟩
  obtain ⟨m, hm, rfl⟩ := List.mem_map.1 hn
  split
  · next eq => exact hf m hm eq
  · exact k.fits m hm

theorem joinQueue (k : Ended c x w P h) (hy : c → y ≠ x) : Ended c x w P (joinQueue y dir z h) := by
  refine ⟨k.own, k.stuck, fun n hn => ?_⟩
  obtain old | new := List.mem_append.1 hn
  · exact k.fits n old
  · rw [List.mem_singleton.1 new]
    cases z <;> exact ⟨fun yes => Bool.noConfusion yes, fun _ => hy⟩

theorem attach (k : n.Fits c x P) : (n.attach z).Fits c x P := by cases z <;> exact k

theorem queueOp (k : Ended c x w P h) (hy : c → y ≠ x) : Ended c x w P (queueOp y dir z h) := by
  unfold Machine.queueOp
  split
  · exact k.modEntry fun m hm _ => attach (k.fits m hm)
  · split
    · exact k.same rfl rfl
    · exact k.joinQueue hy
  all_goals exact k.joinQueue hy

theorem reportRow (k : Ended c x w P h) : Ended c x w P (reportRow r h) := by
  unfold Machine.reportRow
  exact .ite (k.same rfl rfl) k

theorem settleRow (k : Ended c x w P h) : Ended c x w P (settleRow r h) := by
  unfold Machine.settleRow
  exact .ite k (reportRow (k.same (g := h.setRes r (settledAs h r)) rfl rfl))

theorem sweepReach (k : Ended c x w P h) : Ended c x w P (sweepReach e h) := by
  have ended {f : SweepResult} {g : Hall} (k : Ended c x w P g) : Ended c x w P (endSweep f g) := k.same rfl rfl
  unfold Machine.sweepReach
  split
  · exact ended k
  · split
    · next j found =>
      refine queueOp (k.same rfl rfl) fun clear eq => ?_
      have free := List.find?_some found
      have stuck : (h.xp x).stuck = true := by rw [k.own]; exact k.stuck clear
      rw [eq] at free
      simp [exercisable, stuck] at free
    · exact ended (k.same rfl rfl)

theorem endExercise {f : ExResult} (k : Ended c x w P h) : Ended c x w P (endExercise e f h) := by
  have written : Ended c x w P (writeExercise f h) := k.same rfl rfl
  unfold Machine.endExercise
  dsimp only
  split
  · exact written
  · split
    · exact sweepReach (written.same rfl rfl)
    · exact written.same rfl rfl
    · exact written.same rfl rfl

theorem exerciseFailed (k : Ended c x w P h) : Ended c x w P (exerciseFailed e why h) :=
  endExercise (settleRow (k.same (g := h.setRes h.exercise.xp.row .free) rfl rfl))

/-! What a withdrawal leaves; it needs a crosspoint that no queued entry is of. -/

theorem withdrawEntry (k : Ended True x w P h) (fit : n.Fits True x P) : Ended True x w P (withdrawEntry e u h n) := by
  have dropped (queued : ¬n.inFlight = true) : Ended True x w P ((h.dropEntry n.arrival).setLast n.xp .withdrawn) :=
    k.dropEntry.setLast (fit.2 (Bool.eq_false_of_not_eq_true queued) trivial)
  have withdrawn (m : QEntry) (fit' : ∀ l, QEntry.Fits True x P { m with reqs := l }) : Ended True x w P
      (if n.inFlight || m.wanted then h.modEntry n.arrival fun _ => m
      else
        match n.dir, inheritor e h u n.xp with
        | .openIt, some q => h.modEntry n.arrival fun _ => { m with reqs := [q] }
        | .openIt, none => (h.dropEntry n.arrival).setLast n.xp .withdrawn
        | .close, _ => (h.dropEntry n.arrival).setLast n.xp .withdrawn) := by
    split
    · exact k.modEntry fun _ _ _ => fit' m.reqs
    · next left =>
      have queued : ¬n.inFlight = true := fun yes => left (by simp [yes])
      split
      · exact k.modEntry fun _ _ _ => fit' _
      · exact dropped queued
      · exact dropped queued
  exact withdrawn _ fun _ => fit

theorem withdrawOps (k : Ended True x w P h) : Ended True x w P (withdrawOps e u h) :=
  .foldl (.foldl k fun _ n hn k' => k'.withdrawEntry (k.fits n (List.mem_of_mem_filter hn))) fun _ _ _ k => k.settleRow

theorem withdrawClaim (k : Ended True x w P h) : Ended True x w P (withdrawClaim e u h) := by
  unfold Machine.withdrawClaim
  split
  · exact k.withdrawOps
  · next f _ =>
    have left : Ended True x w P ((h.setWaiting f.row ((h.rows.get f.row).waiting.filter fun q => q.tx != u)).setClaim
      u none) := k.same rfl rfl
    exact .foldl (settleRow (left.withdrawOps.same rfl rfl)) fun _ _ _ k => k.settleRow

theorem failClaim (k : Ended True x w P h) : Ended True x w P (failClaim e u h) := by
  unfold Machine.failClaim
  exact .ite (k.withdrawClaim.same rfl rfl) k.withdrawOps

theorem failTold {gone : List QEntry} (k : Ended True x w P h) : Ended True x w P (failTold e why gone h) := by
  have told : Ended True x w P (gone.foldl (fun h n => n.reqs.foldl (failRequester e why) h) h) :=
    .foldl k fun _ _ _ k => .foldl k fun _ _ _ k => .ite k.withdrawClaim k.failClaim
  exact .ite told.exerciseFailed told

theorem failEntry (k : Ended True x w P h) : Ended True x { w with last := why } (· ≠ n.arrival)
    ((h.dropEntry n.arrival).setLast x why) := by
  refine ⟨?_, k.stuck, fun m hm => ⟨fun _ => ?_, (k.fits m (List.mem_of_mem_filter hm)).2⟩⟩
  · rw [Hall.setLast, Hall.modXp_xp, if_pos rfl]
    exact congrArg (fun w : XpRec => { w with last := why }) k.own
  · simpa using (List.mem_filter.1 hm).2

end Ended

/-! A crosspoint made STUCK (R116). -/

/-- The STUCK flag set. -/
def setStuck (x : Xp) (h : Hall) : Hall := h.modXp x fun w => { w with stuck := true }

theorem mem_failGone {gone : List QEntry} (hm : m ∈ (failGone why gone h).queue) :
    m ∈ h.queue ∧ ∀ n ∈ gone, m.arrival ≠ n.arrival := by
  induction gone generalizing h with
  | nil => exact ⟨hm, fun _ hn => absurd hn List.not_mem_nil⟩
  | cons n gone ih =>
    obtain ⟨kept, other⟩ := ih hm
    have kept : m ∈ h.queue.filter fun m => m.arrival != n.arrival := kept
    obtain ⟨old, ne⟩ := List.mem_filter.1 kept
    exact ⟨old, List.forall_mem_cons.2 ⟨by simpa using ne, other⟩⟩

theorem failGone_stuck {gone : List QEntry} : ((failGone why gone h).xp y).stuck = (h.xp y).stuck ∧
    ((failGone why gone h).xp y).pos = (h.xp y).pos := by
  induction gone generalizing h with
  | nil => exact ⟨rfl, rfl⟩
  | cons n gone ih =>
    obtain ⟨stuck, pos⟩ := ih (h := (h.dropEntry n.arrival).setLast n.xp why)
    refine ⟨stuck.trans ?_, pos.trans ?_⟩ <;> rw [Hall.setLast, Hall.modXp_xp] <;> split <;> rfl

/-- The hall when the entries beside a crosspoint made STUCK have left the queue (R116). -/
def besideGone (x : Xp) (h : Hall) : Hall :=
  failGone .blocked (h.queue.filter fun n => !n.inFlight && (n.xp.row == x.row || n.xp.tx == x.tx))
    (raiseNotice .stuck (setStuck x h))

theorem besideGone_own : ((besideGone x h).xp x).stuck = true ∧ ((besideGone x h).xp x).pos = (h.xp x).pos := by
  have own : ((raiseNotice .stuck (setStuck x h)).xp x) = { h.xp x with stuck := true } :=
    (Hall.modXp_xp ..).trans (if_pos rfl)
  obtain ⟨stuck, pos⟩ := failGone_stuck (why := .blocked) (y := x) (h := raiseNotice .stuck (setStuck x h))
    (gone := h.queue.filter fun n => !n.inFlight && (n.xp.row == x.row || n.xp.tx == x.tx))
  exact ⟨stuck.trans (by rw [own]), pos.trans (by rw [own])⟩

/-- When a crosspoint has been made STUCK no queued entry is of it. -/
theorem makeStuck_ended : Ended True x ((besideGone x h).xp x) (fun _ => True) (makeStuck e x h) := by
  have first : Ended True x ((besideGone x h).xp x) (fun _ => True) (besideGone x h) := by
    refine ⟨rfl, fun _ => besideGone_own.1, fun m hm => ⟨fun _ => trivial, fun queued _ eq => ?_⟩⟩
    obtain ⟨old, other⟩ := mem_failGone hm
    exact other m (List.mem_filter.2 ⟨old, by simp [queued, eq]⟩) rfl
  exact .foldl (.foldl first.failTold fun _ _ _ k => k.settleRow) fun _ _ _ k => k.failClaim

/-- What an entry that has failed beside its STUCK crosspoint leaves of crosspoint and queue. -/
theorem failEntry_ended (flying : n.inFlight = true) (k : Ended True n.xp w (fun _ => True) h) :
    ((failEntry e why n h).xp n.xp).pos = w.pos ∧ ((failEntry e why n h).xp n.xp).last = why ∧
      n ∉ (failEntry e why n h).queue := by
  have k' : Ended True n.xp { w with last := why } (· ≠ n.arrival) (failEntry e why n h) :=
    (k.failEntry (n := n) (why := why)).failTold.settleRow
  exact ⟨by rw [k'.own], by rw [k'.own], fun mem => (k'.fits n mem).1 flying rfl⟩

theorem setPos_pos {p : Pos} : ((h.setPos x p).xp x).pos = p := by
  rw [Hall.setPos, Hall.modXp_xp, if_pos rfl]

theorem failMove_ended (flying : n.inFlight = true) : ((failMove e why n h).xp n.xp).pos = .unknown ∧
    ((failMove e why n h).xp n.xp).last = why ∧ n ∉ (failMove e why n h).queue := by
  obtain ⟨pos, rest⟩ := failEntry_ended (e := e) (why := why) flying
    (makeStuck_ended (e := e) (x := n.xp) (h := h.setPos n.xp .unknown))
  exact ⟨pos.trans (besideGone_own.2.trans setPos_pos), rest⟩

theorem hotSwitch_ended (flying : n.inFlight = true) : ((hotSwitch e n h).xp n.xp).pos = (h.xp n.xp).pos ∧
    ((hotSwitch e n h).xp n.xp).last = .hotSwitch ∧ n ∉ (hotSwitch e n h).queue := by
  obtain ⟨pos, rest⟩ := failEntry_ended (e := e) (why := .hotSwitch) flying
    (makeStuck_ended.same (g := raiseNotice .hotSwitch (makeStuck e n.xp h)) rfl rfl)
  exact ⟨pos.trans besideGone_own.2, rest⟩

/-! A confirmed move (R114). -/

theorem exerciseConfirmed_ended (k : Ended False x w P h) : Ended False x w P (exerciseConfirmed e n h) := by
  unfold exerciseConfirmed exerciseClosed exerciseOpened
  split
  · split
    · exact .ite k.exerciseFailed (Ended.queueOp (k.same rfl rfl) False.elim)
    · exact (Ended.reportRow (k.same (g := h.setRes h.exercise.xp.row .free) rfl rfl)).endExercise
  · exact k

theorem tellConnected_queue : (tellConnected u h).queue = h.queue := by
  unfold tellConnected
  dsimp only
  split <;> rfl

theorem tellConnected_xps : (tellConnected u h).xps = h.xps := by
  unfold tellConnected
  dsimp only
  split <;> rfl

theorem connectClosed_ended (k : Ended c x w P h) : Ended c x w P (connectClosed n h) := by
  unfold connectClosed
  split
  · exact .ite (k.same tellConnected_xps tellConnected_queue) k
  · exact k

theorem doneMove_ended (flying : n.inFlight = true) : ((doneMove e n h).xp n.xp).pos = (h.xp n.xp).pos ∧
    ((doneMove e n h).xp n.xp).last = .done ∧ n ∉ (doneMove e n h).queue := by
  have dropped : Ended False n.xp { h.xp n.xp with last := .done } (· ≠ n.arrival)
      ((h.dropEntry n.arrival).setLast n.xp .done) := by
    refine ⟨?_, False.elim, fun m hm => ⟨fun _ => ?_, fun _ => False.elim⟩⟩
    · rw [Hall.setLast, Hall.modXp_xp, if_pos rfl]
      rfl
    · simpa using (List.mem_filter.1 hm).2
  have followed {g : Hall} (k : Ended False n.xp { h.xp n.xp with last := .done } (· ≠ n.arrival) g) :
      Ended False n.xp { h.xp n.xp with last := .done } (· ≠ n.arrival) (match n.followOpen with
        | some q => queueOp n.xp .openIt (.claim q) g
        | none => g) := by
    split
    · exact k.queueOp False.elim
    · exact k
  have k : Ended False n.xp { h.xp n.xp with last := .done } (· ≠ n.arrival) (doneMove e n h) :=
    (exerciseConfirmed_ended (followed (connectClosed_ended dropped))).settleRow
  exact ⟨by rw [k.own], by rw [k.own], fun mem => (k.fits n mem).1 flying rfl⟩

theorem confirmMove_ended (flying : n.inFlight = true) :
    ((confirmMove e n h).xp n.xp).pos = n.dir.position ∧
    ((confirmMove e n h).xp n.xp).last = (if (h.xp n.xp).rfSeen then .hotSwitch else .done) ∧
    n ∉ (confirmMove e n h).queue := by
  unfold confirmMove
  dsimp only
  split
  · obtain ⟨pos, rest⟩ := hotSwitch_ended (e := e) (h := resetAge n.xp (h.setPos n.xp n.dir.position)) flying
    exact ⟨pos.trans setPos_pos, rest⟩
  · obtain ⟨pos, rest⟩ := doneMove_ended (e := e) (h := resetAge n.xp (h.setPos n.xp n.dir.position)) flying
    exact ⟨pos.trans setPos_pos, rest⟩

/-! What the ends of a move keep. -/

section keep

variable {Q : Hall → Prop}

theorem makeStuck_keeps (k : Stays e Q (raiseNotice .stuck (setStuck x h))) : Stays e Q (makeStuck e x h) :=
  foldl_stays _ _ (failEntries_stays _ _ k) fun _ _ => failClaim_stays _

theorem failMove_keeps (k : Stays e Q (raiseNotice .stuck (setStuck n.xp (h.setPos n.xp .unknown)))) :
    Stays e Q (failMove e why n h) := failEntry_stays _ _ (makeStuck_keeps k)

theorem hotSwitch_keeps (k : Stays e Q (raiseNotice .stuck (setStuck n.xp h))) : Stays e Q (hotSwitch e n h) :=
  failEntry_stays _ _ (raiseNotice_stays _ (makeStuck_keeps k))

theorem connectClosed_keeps (k : Stays e Q h) : Stays e Q (connectClosed n h) := by
  unfold connectClosed
  split
  · exact ite_stays (tellConnected_stays _ (setRes_stays _ _ k)) k
  · exact k

theorem exerciseConfirmed_keeps (k : Stays e Q h) : Stays e Q (exerciseConfirmed e n h) := by
  unfold exerciseConfirmed
  split
  · split
    · exact exerciseClosed_stays k
    · exact exerciseOpened_stays k
  · exact k

theorem doneMove_keeps (k : Stays e Q h) : Stays e Q (doneMove e n h) := by
  have dropped : Stays e Q ((h.dropEntry n.arrival).setLast n.xp .done) := setLast_stays _ _ (dropEntry_stays _ k)
  have followed {g : Hall} (k : Stays e Q g) : Stays e Q (match n.followOpen with
      | some q => queueOp n.xp .openIt (.claim q) g
      | none => g) := by
    split
    · exact queueOp_stays _ _ _ k
    · exact k
  exact settleRow_stays _ (exerciseConfirmed_keeps (followed (connectClosed_keeps dropped)))

end keep

/-- A crosspoint made STUCK at a position: another one keeps its flag, its own is set. -/
theorem setStuck_stuck : ((setStuck x h).xp y).stuck = if x = y then true else (h.xp y).stuck := by
  rw [setStuck, Hall.modXp_xp]
  split <;> rfl

theorem setPos_stuck {p : Pos} : ((h.setPos x p).xp y).stuck = (h.xp y).stuck := by
  rw [Hall.setPos, Hall.modXp_xp]
  split <;> rfl

/-- What a failed end of a move leaves (R115, R116). -/
structure MoveFailed (x : Xp) (h g : Hall) : Prop where
  base : g.base = h.base
  links : ∀ u, SameLink (h.links.get u) (g.links.get u)
  own : (g.xp x).stuck = true
  notice : g.noticeSet .stuck = true
  others : ∀ y, y ≠ x → (g.xp y).stuck = (h.xp y).stuck

theorem failMove_failed : MoveFailed n.xp h (failMove e why n h) where
  base := (failMove_keeps ⟨base_stable h.base, rfl⟩).holds
  links := fun u => (failMove_keeps ⟨link_stable u _, rfl, rfl, rfl⟩).holds
  own := (failMove_keeps ⟨stuck_stable _ true, setStuck_stuck.trans (if_pos rfl)⟩).holds
  notice := (failMove_keeps ⟨notice_stable .stuck, noticeSet_raised ..⟩).holds
  others := fun y hy => (failMove_keeps ⟨stuck_stable y _,
    (setStuck_stuck.trans (if_neg hy.symm)).trans setPos_stuck⟩).holds

theorem hotSwitch_failed : MoveFailed n.xp h (hotSwitch e n h) where
  base := (hotSwitch_keeps ⟨base_stable h.base, rfl⟩).holds
  links := fun u => (hotSwitch_keeps ⟨link_stable u _, rfl, rfl, rfl⟩).holds
  own := (hotSwitch_keeps ⟨stuck_stable _ true, setStuck_stuck.trans (if_pos rfl)⟩).holds
  notice := (hotSwitch_keeps ⟨notice_stable .stuck, noticeSet_raised ..⟩).holds
  others := fun y hy => (hotSwitch_keeps ⟨stuck_stable y _, setStuck_stuck.trans (if_neg hy.symm)⟩).holds

theorem hotSwitch_notice : (hotSwitch e n h).noticeSet .hotSwitch = true :=
  (failEntry_stays .hotSwitch n (h := raiseNotice .hotSwitch (makeStuck e n.xp h))
    ⟨notice_stable .hotSwitch, noticeSet_raised ..⟩).holds

/-! The age of a crosspoint that has moved (R185). -/

theorem resetAge_age : (resetAge x h).age y = if y = x then 0 else h.age y := by
  unfold resetAge Hall.age
  dsimp only
  rw [Tab.get_modify]
  obtain ⟨tx, row⟩ := x
  obtain ⟨tx', row'⟩ := y
  by_cases hr : row = row'
  · subst hr
    by_cases ht : tx = tx'
    · subst ht
      simp
    · simp [ht, Ne.symm ht]
  · simp [hr, Ne.symm hr]

theorem age_of_base (w : g.base = h.base) : g.age y = h.age y :=
  congrArg (fun b : Base => (b.ages.get y.row).get y.tx) w

/-- The hall as a confirmed move takes it up (R114). -/
def arrived (n : QEntry) (h : Hall) : Hall := resetAge n.xp (h.setPos n.xp n.dir.position)

theorem confirmMove_hot (hot : (h.xp n.xp).rfSeen = true) : confirmMove e n h = hotSwitch e n (arrived n h) := if_pos hot

theorem confirmMove_cold (cold : (h.xp n.xp).rfSeen = false) : confirmMove e n h = doneMove e n (arrived n h) :=
  if_neg (ne_true_of_eq_false cold)

theorem arrived_stuck : ((arrived n h).xp y).stuck = (h.xp y).stuck := setPos_stuck

theorem confirmMove_base : (confirmMove e n h).base = (arrived n h).base := by
  cases hot : (h.xp n.xp).rfSeen
  · rw [confirmMove_cold hot]
    exact (doneMove_keeps (e := e) ⟨base_stable _, rfl⟩).holds
  · rw [confirmMove_hot hot]
    exact hotSwitch_failed.base

theorem confirmMove_links : SameLink (h.links.get u) ((confirmMove e n h).links.get u) := by
  cases hot : (h.xp n.xp).rfSeen
  · rw [confirmMove_cold hot]
    exact (doneMove_keeps (e := e) ⟨link_stable u _, rfl, rfl, rfl⟩).holds
  · rw [confirmMove_hot hot]
    exact (hotSwitch_failed (h := arrived n h)).links u

theorem confirmMove_stuck (w : (h.xp n.xp).rfSeen = false ∨ y ≠ n.xp) :
    ((confirmMove e n h).xp y).stuck = (h.xp y).stuck := by
  cases hot : (h.xp n.xp).rfSeen
  · rw [confirmMove_cold hot]
    exact (doneMove_keeps (e := e) ⟨stuck_stable y _, arrived_stuck⟩).holds
  · rw [confirmMove_hot hot]
    refine (hotSwitch_failed.others y (w.resolve_left fun cold => ?_)).trans arrived_stuck
    rw [hot] at cold
    exact Bool.noConfusion cold

/-! The commands of the drive link (R114, R115, R218). -/

section reply

theorem withCheck_good {l : List Byte} : frameGood (l.length + 1) (withCheck l) = true := by
  unfold frameGood withCheck frameSum b1
  have small : (l.map BitVec.toNat).sum % 256 < 256 := Nat.mod_lt _ (by decide)
  simp only [List.length_append, List.length_singleton, List.map_append, List.map_singleton, List.sum_append,
    List.sum_singleton, BitVec.toNat_ofNat, BEq.rfl, Bool.true_and, beq_iff_eq]
  omega

theorem driveReplyOf_frame {code : Byte} : driveReplyOf (withCheck [BitVec.ofNat 8 x.tx.val, BitVec.ofNat 8 x.row.val,
    code]) = some (x, driveResultOf code.toNat) := by
  unfold driveReplyOf
  rw [show frameGood 4 _ = true from withCheck_good (l := [_, _, _]), if_pos rfl]
  simp only [withCheck, List.cons_append, byteAt_zero, byteAt_succ, below_ofNat (by decide : 16 ≤ 256) x.tx,
    below_ofNat (by decide : 26 ≤ 256) x.row]

/-- The code that confirms a move. -/
def Dir.confirming : Dir → Byte
  | .close => 1
  | .openIt => 0

theorem confirms_iff {code : Byte} : (driveResultOf code.toNat).position = some dir.position ↔ code = dir.confirming := by
  have bytes (b : Byte) : code = b ↔ code.toNat = b.toNat := BitVec.toNat_inj.symm
  unfold driveResultOf
  rw [bytes]
  cases dir <;> split <;> simp_all [DriveResult.position, Dir.position, Dir.confirming]

theorem endMove_eq {code : Byte} : endMove e n (driveResultOf code.toNat) h =
    if code = n.dir.confirming then confirmMove e n h else failMove e .fault n h := by
  unfold endMove
  by_cases confirms : code = n.dir.confirming
  · rw [if_pos confirms, if_pos (confirms_iff.2 confirms)]
  · rw [if_neg confirms, if_neg fun yes => confirms (confirms_iff.1 yes)]

theorem driveReply_other {frame : List Byte} (flying : s.hall.flying = some n)
    (other : ∀ r, driveReplyOf frame ≠ some (n.xp, r)) : exec (.driveReply frame) s = .next s := by
  show execDriveReply frame s = _
  unfold execDriveReply
  rw [flying]
  cases reply : driveReplyOf frame with
  | none => rfl
  | some y =>
    obtain ⟨y, r⟩ := y
    have ne : y ≠ n.xp := fun eq => other r (by rw [reply, eq])
    exact congrArg Host.Outcome.next (if_neg ne)

theorem driveReply_ends {code : Byte} (flying : s.hall.flying = some n) :
    exec (.driveReply (withCheck [BitVec.ofNat 8 n.xp.tx.val, BitVec.ofNat 8 n.xp.row.val, code])) s =
      .next (conclude s false { s with hall := endMove s.env n (driveResultOf code.toNat) s.hall }) := by
  show execDriveReply _ s = _
  unfold execDriveReply
  rw [flying, driveReplyOf_frame]
  exact congrArg Host.Outcome.next (if_pos rfl)

theorem travelTimeout_ends (flying : s.hall.flying = some n) : exec .travelTimeout s =
    .next (conclude s false { s with env := passTo n.timeoutAt s.env
                                     hall := failMove (passTo n.timeoutAt s.env) .timeout n s.hall }) := by
  show execTravelTimeout s = _
  unfold execTravelTimeout
  rw [flying]
  rfl

theorem still_nothing (still : s.hall.flying = none) :
    exec .travelTimeout s = .next s ∧ ∀ frame, exec (.driveReply frame) s = .next s := by
  refine ⟨?_, fun frame => ?_⟩
  · show execTravelTimeout s = _
    unfold execTravelTimeout
    rw [still]
  · show execDriveReply frame s = _
    unfold execDriveReply
    rw [still]

theorem flying_inFlight (flying : h.flying = some n) : n.inFlight = true := List.find?_some flying

end reply

/-! Each end as O50 says it. -/

/-- A settled event leaves base and links of its direct effect, hence what that kept of the hall before. -/
theorem unitsKept_of_concludes {b d : State} (base : ∃ a, d.hall.base = { h.base with ages := a }) (w : Concludes b d t) :
    t.hall.txUnit = h.txUnit ∧ t.hall.antUnit = h.antUnit := by
  obtain ⟨a, base⟩ := base
  rw [← w.base] at base
  exact ⟨congrArg Base.txUnit base, congrArg Base.antUnit base⟩

theorem linkKept_of_concludes {b d : State} (link : SameLink (h.links.get u) (d.hall.links.get u)) (w : Concludes b d t) :
    LinkKept (h.links.get u) (t.hall.links.get u) := by
  obtain ⟨telemetry, missed, state⟩ := link
  obtain ⟨telemetry', missed', state'⟩ := w.link u
  exact ⟨telemetry'.trans telemetry, missed'.trans missed, state'.trans state⟩

section ends

variable {b d : State}

/-- What a confirmed move leaves once the hall has settled (R114, R185). -/
theorem confirmMove_settled (hd : d.hall = confirmMove e n h) (w : Concludes b d t) :
    (∀ y : Xp, y ≠ n.xp → t.hall.age y = h.age y ∧ (t.hall.xp y).stuck = (h.xp y).stuck) ∧
    t.hall.age n.xp = 0 ∧ ((h.xp n.xp).rfSeen = false → StuckKept h t.hall) ∧
    ((h.xp n.xp).rfSeen = true → (t.hall.xp n.xp).stuck = true ∧ t.hall.noticeSet .stuck = true ∧
      t.hall.noticeSet .hotSwitch = true) := by
  have age (y : Xp) : t.hall.age y = (arrived n h).age y :=
    (age_of_base w.base).trans (by rw [hd]; exact age_of_base confirmMove_base)
  refine ⟨fun y hy => ⟨(age y).trans (resetAge_age.trans (if_neg hy)), ?_⟩,
    (age n.xp).trans (resetAge_age.trans (if_pos rfl)), fun cold y => ?_, fun hot => ?_⟩
  · rw [w.stuck, hd, confirmMove_stuck (.inr hy)]
  · rw [w.stuck, hd, confirmMove_stuck (.inl cold)]
  · rw [confirmMove_hot hot] at hd
    have failed := hotSwitch_failed (e := e) (n := n) (h := arrived n h)
    rw [← hd] at failed
    refine ⟨(w.stuck _).trans failed.own, w.notice failed.notice, w.notice ?_⟩
    rw [hd]
    exact hotSwitch_notice

/-- What a failed move leaves once the hall has settled (R115). -/
theorem failMove_settled (hd : d.hall = failMove e why n h) (w : Concludes b d t) : t.hall.base = h.base ∧
    (t.hall.xp n.xp).stuck = true ∧ t.hall.noticeSet .stuck = true ∧
    ∀ y : Xp, y ≠ n.xp → (t.hall.xp y).stuck = (h.xp y).stuck := by
  have failed := failMove_failed (e := e) (n := n) (h := h) (why := why)
  rw [← hd] at failed
  exact ⟨w.base.trans failed.base, (w.stuck _).trans failed.own, w.notice failed.notice,
    fun y hy => (w.stuck y).trans (failed.others y hy)⟩

end ends

theorem passTo_onlyTime {i : Nat} {f : Bool} : OnlyTime s (conclude s f { s with env := passTo i s.env, hall := h }) := by
  unfold OnlyTime
  rw [conclude_env]
  rfl

/-- A reply equal to the commanded position (R114). -/
theorem driveReply_confirms {code : Byte} (flying : s.hall.flying = some n) (yes : code = n.dir.confirming) : ∃ t,
    exec (.driveReply (withCheck [BitVec.ofNat 8 n.xp.tx.val, BitVec.ofNat 8 n.xp.row.val, code])) s = .next t ∧
    t.port = s.port ∧ OnlyDue s t ∧ Concludes s { s with hall := confirmMove s.env n s.hall } t ∧
    t.hall.txUnit = s.hall.txUnit ∧ t.hall.antUnit = s.hall.antUnit ∧
    (∀ u : Tx, LinkKept (s.hall.links.get u) (t.hall.links.get u)) ∧
    (∀ y : Xp, y ≠ n.xp → t.hall.age y = s.hall.age y ∧ (t.hall.xp y).stuck = (s.hall.xp y).stuck) ∧
    t.hall.age n.xp = 0 ∧ ((s.hall.xp n.xp).rfSeen = false → StuckKept s.hall t.hall) ∧
    ((s.hall.xp n.xp).rfSeen = true → (t.hall.xp n.xp).stuck = true ∧ t.hall.noticeSet .stuck = true ∧
      t.hall.noticeSet .hotSwitch = true) := by
  have next := driveReply_ends (code := code) flying
  rw [endMove_eq, if_pos yes] at next
  have w : Concludes s { s with hall := confirmMove s.env n s.hall } _ := ⟨false, rfl, rfl⟩
  obtain ⟨units, ants⟩ := unitsKept_of_concludes (h := s.hall) ⟨_, confirmMove_base⟩ w
  exact ⟨_, next, conclude_port .., conclude_env .., w, units, ants, fun u => linkKept_of_concludes confirmMove_links w,
    confirmMove_settled (h := s.hall) rfl w⟩

/-- Any other reply of the drive (R115). -/
theorem driveReply_fails {code : Byte} (flying : s.hall.flying = some n) (no : code ≠ n.dir.confirming) : ∃ t,
    exec (.driveReply (withCheck [BitVec.ofNat 8 n.xp.tx.val, BitVec.ofNat 8 n.xp.row.val, code])) s = .next t ∧
    t.port = s.port ∧ OnlyDue s t ∧ Concludes s { s with hall := failMove s.env .fault n s.hall } t ∧
    t.hall.txUnit = s.hall.txUnit ∧ t.hall.antUnit = s.hall.antUnit ∧
    (∀ u : Tx, LinkKept (s.hall.links.get u) (t.hall.links.get u)) ∧
    (∀ y : Xp, y ≠ n.xp → t.hall.age y = s.hall.age y ∧ (t.hall.xp y).stuck = (s.hall.xp y).stuck) ∧
    t.hall.age n.xp = s.hall.age n.xp ∧ (t.hall.xp n.xp).stuck = true ∧ t.hall.noticeSet .stuck = true := by
  have next := driveReply_ends (code := code) flying
  rw [endMove_eq, if_neg no] at next
  have w : Concludes s { s with hall := failMove s.env .fault n s.hall } _ := ⟨false, rfl, rfl⟩
  obtain ⟨units, ants⟩ := unitsKept_of_concludes (h := s.hall) ⟨_, failMove_failed.base⟩ w
  obtain ⟨base, own, notice, others⟩ := failMove_settled (h := s.hall) rfl w
  exact ⟨_, next, conclude_port .., conclude_env .., w, units, ants,
    fun u => linkKept_of_concludes (failMove_failed.links u) w, fun y hy => ⟨age_of_base base, others y hy⟩,
    age_of_base base, own, notice⟩

/-- Settles O50. -/
theorem movesEnd : Obligations.MovesEnd := by
  refine fun s => ⟨fun n code flying => ?_, fun n flying => ?_, fun n frame flying other => driveReply_other flying other,
    still_nothing⟩
  · have inFlight := flying_inFlight flying
    dsimp only
    by_cases yes : code = n.dir.confirming
    · have spec := driveReply_confirms flying yes
      have ended := confirmMove_ended (e := s.env) (h := s.hall) inFlight
      cases hd : n.dir <;> rw [hd] at yes ended <;> simp only [Dir.confirming] at yes <;>
        simp only [yes, if_true] at spec ⊢ <;> exact ⟨ended, spec⟩
    · have spec := driveReply_fails flying yes
      have ended := failMove_ended (e := s.env) (h := s.hall) (why := .fault) inFlight
      cases hd : n.dir <;> rw [hd] at yes <;> simp only [Dir.confirming] at yes <;>
        simp only [yes, if_false] <;> exact ⟨ended, spec⟩
  · have w : Concludes s { s with env := passTo n.timeoutAt s.env
                                  hall := failMove (passTo n.timeoutAt s.env) .timeout n s.hall } _ := ⟨false, rfl, rfl⟩
    obtain ⟨base, own, notice, others⟩ := failMove_settled (h := s.hall) rfl w
    refine ⟨failMove_ended (flying_inFlight flying), _, travelTimeout_ends flying, conclude_port .., passTo_onlyTime, w, ?_,
      base, own, notice, others⟩
    rw [conclude_elapsed]
    exact passTo_elapsed ..

end Sys2Proof.Machine
end

section
/-! PROOFS. START SWEEP and STOP SWEEP (O56). -/

namespace Sys2Proof.Machine

variable {s t : State} {e : Env} {h g : Hall} {x y : Xp} {u : Tx} {r : Row} {n m : QEntry} {i j : Fin 416}

/-! When a crosspoint qualifies (R194). -/

theorem mem_otherXps : y ∈ otherXps x ↔ y ≠ x ∧ (y.row = x.row ∨ y.tx = x.tx) := by
  obtain ⟨tx, row⟩ := x
  obtain ⟨tx', row'⟩ := y
  simp only [otherXps, List.mem_append, List.mem_filter, mem_rowXps, mem_columnXps, bne_iff_ne, ne_eq, Xp.mk.injEq,
    not_and]
  by_cases ht : tx' = tx <;> by_cases hr : row' = row <;> simp [ht, hr]

theorem busyXp_iff : h.busyXp x = false ↔ ∀ n ∈ h.queue, n.xp ≠ x := by simp [Hall.busyXp]

theorem neighboursClear_iff : neighboursClear h x = true ↔ ∀ y : Xp, y ≠ x → y.row = x.row ∨ y.tx = x.tx →
    (h.xp y).pos = .opened ∧ ∀ n ∈ h.queue, n.xp ≠ y := by
  simp only [neighboursClear, List.all_eq_true, mem_otherXps, Bool.and_eq_true, isOpen_iff, Bool.not_eq_true',
    busyXp_iff, and_imp]

theorem rowBlocked_iff : h.rowBlocked r = false ↔ ∀ y : Xp, y.row = r → (h.xp y).stuck = false := by
  simp [Hall.rowBlocked, mem_rowXps]

theorem columnBlocked_iff : h.columnBlocked u = false ↔ ∀ y : Xp, y.tx = u → (h.xp y).stuck = false := by
  simp [Hall.columnBlocked, mem_columnXps]

theorem rfOff_iff : rfOff e h u = true ↔
    e.tables.tx.get u = none ∨ ∃ m, (h.links.get u).telemetry = some m ∧ m.quiet = true := by
  have quiet : h.quiet u = true ↔ ∃ m, (h.links.get u).telemetry = some m ∧ m.quiet = true := by
    unfold Hall.quiet
    cases (h.links.get u).telemetry <;> simp
  simp [rfOff, Env.txConfigured, quiet]

/-- The conditions of R194, one by one. -/
theorem exercisable_iff : exercisable e h x = true ↔
    (h.xp x).pos = .opened ∧ (h.rows.get x.row).res = .free ∧ h.stray.get x.row = false ∧
    e.pins.rf.get x.row = false ∧ (∀ y : Xp, y.row = x.row ∨ y.tx = x.tx → (h.xp y).stuck = false) ∧
    (∀ y : Xp, y ≠ x → y.row = x.row ∨ y.tx = x.tx → (h.xp y).pos = .opened ∧ ∀ n ∈ h.queue, n.xp ≠ y) ∧
    (e.tables.tx.get x.tx = none ∨ ∃ m, (h.links.get x.tx).telemetry = some m ∧ m.quiet = true) := by
  simp only [exercisable, Bool.and_eq_true, isOpen_iff, Bool.not_eq_true', beq_iff_eq, rowBlocked_iff, columnBlocked_iff,
    neighboursClear_iff, rfOff_iff, Hall.res]
  constructor
  · rintro ⟨⟨⟨⟨⟨⟨⟨⟨opened, -⟩, free⟩, row⟩, stray⟩, rf⟩, column⟩, clear⟩, off⟩
    exact ⟨opened, free, stray, rf, fun y w => w.elim (row y) (column y), clear, off⟩
  · rintro ⟨opened, free, stray, rf, unstuck, clear, off⟩
    exact ⟨⟨⟨⟨⟨⟨⟨⟨opened, unstuck x (.inl rfl)⟩, free⟩, fun y w => unstuck y (.inl w)⟩, stray⟩, rf⟩,
      fun y w => unstuck y (.inr w)⟩, clear⟩, off⟩

/-! The sweep's first crosspoint (R193, R194). -/

/-- The hall as a sweep starts. -/
def startedHall (h : Hall) : Hall := { h with sweep := Sweep.started }

/-- A sweep that finds no crosspoint from its next place on. -/
theorem sweepReach_ends (next : g.sweep.next = some i)
    (none : ((allFin 416).drop i.val).find? (fun j => exercisable e g (xpAt j)) = none) : sweepReach e g =
      endSweep .complete { g with sweep := { g.sweep with skipped := g.sweep.skipped + (416 - i.val) } } := by
  unfold sweepReach
  rw [next]
  dsimp only
  rw [none]

/-- A sweep that finds a crosspoint from its next place on. -/
theorem sweepReach_finds (next : g.sweep.next = some i)
    (found : ((allFin 416).drop i.val).find? (fun j => exercisable e g (xpAt j)) = some j) : sweepReach e g =
      beginExercise .sweep (xpAt j)
        { g with sweep := { g.sweep with next := nextPlace j, skipped := g.sweep.skipped + (j.val - i.val) } } := by
  unfold sweepReach
  rw [next]
  dsimp only
  rw [found]

theorem exercisable_started : exercisable e (startedHall h) x = exercisable e h x := rfl

theorem sweepReach_none (none : ∀ j : Fin 416, exercisable e h (xpAt j) = false) :
    sweepReach e (startedHall h) = endSweep .complete { h with sweep := { Sweep.started with skipped := 416 } } := by
  refine (sweepReach_ends (i := 0) rfl (List.find?_eq_none.2 fun j _ => ?_)).trans ?_
  · exact ne_true_of_eq_false (none j)
  · simp only [startedHall, Sweep.started, Fin.val_zero, Nat.sub_zero, Nat.zero_add]

theorem find?_allFin {n : Nat} {p : Fin n → Bool} {j : Fin n} (yes : p j = true) (first : ∀ k, k < j → p k = false) :
    (allFin n).find? p = some j := by
  rw [List.find?_eq_some_iff_getElem]
  refine ⟨yes, j.val, by simp [allFin], by simp [allFin], fun k hk => ?_⟩
  have small : k < n := Nat.lt_trans hk j.isLt
  simpa [allFin] using first ⟨k, small⟩ hk

theorem sweepReach_first (yes : exercisable e h (xpAt j) = true)
    (first : ∀ k : Fin 416, k < j → exercisable e h (xpAt k) = false) :
    sweepReach e (startedHall h) = beginExercise .sweep (xpAt j)
      { h with sweep := { Sweep.started with next := nextPlace j, skipped := j.val } } := by
  have found : ((allFin 416).drop (0 : Fin 416).val).find? (fun j => exercisable e (startedHall h) (xpAt j)) = some j := by
    rw [Fin.val_zero, List.drop_zero]
    exact find?_allFin (p := fun j => exercisable e h (xpAt j)) yes first
  refine (sweepReach_finds rfl found).trans ?_
  simp only [startedHall, Sweep.started, Fin.val_zero, Nat.sub_zero, Nat.zero_add]

/-- What an exercise queues depends on the queue alone (R105). -/
theorem queueOp_exercise_queue {d : Dir} (queue : g.queue = h.queue) (arrivals : g.arrivals = h.arrivals) :
    (queueOp x d .exercise g).queue = (queueOp x d .exercise h).queue := by
  have entry (d : Dir) : g.entry x d = h.entry x d := by unfold Hall.entry; rw [queue]
  cases hn : h.entry x d with
  | none =>
    rw [queueOp_joined ((entry d).trans hn) fun _ => Requester.noConfusion,
      queueOp_joined hn fun _ => Requester.noConfusion, joinQueue_queue, joinQueue_queue, queue, arrivals]
  | some n =>
    rw [queueOp_attached ((entry d).trans hn), queueOp_attached hn]
    unfold Hall.modEntry
    dsimp only
    rw [queue]

/-- The hall as an exercise of the sweep begins (R194). -/
def exercising (o : ExOrigin) (x : Xp) (h : Hall) : Hall :=
  { h.setRes x.row .exercise with exercise := { h.exercise with phase := .closing, xp := x, origin := o } }

theorem beginExercise_eq {o : ExOrigin} : beginExercise o x h = { exercising o x h with
    queue := (queueOp x .close .exercise h).queue, arrivals := (beginExercise o x h).arrivals } := by
  have same : (queueOp x .close .exercise (exercising o x h)).queue = (queueOp x .close .exercise h).queue :=
    queueOp_exercise_queue rfl rfl
  rw [← same]
  show queueOp x .close .exercise (exercising o x h) = _
  cases hn : (exercising o x h).entry x .close with
  | none =>
    unfold beginExercise
    rw [← exercising, queueOp_joined hn fun _ => Requester.noConfusion]
    rfl
  | some n =>
    unfold beginExercise
    rw [← exercising, queueOp_attached hn]
    rfl

theorem startSweepRule_busy (busy : s.hall.sweep.state ≠ .idle ∨ s.hall.exercise.phase ≠ .idle) :
    startSweepRule s = refuse .busy := if_pos busy

theorem startSweepRule_taken (still : s.hall.sweep.state = .idle) (idle : s.hall.exercise.phase = .idle) :
    startSweepRule s =
      acceptEvent s false { s with hall := sweepReach s.env (startedHall s.hall) } fun _ => [] :=
  if_neg (by simp [still, idle])

theorem sweepReach_base : (sweepReach e (startedHall h)).base = h.base :=
  (base_of_stays (e := e) (h := startedHall h) fun w => sweepReach_stays w).trans rfl

/-! STOP SWEEP (R195). -/

theorem stopSweepRule_still (still : s.hall.sweep.state ≠ .running) : stopSweepRule s = accept s [5] := by
  unfold stopSweepRule
  split
  · next w _ => exact absurd w still
  · next w _ => exact absurd w still
  · rfl
  · rfl

theorem stopSweepRule_sent (running : s.hall.sweep.state = .running) (sent : s.hall.unsentClose = none) :
    stopSweepRule s =
      accept { s with hall := { s.hall with sweep := { s.hall.sweep with state := .stopping } } } [0] := by
  unfold stopSweepRule
  rw [running, sent]
  rfl

theorem stopSweepRule_unsent (running : s.hall.sweep.state = .running) (unsent : s.hall.unsentClose = some n) :
    stopSweepRule s = acceptEvent s false { s with hall := withdrawExercise n s.hall } fun _ => [0] := by
  unfold stopSweepRule
  rw [running, unsent]
  rfl

/-- The exercise leaves its entry, which leaves the queue when nobody else asks for it. -/
def leaveEntry (n : QEntry) (h : Hall) : Hall :=
  let m := { n with exercise := false }
  if m.wanted then h.modEntry n.arrival fun _ => m else (h.dropEntry n.arrival).setLast n.xp .withdrawn

/-- The hall as a sweep gives up its exercise, before its row is settled. -/
def exerciseLeft (n : QEntry) (h : Hall) : Hall :=
  { leaveEntry n h with exercise := { h.exercise with phase := .idle }
                        sweep := { h.sweep with skipped := h.sweep.skipped + 1 } }

theorem leaveEntry_matrix : MatrixOnly h (leaveEntry n h) := .ite ⟨rfl⟩ ⟨rfl⟩

theorem withdrawExercise_eq : withdrawExercise n h =
    endSweep .stopped (settleRow n.xp.row ((exerciseLeft n h).setRes n.xp.row .free)) := by
  have left := leaveEntry_matrix (n := n) (h := h)
  unfold withdrawExercise exerciseLeft
  dsimp only
  rw [← leaveEntry, left.eq]

theorem settleRow_queue : (settleRow r h).queue = h.queue := by
  have report {h : Hall} : (reportRow r h).queue = h.queue := by unfold reportRow; split <;> rfl
  unfold settleRow
  split
  · rfl
  · exact report

theorem withdrawExercise_sweep : (withdrawExercise n h).sweep = { h.sweep with
    state := .idle, next := none, skipped := h.sweep.skipped + 1, result := .stopped } := by
  rw [withdrawExercise_eq]
  unfold endSweep
  rw [raiseNotice_sweep, (settleRow_matrix _).eq]
  rfl

theorem withdrawExercise_idle : (withdrawExercise n h).exercise.phase = .idle := by
  rw [withdrawExercise_eq]
  unfold endSweep
  rw [raiseNotice_exercise, (settleRow_matrix _).eq]
  rfl

theorem withdrawExercise_gone (reqs : n.reqs = []) (commands : n.commands = 0) : n ∉ (withdrawExercise n h).queue := by
  have unwanted : ¬({ n with exercise := false } : QEntry).wanted = true := by simp [QEntry.wanted, reqs, commands]
  have queue : (withdrawExercise n h).queue = (h.dropEntry n.arrival).queue := by
    rw [withdrawExercise_eq]
    show (settleRow _ _).queue = _
    rw [settleRow_queue]
    show (leaveEntry n h).queue = _
    unfold leaveEntry
    dsimp only
    rw [if_neg unwanted]
    rfl
  rw [queue]
  intro mem
  simpa using (List.mem_filter.1 mem).2

theorem withdrawExercise_keeps {Q : Hall → Prop} (k : Stays e Q h) : Stays e Q (withdrawExercise n h) := by
  rw [withdrawExercise_eq]
  have left : Stays e Q (leaveEntry n h) := by
    unfold leaveEntry
    exact ite_stays (modEntry_stays _ _ k) (setLast_stays _ _ (dropEntry_stays _ k))
  exact endSweep_stays _ (settleRow_stays _ (setRes_stays _ _ (left.same (.plain rfl rfl rfl rfl rfl rfl rfl rfl rfl))))

theorem withdrawExercise_notice : (withdrawExercise n h).noticeSet .sweepDone = true := by
  rw [withdrawExercise_eq]
  exact noticeSet_raised ..

/-! Each request as O56 says it. -/

theorem sweepReach_stuck : StuckKept h (sweepReach e (startedHall h)) :=
  fun x => (sweepReach_stays (h := startedHall h) ⟨stuck_stable x _, rfl⟩).holds

theorem startSweep_taken (w : Received s) (mode : s.env.mode = .config) (still : s.hall.sweep.state = .idle)
    (idle : s.hall.exercise.phase = .idle) : ∃ t, exec (.startSweep []) s = .next t ∧ AnswersOk s t [] ∧ OnlyDue s t ∧
      t.hall.base = s.hall.base ∧ StuckKept s.hall t.hall ∧
      Concludes s { s with hall := sweepReach s.env (startedHall s.hall) } t ∧
      ((∀ j : Fin 416, exercisable s.env s.hall (xpAt j) = false) → t.hall.noticeSet .sweepDone = true) := by
  obtain ⟨t, u, next, hall, answers, due, base, concludes, -⟩ := concluded_slots (c := .startSweep []) w rfl rfl
    (configMode_of mode) (startSweepRule_taken still idle)
  refine ⟨t, next, answers, due, base.trans sweepReach_base, sweepReach_stuck.concludes concludes, concludes,
    fun none => concludes.notice ?_⟩
  dsimp only
  rw [sweepReach_none none]
  exact noticeSet_raised ..

/-- What the sweep's first crosspoint leaves of the hall (R194). -/
theorem sweepReach_begins (yes : exercisable e h (xpAt j) = true)
    (first : ∀ k : Fin 416, k < j → exercisable e h (xpAt k) = false) : let after := sweepReach e (startedHall h)
    after.sweep = { Sweep.started with next := nextPlace j, skipped := j.val } ∧
    after.exercise.phase = .closing ∧ after.exercise.xp = xpAt j ∧ after.exercise.origin = .sweep ∧
    after.res (xpAt j).row = .exercise ∧ after.queue = (queueOp (xpAt j) .close .exercise h).queue := by
  intro after
  have eq : after = beginExercise .sweep (xpAt j)
      { h with sweep := { Sweep.started with next := nextPlace j, skipped := j.val } } := sweepReach_first yes first
  rw [eq, beginExercise_eq]
  refine ⟨rfl, rfl, rfl, rfl, ?_, queueOp_exercise_queue rfl rfl⟩
  simp [Hall.res, exercising, Hall.setRes]

theorem queueOp_fresh {d : Dir} (free : h.busyXp x = false) : ∃ n : QEntry,
    (queueOp x d .exercise h).queue = h.queue ++ [n] ∧ n.xp = x ∧ n.dir = d ∧ n.exercise = true ∧ n.reqs = [] ∧
      n.commands = 0 := by
  have alone : h.entry x d = none := entry_none fun n hn eq => absurd eq (busyXp_iff.1 free n hn)
  refine ⟨.joining x d .exercise h.arrivals, ?_, rfl, rfl, rfl, rfl, rfl⟩
  rw [queueOp_joined alone fun _ => Requester.noConfusion, joinQueue_queue]

theorem stopSweep_unsent (w : Received s) (running : s.hall.sweep.state = .running)
    (unsent : s.hall.unsentClose = some n) : ∃ t, exec (.stopSweep []) s = .next t ∧ AnswersOk s t [0] ∧ OnlyDue s t ∧
      t.hall.base = s.hall.base ∧ StuckKept s.hall t.hall ∧ t.hall.noticeSet .sweepDone = true ∧
      Concludes s { s with hall := withdrawExercise n s.hall } t := by
  obtain ⟨t, u, next, hall, answers, due, base, concludes, -⟩ := concluded_slots (c := .stopSweep []) w rfl rfl rfl
    (stopSweepRule_unsent running unsent)
  exact ⟨t, next, answers, due, base.trans (base_of_stays (e := s.env) withdrawExercise_keeps),
    (stuckKept_of_stays (e := s.env) fun _ => withdrawExercise_keeps).concludes concludes,
    concludes.notice withdrawExercise_notice, concludes⟩

/-- Settles O56. -/
theorem sweepsStartAndStop : Obligations.SweepsStartAndStop := by
  refine ⟨fun _ _ _ => exercisable_iff, fun s w => ⟨fun mode busy => ?_, fun mode still idle => ⟨?_, fun none => ?_,
    fun j yes first => ?_⟩, fun still => ?_, fun running sent => ?_, fun n running unsent => ?_⟩⟩
  · exact refused_rule w rfl rfl (configMode_of mode) (startSweepRule_busy busy)
  · exact startSweep_taken w mode still idle
  · exact (congrArg Hall.sweep (sweepReach_none none)).trans rfl
  · obtain ⟨sweep, phase, xp, origin, res, queue⟩ := sweepReach_begins yes first
    refine ⟨sweep, phase, xp, origin, res, queue, fun free => ?_⟩
    obtain ⟨n, joined, rest⟩ := queueOp_fresh (d := .close) free
    exact ⟨n, queue.trans joined, rest⟩
  · exact onlyAnswers_rule w rfl rfl rfl (stopSweepRule_still still)
  · obtain ⟨t, next, hall, env, answers⟩ := accepted_answers (c := .stopSweep []) w rfl rfl rfl
      (stopSweepRule_sent running sent) rfl rfl
    exact ⟨t, next, answers, env, hall⟩
  · exact ⟨stopSweep_unsent w running unsent, withdrawExercise_sweep, withdrawExercise_idle, withdrawExercise_gone⟩

end Sys2Proof.Machine
end

section
/-! PROOFS. What a context stores and begins; PROVE and STOP PROVE (O55). -/

namespace Sys2Proof.Machine

variable {s : State} {e : Env} {h g : Hall} {t u v : Tx} {x : Xp} {r row : Row} {n : QEntry} {q : Req} {held : Held}
  {l : LoadNo}

/-! What a context stores (R70, R163 to R166, R192). -/

/-- Only the exercise and the matrix are new. -/
theorem yieldColumn_eq : yieldColumn q h = { h with
    claims := (yieldColumn q h).claims, rows := (yieldColumn q h).rows, queue := (yieldColumn q h).queue
    arrivals := (yieldColumn q h).arrivals, xps := (yieldColumn q h).xps, work := (yieldColumn q h).work
    exercise := (yieldColumn q h).exercise } := by
  unfold yieldColumn
  split
  · have yielded : MatrixOnly h (yieldOp q h) := yieldOp_matrix
    have released : MatrixOnly (yieldOp q h) (releaseExerciseRow (yieldOp q h)) :=
      MatrixOnly.trans (h' := (yieldOp q h).setRes (yieldOp q h).exercise.xp.row .free) ⟨rfl⟩ (settleRow_matrix _)
    unfold writeExercise
    dsimp only
    rw [(yielded.trans released).eq]
  · rfl

/-- The power ceiling changes the link's PRESET and the power record. -/
theorem ceiling_eq : ceiling e t h = { h with links := (ceiling e t h).links, power := (ceiling e t h).power } := by
  unfold ceiling
  dsimp only
  (repeat' split) <;> rfl

theorem ceiling_requested : ((ceiling e t h).power.get t).requested = requestedPower e h t := by
  unfold ceiling
  dsimp only
  split
  · next same => exact same.symm
  · split <;> next new => simp [handPreset, Hall.modLink, Hall.modPower, new]

theorem ceiling_quiet : (ceiling e t h).quiet u = h.quiet u := by
  have link : SameLink (h.links.get u) ((ceiling e t h).links.get u) :=
    (ceiling_stays t ⟨link_stable (e := e) u (h.links.get u), rfl, rfl, rfl⟩).holds
  unfold Hall.quiet
  rw [link.1]

/-- The hall of what a context stores, before the requested power is computed. -/
def storing (t : Tx) (held : Held) (deadline : Nat) (h : Hall) : Hall :=
  freshFoldback t (yieldColumn ⟨t, deadline⟩
    (h.setCtx t { Context.idle with state := (h.ctx.get t).state, held := held }))

section store

variable {i : Nat}

theorem store_eq_ceiling : store e t held i h = ceiling e t (storing t held i h) := rfl

theorem storing_ctx : (storing t held i h).ctx =
    h.ctx.set t { Context.idle with state := (h.ctx.get t).state, held := held } := by
  unfold storing freshFoldback Hall.modPower
  dsimp only
  rw [yieldColumn_eq]
  rfl

theorem store_ctx : (store e t held i h).ctx =
    h.ctx.set t { Context.idle with state := (h.ctx.get t).state, held := held } := by
  rw [store_eq_ceiling, ceiling_eq]
  exact storing_ctx

theorem store_self : (store e t held i h).ctx.get t =
    { Context.idle with state := (h.ctx.get t).state, held := held } := by rw [store_ctx, Tab.get_set_same]

theorem store_other (hv : v ≠ t) : (store e t held i h).ctx.get v = h.ctx.get v := by
  rw [store_ctx, Tab.get_set_ne _ _ hv.symm]

theorem storing_eq : storing t held i h = { h with
    claims := (storing t held i h).claims, rows := (storing t held i h).rows, queue := (storing t held i h).queue
    arrivals := (storing t held i h).arrivals, xps := (storing t held i h).xps, work := (storing t held i h).work
    exercise := (storing t held i h).exercise, ctx := (storing t held i h).ctx
    power := (storing t held i h).power } := by
  unfold storing freshFoldback Hall.modPower
  dsimp only
  rw [yieldColumn_eq]
  rfl

theorem store_runs : (store e t held i h).runs = h.runs := by
  rw [store_eq_ceiling, ceiling_eq, storing_eq]

theorem store_gates : (store e t held i h).gates = h.gates := by
  rw [store_eq_ceiling, ceiling_eq, storing_eq]

theorem store_lastOutcome : (store e t held i h).lastOutcome = h.lastOutcome := by
  rw [store_eq_ceiling, ceiling_eq, storing_eq]

theorem store_quiet : (store e t held i h).quiet u = h.quiet u := by
  rw [store_eq_ceiling, ceiling_quiet, storing_eq]
  rfl

theorem store_requested :
    ((store e t held i h).power.get t).requested = requestedPower e (storing t held i h) t := ceiling_requested

end store

/-- The requested power of a proving run (R163). -/
theorem requestedPower_proving (proving : (h.ctx.get t).held = .proving row) :
    requestedPower e h t = some (max (min ((e.txFigures t).rating / 4) (e.rowPower row)) 10) := by
  have occ : (h.ctx.get t).occ = none := by unfold Context.occ; rw [proving]
  unfold requestedPower serviceLimit plainLimit
  dsimp only
  rw [proving, occ]
  rfl

/-! What an IDLE context goes on with (R70, R73). -/

/-- A context as it enters PREPARING for an occurrence (R73). -/
def Context.preparing (need : SubTask) (c : Context) : Context :=
  { c with state := .preparing, tune := .pending, path := .pending, position := need, claimWaiting := false
           tuneAttempts := 1, posAsked := false, timer := none }

/-- A context as it enters PREPARING for a proving run (R97). -/
def Context.preparingRun (c : Context) : Context :=
  { c with state := .preparing, tune := .notNeeded, path := .pending, position := .notNeeded, claimWaiting := false
           posAsked := false, timer := none }

theorem enterPreparing_proving (proving : (h.ctx.get t).held = .proving row) : enterPreparing e t h =
    claim e ⟨t, (h.runs.get t).startedAt⟩ row (h.modCtx t Context.preparingRun) := by
  unfold enterPreparing
  rw [proving]
  rfl

theorem enterPreparing_run_claims (proving : (h.ctx.get t).held = .proving row) :
    ClaimsOnly (h.modCtx t Context.preparingRun) (enterPreparing e t h) := by
  rw [enterPreparing_proving proving]
  exact claim_claimsOnly

/-- A proving run is begun (R70, R97). -/
theorem beginHeld_run (proving : (h.ctx.get t).held = .proving row) :
    (beginHeld e t h).runs = h.runs ∧ (beginHeld e t h).power = h.power ∧
    ((beginHeld e t h).ctx.get t).state = (if h.quiet t then .preparing else .muting) ∧
    ∀ v, ((beginHeld e t h).ctx.get v).held = (h.ctx.get v).held := by
  unfold beginHeld
  split
  · have claims := enterPreparing_run_claims (e := e) proving
    refine ⟨claims.runs, claims.power, ?_, fun v => claims.held.trans ?_⟩
    · rw [claims.state, modCtx_self]
      rfl
    · by_cases hv : v = t
      · rw [hv, modCtx_self]
        rfl
      · rw [modCtx_other hv]
  · refine ⟨rfl, rfl, ?_, fun v => ?_⟩
    · show ((h.modCtx t _).ctx.get t).state = _
      rw [modCtx_self]
    · show ((h.modCtx t _).ctx.get v).held = _
      by_cases hv : v = t
      · rw [hv, modCtx_self]
      · rw [modCtx_other hv]

/-! PROVE (R176). -/

/-- The BUSY conditions of PROVE, one by one (R176). -/
theorem proveBusy_iff : proveBusy e h u row = true ↔
    (h.txUnit.get u).service = .barred ∨ (h.txUnit.get u).service = .out ∨ (h.links.get u).state ≠ .active ∨
    (h.ctx.get u).state ≠ .idle ∨ (h.rows.get row).res ≠ .free ∨ (∃ v : Tx, (h.xp ⟨v, row⟩).stuck = true) ∨
    h.stray.get row = true ∨ ∃ d ∈ e.due, d.tx = u ∧ d.beginAt < e.now + 1500 := by
  have permits {x : Service} : x.permits = false ↔ x = .barred ∨ x = .out := by cases x <;> simp [Service.permits]
  have blocked : h.rowBlocked row = true ↔ ∃ v : Tx, (h.xp ⟨v, row⟩).stuck = true := by
    simp [Hall.rowBlocked, rowXps]
  simp only [proveBusy, Bool.or_eq_true, Bool.not_eq_true', permits, bne_iff_ne, blocked, List.any_eq_true,
    Bool.and_eq_true, beq_iff_eq, decide_eq_true_eq, Hall.res, or_assoc]

/-- The hall with a proving run recorded. -/
def runRecorded (e : Env) (t : Tx) (row : Row) (h : Hall) : Hall :=
  { h with runs := h.runs.set t { running := true, load := some row, minutes := 0, startedAt := e.now, result := .none } }

theorem startRun_eq : startRun e t row h =
    beginHeld e t (store e t (.proving row) e.now (runRecorded e t row h)) := rfl

theorem startRun_base : (startRun e t row h).base = h.base :=
  base_of_stays (e := e) fun w => startRun_stays t row w

section prove

variable {b c : Byte}

theorem prove_bytes {b : List Byte} : below 16 (byteAt (BitVec.ofNat 8 u.val :: BitVec.ofNat 8 (24 + l.val) :: b) 0) =
    some u ∧ (below 26 (byteAt (BitVec.ofNat 8 u.val :: BitVec.ofNat 8 (24 + l.val) :: b) 1)).bind rowLoad = some l := by
  refine ⟨below_ofNat (by decide) u, ?_⟩
  rw [byteAt_succ, byteAt_zero, show 24 + l.val = (loadRow l).val from rfl, below_ofNat (by decide) (loadRow l)]
  exact rowLoad_loadRow l

theorem proveRule_field (w : 16 ≤ b.toNat ∨ c.toNat < 24 ∨ 26 ≤ c.toNat) : proveRule [b, c] s = refuse .field := by
  unfold proveRule
  simp only [byteAt_zero, byteAt_succ]
  obtain hb | hc := w
  · rw [below_eq_none hb]
  · have none : (below 26 c.toNat).bind rowLoad = none := by
      obtain low | high := hc
      · rw [below_of_lt (by omega), Option.bind_some, rowLoad]
        exact if_neg (by simp; omega)
      · rw [below_eq_none high]
        rfl
    rw [none]
    cases below 16 b.toNat <;> rfl

end prove

/-- PROVE, by its conditions in their order. -/
theorem proveRule_eq : proveRule [BitVec.ofNat 8 u.val, BitVec.ofNat 8 (24 + l.val)] s =
    if s.env.mode ≠ .run then refuse .mode
    else if s.env.txConfigured u = false then refuse .notReady
    else if proveBusy s.env s.hall u (loadRow l) = true then refuse .busy
    else acceptEvent s true { s with hall := startRun s.env u (loadRow l) s.hall } fun _ =>
      b2 (((startRun s.env u (loadRow l) s.hall).power.get u).requested.getD 0) := by
  unfold proveRule
  rw [prove_bytes.1, prove_bytes.2]
  simp only [Bool.not_eq_true']

/-! What the run's start leaves. -/

theorem storedRun : ((store e u (.proving row) e.now (runRecorded e u row h)).ctx.get u).held = .proving row := by
  rw [store_self]

theorem startRun_requested : ((startRun e u (loadRow l) h).power.get u).requested =
    some (max (min ((e.txFigures u).rating / 4) (e.tables.load.get l)) 10) := by
  obtain ⟨-, power, -⟩ := beginHeld_run (e := e) (storedRun (e := e) (u := u) (row := loadRow l) (h := h))
  rw [startRun_eq, power, store_requested, requestedPower_proving (row := loadRow l)]
  · unfold Env.rowPower
    rw [rowAnt_loadRow, rowLoad_loadRow]
  · rw [storing_ctx, Tab.get_set_same]

theorem startRun_runs : (startRun e u row h).runs = (runRecorded e u row h).runs := by
  obtain ⟨runs, -⟩ := beginHeld_run (e := e) (storedRun (e := e) (u := u) (row := row) (h := h))
  rw [startRun_eq, runs, store_runs]

theorem startRun_state : ((startRun e u row h).ctx.get u).state = if h.quiet u then .preparing else .muting := by
  obtain ⟨-, -, state, -⟩ := beginHeld_run (e := e) (storedRun (e := e) (u := u) (row := row) (h := h))
  rw [startRun_eq, state, store_quiet]
  rfl

theorem startRun_held : ((startRun e u row h).ctx.get u).held = .proving row := by
  obtain ⟨-, -, -, held⟩ := beginHeld_run (e := e) (storedRun (e := e) (u := u) (row := row) (h := h))
  rw [startRun_eq, held, storedRun]

theorem startRun_held_other (hv : v ≠ u) : ((startRun e u row h).ctx.get v).held = (h.ctx.get v).held := by
  obtain ⟨-, -, -, held⟩ := beginHeld_run (e := e) (storedRun (e := e) (u := u) (row := row) (h := h))
  rw [startRun_eq, held, store_other hv]
  rfl

/-! STOP PROVE (R177). -/

theorem stopProveRule_taken (busy : (s.hall.ctx.get u).run.isSome = true ∧ (s.hall.ctx.get u).state.working = true) :
    stopProveRule [BitVec.ofNat 8 u.val] s =
      acceptEvent s false { s with hall := enterEnding s.env u (endRun u .stopped s.hall) } fun _ => [0] := by
  unfold stopProveRule
  rw [byteAt_zero, below_ofNat (by decide) u]
  dsimp only
  rw [if_pos (by simpa using busy)]
  rfl

theorem stopProveRule_still
    (still : ¬((s.hall.ctx.get u).run.isSome = true ∧ (s.hall.ctx.get u).state.working = true)) :
    stopProveRule [BitVec.ofNat 8 u.val] s = accept s [5] := by
  unfold stopProveRule
  rw [byteAt_zero, below_ofNat (by decide) u]
  dsimp only
  rw [if_neg (by simpa using still)]
  rfl

theorem stopProveRule_field {b : Byte} (w : 16 ≤ b.toNat) : stopProveRule [b] s = refuse .field := by
  unfold stopProveRule
  rw [byteAt_zero, below_eq_none w]

theorem stopProve_keeps {P : Hall → Prop} (k : Stays e P h) : Stays e P (enterEnding e u (endRun u .stopped h)) :=
  enterEnding_stays _ (endRun_stays _ _ k)

/-- PROVE accepted, as O55 says it. -/
theorem prove_taken (w : Received s) (mode : s.env.mode = .run) (configured : ¬s.env.txConfigured u = false)
    (free : ¬proveBusy s.env s.hall u (loadRow l) = true) : ∃ t,
      exec (.prove [BitVec.ofNat 8 u.val, BitVec.ofNat 8 (24 + l.val)]) s = .next t ∧ OnlyDue s t ∧
      t.hall.base = s.hall.base ∧ StuckKept s.hall t.hall ∧
      AnswersOk s t (b2 (max (min ((s.env.txFigures u).rating / 4) (s.env.tables.load.get l)) 10)) ∧
      Concludes s { s with hall := startRun s.env u (loadRow l) s.hall } t := by
  have taken := proveRule_eq (u := u) (l := l) (s := s)
  rw [if_neg (not_not.2 mode), if_neg configured, if_neg free, startRun_requested] at taken
  obtain ⟨t, _, next, -, answers, due, base, concludes, -⟩ := concluded_slots
    (c := .prove [BitVec.ofNat 8 u.val, BitVec.ofNat 8 (24 + l.val)]) w rfl rfl rfl taken
  exact ⟨t, next, due, base.trans startRun_base,
    (stuckKept_of_stays (e := s.env) fun _ => startRun_stays _ _).concludes concludes, answers, concludes⟩

/-- STOP PROVE accepted, as O55 says it. -/
theorem stopProve_taken (w : Received s)
    (busy : (s.hall.ctx.get u).run.isSome = true ∧ (s.hall.ctx.get u).state.working = true) : ∃ t,
      exec (.stopProve [BitVec.ofNat 8 u.val]) s = .next t ∧ OnlyDue s t ∧ AnswersOk s t [0] ∧
      t.hall.base = s.hall.base ∧ StuckKept s.hall t.hall ∧
      Concludes s { s with hall := enterEnding s.env u (endRun u .stopped s.hall) } t := by
  obtain ⟨t, _, next, -, answers, due, base, concludes, -⟩ := concluded_slots
    (c := .stopProve [BitVec.ofNat 8 u.val]) w rfl rfl rfl (stopProveRule_taken busy)
  exact ⟨t, next, due, answers, base.trans (base_of_stays (e := s.env) stopProve_keeps),
    (stuckKept_of_stays (e := s.env) fun _ => stopProve_keeps).concludes concludes, concludes⟩

theorem endRun_self_ended {x : RunResult} : (endRun u x h).runs.get u =
    if (h.runs.get u).running then { h.runs.get u with running := false, result := x } else h.runs.get u :=
  Tab.get_modify_same ..

/-- Settles O55. -/
theorem provingRunsStartAndStop : Obligations.ProvingRunsStartAndStop := by
  intro s u w
  refine ⟨fun l => ⟨proveBusy_iff, ?_⟩, fun b c field => ?_, ?_, fun b field => ?_⟩
  · split
    · next mode => exact refused_rule w rfl rfl rfl (proveRule_eq.trans (if_pos mode))
    · next mode =>
      split
      · next none => exact refused_rule w rfl rfl rfl (proveRule_eq.trans ((if_neg mode).trans (if_pos none)))
      · next configured =>
        split
        · next busy =>
          have refused := (proveRule_eq (u := u) (l := l) (s := s)).trans
            ((if_neg mode).trans ((if_neg configured).trans (if_pos busy)))
          exact refused_rule w rfl rfl rfl refused
        · next free =>
          refine ⟨prove_taken w (not_not.1 mode) configured free, ?_, startRun_held, startRun_state, startRun_requested,
            fun v hv => ⟨?_, startRun_held_other hv⟩⟩
          · rw [startRun_runs]
            exact Tab.get_set_same ..
          · rw [startRun_runs]
            exact Tab.get_set_ne _ _ hv.symm
  · exact refused_rule w rfl rfl rfl (proveRule_field field)
  · dsimp only
    split
    · next busy =>
      obtain ⟨request, line⟩ := enterEnding_dropped (e := s.env) (t := u) (h := endRun u .stopped s.hall)
      refine ⟨stopProve_taken w busy, ?_, request, line, ?_⟩
      · rw [enterEnding_self]
        rfl
      · rw [enterEnding_runs]
        exact endRun_self_ended
    · next still => exact onlyAnswers_rule w rfl rfl rfl (stopProveRule_still still)
  · exact refused_rule w rfl rfl rfl (stopProveRule_field field)

end Sys2Proof.Machine
end

section
/-! PROOFS. HALLSTOP and LOCAL (O59). -/

namespace Sys2Proof.Machine

variable {s d : State} {e : Env} {h g : Hall} {t u v : Tx} {x : Xp} {r : Row} {why : XpResult}

/-! What a mode line does to the matrix (R124, R195). -/

theorem abortSweep_claimsOnly : ClaimsOnly h (abortSweep h) := .ite (.refl h) endSweep_claimsOnly

theorem emptyWaiting_claimsOnly : ClaimsOnly h (emptyWaiting h) := ⟨rfl, fun _ => rfl⟩

theorem stopMatrix_claimsOnly : ClaimsOnly h (stopMatrix e h) :=
  (MatrixOnly.claims (h' := { h with queue := h.queue.filter fun n => n.inFlight }) ⟨rfl⟩).trans
    (failEntries_claimsOnly.trans emptyWaiting_claimsOnly)

theorem localMatrix_claimsOnly : ClaimsOnly h (localMatrix e h) :=
  (MatrixOnly.claims (h := h) (h' := forgetPositions { h with queue := [] }) ⟨rfl⟩).trans
    (failEntries_claimsOnly.trans emptyWaiting_claimsOnly)

/-! A context halted (R95). -/

/-- What is left of a context that a mode line halts. -/
def Halts (v : Tx) (h g : Hall) : Prop :=
  (g.ctx.get v).state = (if (h.ctx.get v).state = .idle then .idle else .halted) ∧
  (g.ctx.get v).held =
    if (h.ctx.get v).state = .idle ∨ (h.ctx.get v).state = .halted then (h.ctx.get v).held else .nothing

theorem haltContext_resting (resting : (h.ctx.get t).state = .idle ∨ (h.ctx.get t).state = .halted) :
    haltContext e t h = h := by
  unfold haltContext
  obtain idle | halted := resting
  · rw [idle]
  · rw [halted]

/-- The hall before a context that is not at rest is made HALTED. -/
def haltEnds (e : Env) (t : Tx) (h : Hall) : Hall :=
  if (h.ctx.get t).state = .ending then finishIdle e t (dropPermit e t (dropKept e t .halted .mode h))
  else finishIdle e t (withdrawPosition t (dropPermit e t
    (endRun t .halted (decideOutcome t .halted (some .mode) e.now h))))

theorem haltContext_ends (idle : (h.ctx.get t).state ≠ .idle) (halted : (h.ctx.get t).state ≠ .halted) :
    haltContext e t h = (haltEnds e t h).setCtx t { Context.idle with state := .halted } := by
  unfold haltContext haltEnds
  cases state : (h.ctx.get t).state with
  | idle => exact absurd state idle
  | halted => exact absurd state halted
  | ending => rw [if_pos rfl]
  | muting | preparing | standing | ramping | onAir | restrike => rw [if_neg CtxState.noConfusion]

theorem withdrawPosition_apart : Apart v h (withdrawPosition t h) := ⟨rfl, rfl, rfl, rfl⟩

theorem haltEnds_apart (hv : v ≠ t) : Apart v h (haltEnds e t h) :=
  .ite ((dropKept_apart hv).trans ((dropPermit_apart hv).trans (finishIdle_apart hv)))
    ((decideOutcome_apart hv).trans ((endRun_apart hv).trans
      ((dropPermit_apart hv).trans (withdrawPosition_apart.trans (finishIdle_apart hv)))))

theorem haltContext_apart (hv : v ≠ t) : Apart v h (haltContext e t h) := by
  by_cases resting : (h.ctx.get t).state = .idle ∨ (h.ctx.get t).state = .halted
  · rw [haltContext_resting resting]
    exact .refl
  · rw [not_or] at resting
    rw [haltContext_ends resting.1 resting.2]
    exact (haltEnds_apart hv).trans ⟨Tab.get_set_ne _ _ hv.symm, rfl, rfl, rfl⟩

theorem haltContext_halts : Halts v h (haltContext e v h) := by
  by_cases resting : (h.ctx.get v).state = .idle ∨ (h.ctx.get v).state = .halted
  · rw [haltContext_resting resting]
    refine ⟨?_, (if_pos resting).symm⟩
    split
    · next idle => exact idle
    · next idle => exact resting.resolve_left idle
  · have ⟨idle, halted⟩ := not_or.1 resting
    rw [haltContext_ends idle halted]
    unfold Halts
    rw [Hall.setCtx_get, if_pos rfl, if_neg idle, if_neg resting]
    exact ⟨rfl, rfl⟩

theorem haltAll_halts : Halts v h (haltAll e h) :=
  foldl_at (f := fun h t => haltContext e t h) (I := Apart v h) (R := Halts v h) (List.nodup_finRange 16)
    (List.mem_finRange v) .refl (fun _ _ hb w => w.trans (haltContext_apart hb.symm))
    (fun g w => by
      have halts := haltContext_halts (e := e) (v := v) (h := g)
      unfold Halts at halts ⊢
      rwa [w.ctx] at halts)
    (fun f b hb w => by
      unfold Halts at w ⊢
      rwa [(haltContext_apart hb.symm).ctx])

theorem Halts.of_claims (a : ClaimsOnly h g) {f : Hall} (w : Halts v g f) : Halts v h f := by
  unfold Halts at w ⊢
  rwa [a.state, a.held] at w

/-- The hall when STOP has stopped the matrix. -/
def matrixStopped (e : Env) (h : Hall) : Hall := stopMatrix e (abortSurvey (abortSweep (lowerAll e h)))

/-- The hall when LOCAL has taken the matrix. -/
def matrixLocal (e : Env) (h : Hall) : Hall := localMatrix e (abortSurvey (abortSweep (lowerAll e h)))

theorem stopHall_eq : stopHall e h = stopPositioners (haltAll e (matrixStopped e h)) := rfl

theorem localHall_eq : localHall e h = localPositioners e (haltAll e (matrixLocal e h)) := rfl

theorem stopPositioners_halts (w : Halts v h g) : Halts v h (stopPositioners g) := w

theorem localPositioners_halts (w : Halts v h g) : Halts v h (localPositioners e g) := w

theorem Halts.before_survey {f : Hall} (w : Halts v (abortSurvey g) f) : Halts v g f := w

theorem Halts.before_fall {f : Hall} (w : Halts v (lowerAll e g) f) : Halts v g f := w

theorem stopHall_halts : Halts v h (stopHall e h) := by
  have halted : Halts v (matrixStopped e h) (haltAll e (matrixStopped e h)) := haltAll_halts
  have matrix : Halts v (abortSurvey (abortSweep (lowerAll e h))) _ := halted.of_claims stopMatrix_claimsOnly
  rw [stopHall_eq]
  exact stopPositioners_halts (matrix.before_survey.of_claims abortSweep_claimsOnly).before_fall

theorem localHall_halts : Halts v h (localHall e h) := by
  have halted : Halts v (matrixLocal e h) (haltAll e (matrixLocal e h)) := haltAll_halts
  have matrix : Halts v (abortSurvey (abortSweep (lowerAll e h))) _ := halted.of_claims localMatrix_claimsOnly
  rw [localHall_eq]
  exact localPositioners_halts (matrix.before_survey.of_claims abortSweep_claimsOnly).before_fall

/-! What a mode line keeps. -/

section keep

variable {P : Hall → Prop}

/-- STOP but for what it does to the positioners. -/
theorem stopHall_keeps (k : Stays e P h) : Stays e P (haltAll e (matrixStopped e h)) :=
  haltAll_stays (stopMatrix_stays (abortSurvey_stays (abortSweep_stays (lowerAll_stays k))))

/-- LOCAL but for what it does to the positioners. -/
theorem localHall_keeps (k : Stays e P h) : Stays e P (haltAll e (matrixLocal e h)) :=
  haltAll_stays (localMatrix_stays (abortSurvey_stays (abortSweep_stays (lowerAll_stays k))))

end keep

theorem stopPositioners_base : (stopPositioners g).base = g.base := rfl

theorem localPositioners_base : (localPositioners e g).base = { g.base with posPoll := [] } := rfl

theorem stopHall_base : (stopHall e h).base = h.base := by
  have inner : (haltAll e (matrixStopped e h)).base = h.base := base_of_stays stopHall_keeps
  rw [stopHall_eq, stopPositioners_base, inner]

theorem stopPositioners_stuck : StuckKept g (stopPositioners g) := fun _ => rfl

theorem localPositioners_stuck : StuckKept g (localPositioners e g) := fun _ => rfl

theorem StuckKept.trans {f : Hall} (a : StuckKept h g) (b : StuckKept g f) : StuckKept h f := fun x => (b x).trans (a x)

theorem stopHall_stuck : StuckKept h (stopHall e h) := by
  rw [stopHall_eq]
  exact (stuckKept_of_stays (e := e) fun _ => stopHall_keeps).trans stopPositioners_stuck

theorem stopPositioners_notice {y : Notice} : (stopPositioners g).noticeSet y = g.noticeSet y := rfl

theorem stopHall_notice {y : Notice} (set : h.noticeSet y = true) : (stopHall e h).noticeSet y = true := by
  rw [stopHall_eq, stopPositioners_notice]
  exact (stopHall_keeps ⟨notice_stable y, set⟩).holds

theorem localHall_base : (localHall e h).base = { h.base with posPoll := [] } := by
  have inner : (haltAll e (matrixLocal e h)).base = h.base := base_of_stays localHall_keeps
  rw [localHall_eq, localPositioners_base, inner]

theorem localHall_stuck : StuckKept h (localHall e h) := by
  rw [localHall_eq]
  exact (stuckKept_of_stays (e := e) fun _ => localHall_keeps).trans localPositioners_stuck

/-! LOCAL: every crosspoint UNKNOWN, the queue empty (R124). -/

/-- On a silent drive link a crosspoint that is UNKNOWN stays so. -/
theorem unknown_stable (silent : e.linksSilent = true) : Stable e fun h => (h.xp x).pos = .unknown :=
  plant_stable (fun _ _ c w => (c.place x).trans w) (fun _ _ _ _ c _ w => by unfold Hall.xp at *; rw [c]; exact w)
    (fun _ _ w => by have free := w.free; simp [driveFree, silent] at free)
    fun h w => by simp [forgetPositions, Hall.xp]

theorem localPositioners_xp : (localPositioners e g).xp x = g.xp x := rfl

theorem localHall_unknown (silent : e.linksSilent = true) : ((localHall e h).xp x).pos = .unknown := by
  have forgotten (g : Hall) : Stays e (fun g => (g.xp x).pos = .unknown) (forgetPositions g) :=
    ⟨unknown_stable silent, by simp [forgetPositions, Hall.xp]⟩
  have matrix : Stays e (fun g => (g.xp x).pos = .unknown) (matrixLocal e h) :=
    emptyWaiting_stays (failEntries_stays .mode _ (forgotten _))
  rw [localHall_eq, localPositioners_xp]
  exact (haltAll_stays matrix).holds

theorem withdrawOps_empty (empty : h.queue = []) : withdrawOps e t h = h := by
  unfold withdrawOps
  rw [empty]
  rfl

/-- No entry is left, and no sweep goes on that would queue one. -/
structure Bare (h : Hall) : Prop where
  queue : h.queue = []
  sweep : h.sweep.state = .idle

namespace Bare

theorem foldl {β : Type} {f : Hall → β → Hall} (l : List β) (b : Bare h) (hf : ∀ h b, Bare h → Bare (f h b)) :
    Bare (l.foldl f h) := by
  induction l generalizing h with
  | nil => exact b
  | cons c l ih => exact ih (hf h c b)

theorem settleRow (b : Bare h) : Bare (settleRow r h) := by
  have matrix := settleRow_matrix (h := h) r
  exact ⟨settleRow_queue.trans b.queue, by rw [matrix.eq]; exact b.sweep⟩

theorem withdrawOps (b : Bare h) : Bare (withdrawOps e t h) := by
  rw [withdrawOps_empty b.queue]
  exact b

theorem withdrawClaim (b : Bare h) : Bare (withdrawClaim e t h) := by
  unfold Machine.withdrawClaim
  split
  · exact b.withdrawOps
  · next c _ =>
    have left : Bare ((h.setWaiting c.row ((h.rows.get c.row).waiting.filter fun q => q.tx != t)).setClaim t none) :=
      ⟨b.queue, b.sweep⟩
    have gone := left.withdrawOps (e := e) (t := t)
    exact foldl _ (settleRow ⟨gone.queue, gone.sweep⟩) fun _ _ b => b.settleRow

theorem exerciseFailed (b : Bare h) : Bare (exerciseFailed e why h) := by
  have row : Bare (releaseExerciseRow h) := settleRow (h := h.setRes h.exercise.xp.row .free) ⟨b.queue, b.sweep⟩
  unfold Machine.exerciseFailed endExercise
  dsimp only
  split
  · exact ⟨row.queue, row.sweep⟩
  · rw [row.sweep]
    refine ⟨row.queue, ?_⟩
    dsimp only [writeExercise]
    unfold Sweep.count
    split <;> exact row.sweep

theorem failEntries {gone : List QEntry} (b : Bare h) : Bare (failEntries e .mode gone h) := by
  have dropped {g : Hall} (n : QEntry) (b : Bare g) : Bare ((g.dropEntry n.arrival).setLast n.xp .mode) := by
    refine ⟨?_, b.sweep⟩
    show g.queue.filter (fun m => m.arrival != n.arrival) = []
    rw [b.queue]
    rfl
  have left : Bare (failGone .mode gone h) := foldl _ b fun _ n b => dropped n b
  have told : Bare (gone.foldl (fun h n => n.reqs.foldl (failRequester e .mode) h) (failGone .mode gone h)) :=
    foldl _ left fun _ _ b => foldl _ b fun _ _ b => b.withdrawClaim
  rw [failEntries_eq]
  refine foldl _ ?_ fun _ _ b => b.settleRow
  unfold failTold
  dsimp only
  split
  · exact told.exerciseFailed
  · exact told

end Bare

theorem abortSweep_idle : (abortSweep h).sweep.state = .idle := by
  unfold abortSweep
  split
  · next idle => exact idle
  · rfl

theorem releasePath_queue (empty : h.queue = []) : (releasePath e t h).queue = [] := by
  have parked : (park t h).queue = [] := by
    unfold park
    split
    · exact (show (reportRow _ _).queue = _ by unfold reportRow; split <;> rfl).trans empty
    · exact empty
  unfold releasePath withdrawClaim
  split
  · rw [withdrawOps_empty parked]
    exact parked
  · next c _ =>
    have settled {h : Hall} (l : List Row) : (l.foldl (fun h r => settleRow r h) h).queue = h.queue := by
      induction l generalizing h with
      | nil => rfl
      | cons r l ih => exact ih.trans settleRow_queue
    dsimp only
    rw [settled, settleRow_queue]
    show (withdrawOps e t _).queue = _
    rw [withdrawOps_empty (by exact parked)]
    exact parked

theorem finishIdle_queue (empty : h.queue = []) : (finishIdle e t h).queue = [] := by
  rw [finishIdle_eq]
  exact releasePath_queue empty

theorem haltContext_queue (empty : h.queue = []) : (haltContext e t h).queue = [] := by
  by_cases resting : (h.ctx.get t).state = .idle ∨ (h.ctx.get t).state = .halted
  · rw [haltContext_resting resting]
    exact empty
  · rw [not_or] at resting
    rw [haltContext_ends resting.1 resting.2]
    show (haltEnds e t h).queue = []
    unfold haltEnds
    split
    · refine finishIdle_queue ?_
      show (dropKept e t .halted .mode h).queue = []
      rw [dropKept_eq]
      exact empty
    · exact finishIdle_queue empty

theorem haltAll_queue (empty : h.queue = []) : (haltAll e h).queue = [] := by
  unfold haltAll
  induction allFin 16 generalizing h with
  | nil => exact empty
  | cons t l ih => exact ih (haltContext_queue empty)

theorem localPositioners_queue : (localPositioners e g).queue = g.queue := rfl

theorem localHall_queue : (localHall e h).queue = [] := by
  have bare : Bare (forgetPositions { abortSurvey (abortSweep (lowerAll e h)) with queue := [] }) :=
    ⟨rfl, abortSweep_idle⟩
  have matrix : (matrixLocal e h).queue = [] := bare.failEntries.queue
  rw [localHall_eq, localPositioners_queue]
  exact haltAll_queue matrix

theorem localHall_pos {a : Ant} (steers : e.steers a = true) : (localHall e h).pos.get a = PosRec.unknown := by
  rw [localHall_eq]
  exact (Tab.get_build _ _).trans (if_pos steers)

/-! The lines themselves (R162, R202, R203). -/

theorem concludeLine_keeps {P : Hall → Prop} (hs : Stable d.env P) (w : P d.hall) : P (concludeLine s d).hall := by
  unfold concludeLine
  split
  · exact (lowerFailed_stays ⟨hs, w⟩).holds
  · exact conclude_stays _ _ hs w

theorem concludeLine_base : (concludeLine s d).hall.base = d.hall.base :=
  concludeLine_keeps (base_stable d.hall.base) rfl

theorem concludeLine_stuck : StuckKept d.hall (concludeLine s d).hall :=
  fun x => concludeLine_keeps (stuck_stable x _) rfl

theorem concludeLine_concludes (free : d.env.pins.resetHeld = false) : Concludes s d (concludeLine s d) := by
  unfold concludeLine
  rw [if_neg (ne_true_of_eq_false free)]
  exact ⟨false, rfl, rfl⟩

/-- The hall when HALLSTOP is asserted, before STOP is entered. -/
def hallstopRaised (s : State) : Hall := raiseNotice .hallStop (lowerAll s.env s.hall)

theorem takeHallstop_hall : (takeHallstop s).hall =
    if s.env.mode = .stop then hallstopRaised s else stopHall { s.env with mode := .stop } (hallstopRaised s) := by
  unfold takeHallstop
  dsimp only
  split <;> rfl

theorem takeHallstop_base : (takeHallstop s).hall.base = s.hall.base := by
  rw [takeHallstop_hall]
  split
  · rfl
  · exact stopHall_base

theorem takeHallstop_stuck : StuckKept s.hall (takeHallstop s).hall := by
  rw [takeHallstop_hall]
  split
  · exact fun _ => rfl
  · exact fun x => stopHall_stuck x

theorem takeHallstop_notice : (takeHallstop s).hall.noticeSet .hallStop = true := by
  rw [takeHallstop_hall]
  split
  · exact noticeSet_raised ..
  · exact stopHall_notice (noticeSet_raised ..)

theorem takeHallstop_halts (mode : s.env.mode ≠ .stop) : Halts v s.hall (takeHallstop s).hall := by
  rw [takeHallstop_hall, if_neg mode]
  exact Halts.of_claims (h := lowerAll s.env s.hall) raiseNotice_claimsOnly stopHall_halts

theorem takeLocal_hall : (takeLocal s).hall =
    if s.env.mode = .localKey then s.hall
    else localHall { s.env with mode := if s.env.mode = .stop then .stop else .localKey } s.hall := by
  obtain ⟨⟨clock, elapsed, minute, banks, mode, pins, tables, due⟩, port, hall, pending⟩ := s
  cases mode <;> rfl

theorem takeLocal_base : (takeLocal s).hall.base =
    { s.hall.base with posPoll := if s.env.mode = .localKey then s.hall.posPoll else [] } := by
  rw [takeLocal_hall]
  split
  · rfl
  · exact localHall_base

theorem takeLocal_stuck : StuckKept s.hall (takeLocal s).hall := by
  rw [takeLocal_hall]
  split
  · exact fun _ => rfl
  · exact fun x => localHall_stuck x

/-- HALLSTOP as O59 says it. -/
theorem hallstopAssert_spec : ∃ t, exec .hallstopAssert s = .next t ∧ t.port = s.port ∧ t.hall.base = s.hall.base ∧
    StuckKept s.hall t.hall ∧
    t.env = { s.env with due := t.env.due, mode := .stop, pins := { s.env.pins with hallstop := true } } ∧
    (∀ u : Tx, t.hall.lineLow u) ∧ t.hall.noticeSet .hallStop = true ∧
    (s.env.mode ≠ .stop → s.env.pins.resetHeld = false → ∃ d : State, Concludes s d t ∧ ∀ u : Tx, Halts u s.hall d.hall) := by
  generalize hs' : (s.modPins fun p => { p with hallstop := true }) = s'
  have hall : s'.hall = s.hall := by rw [← hs']; rfl
  have env : s'.env = { s.env with pins := { s.env.pins with hallstop := true } } := by rw [← hs']; rfl
  refine ⟨concludeLine s (takeHallstop s'), by rw [← hs']; rfl, ?_, ?_, fun x => ?_, ?_, fun u => ?_, ?_, fun mode free =>
    ⟨takeHallstop s', concludeLine_concludes ?_, fun u => ?_⟩⟩
  · rw [concludeLine_queue.2, (takeHallstop_queue s').2, ← hs']
    rfl
  · rw [concludeLine_base, takeHallstop_base, hall]
  · rw [concludeLine_stuck, takeHallstop_stuck, hall]
  · rw [concludeLine_env, takeHallstop_env, env]
  · refine lineLow_of concludeLine_permits ?_ u
    rw [concludeLine_env, takeHallstop_env]
    exact Mode.noConfusion
  · exact concludeLine_keeps (notice_stable .hallStop) takeHallstop_notice
  · rw [takeHallstop_env, env]
    exact free
  · rw [← hall]
    exact takeHallstop_halts (by rw [env]; exact mode)

/-- LOCAL as O59 says it. -/
theorem localAssert_spec : ∃ t, exec .localAssert s = .next t ∧ t.port = s.port ∧ StuckKept s.hall t.hall ∧
    t.hall.base = { s.hall.base with posPoll := if s.env.mode = .localKey then s.hall.posPoll else [] } ∧
    t.env = { s.env with
      due := t.env.due, mode := if s.env.mode = .stop then .stop else .localKey
      pins := { s.env.pins with localKey := true } } ∧
    (s.env.mode ≠ .localKey → s.env.pins.resetHeld = false →
      ∃ d : State, Concludes s d t ∧ (∀ x : Xp, (d.hall.xp x).pos = .unknown) ∧ d.hall.queue = [] ∧
        (∀ a : Ant, s.env.steers a = true → d.hall.pos.get a = PosRec.unknown) ∧ ∀ u : Tx, Halts u s.hall d.hall) := by
  generalize hs' : (s.modPins fun p => { p with localKey := true }) = s'
  have hall : s'.hall = s.hall := by rw [← hs']; rfl
  have env : s'.env = { s.env with pins := { s.env.pins with localKey := true } } := by rw [← hs']; rfl
  refine ⟨concludeLine s (takeLocal s'), by rw [← hs']; rfl, ?_, fun x => ?_, ?_, ?_, fun mode free => ?_⟩
  · rw [concludeLine_queue.2, (takeLocal_queue s').2, ← hs']
    rfl
  · rw [concludeLine_stuck, takeLocal_stuck, hall]
  · rw [concludeLine_base, takeLocal_base, hall, env]
  · rw [concludeLine_env, takeLocal_env, env]
  · have silent : ({ s'.env with mode := if s'.env.mode = .stop then .stop else .localKey } : Env).linksSilent = true := by
      unfold Env.linksSilent
      rw [env]
      by_cases stop : s.env.mode = .stop <;> simp [stop]
    refine ⟨takeLocal s', concludeLine_concludes (by rw [takeLocal_env, env]; exact free), ?_⟩
    rw [takeLocal_hall, if_neg (by rw [env]; exact mode), hall]
    exact ⟨fun x => localHall_unknown silent, localHall_queue, fun a steers => localHall_pos (by rw [env]; exact steers),
      fun u => localHall_halts⟩

/-- Settles O59. -/
theorem modeLinesActAtOnce : Obligations.ModeLinesActAtOnce := by
  refine fun s => ⟨hallstopAssert_spec, ?_, rfl, rfl⟩
  obtain ⟨t, next, port, stuck, base, env, acts⟩ := localAssert_spec (s := s)
  refine ⟨t, next, port, stuck, base, env, fun mode free => ?_⟩
  obtain ⟨d, concludes, unknown, queue, pos, halts⟩ := acts mode free
  exact ⟨d, concludes, unknown, queue, pos, fun u => (halts u).1⟩

end Sys2Proof.Machine
end

section
/-! SUPPORT. A hall in which nothing is at work: what its settling and the mode lines leave of it. -/

namespace Sys2Proof.Machine

variable {s : State} {e : Env} {h g f : Hall} {t u v : Tx} {x : Xp} {r : Row} {why : XpResult} {n m : Notice}

/-! Notices raised. -/

theorem Notice.bit_inj (w : n.bit = m.bit) : n = m := by
  revert w
  cases n <;> cases m <;> decide

theorem Notice.mask_get : n.mask.getLsbD m.bit = true ↔ m = n := by
  have small (n : Notice) : n.bit < 22 := by cases n <;> decide
  unfold Notice.mask
  rw [BitVec.getLsbD_ofNat, Nat.testBit_two_pow, Bool.and_eq_true, decide_eq_true_eq, decide_eq_true_eq]
  exact ⟨fun w => (Notice.bit_inj w.2).symm, fun w => ⟨small m, by rw [w]⟩⟩

/-- A raised notice sets its own flag and no other (R206). -/
theorem noticeSet_raise_iff : (raiseNotice n h).noticeSet m = true ↔ m = n ∨ h.noticeSet m = true := by
  unfold Hall.noticeSet
  rw [raiseNotice_flags, BitVec.getLsbD_or, Bool.or_eq_true, Notice.mask_get, or_comm]

/-! At rest. -/

/-- No context, claim, move, sweep, survey or turn is under way; no PERMIT line is high or asked for. -/
structure AtRest (e : Env) (h : Hall) : Prop where
  work : h.work = []
  ctx : ∀ t, h.ctx.get t = Context.idle
  claims : ∀ t, h.claims.get t = none
  gates : ∀ t, h.gates.get t = Gate.low
  power : ∀ t, h.power.get t = Power.idle
  queue : h.queue = []
  sweep : h.sweep.state = .idle
  survey : h.surveyNext = none
  rows : ∀ r, (h.rows.get r).waiting = []
  xps : ∀ x, (h.xp x).pos = .unknown
  pos : ∀ a, (h.pos.get a).request = none ∧ (h.pos.get a).go = none ∧ (h.pos.get a).stopOutstanding = false ∧
    (h.pos.get a).state ≠ .moving
  steered : ∀ a, e.steers a = true → h.pos.get a = PosRec.unknown
  posPoll : h.posPoll = []

/-- Only STRAY latches, flags and records are new. -/
def LatchesOnly (h g : Hall) : Prop := g = { h with stray := g.stray, flags := g.flags }

theorem LatchesOnly.refl : LatchesOnly h h := rfl

theorem LatchesOnly.trans (a : LatchesOnly h g) (b : LatchesOnly g f) : LatchesOnly h f := by
  unfold LatchesOnly at *
  rw [b, a]

theorem AtRest.latches (w : AtRest e h) (a : LatchesOnly h g) : AtRest e g := by
  rw [a]
  exact ⟨w.work, w.ctx, w.claims, w.gates, w.power, w.queue, w.sweep, w.survey, w.rows, w.xps, w.pos, w.steered, w.posPoll⟩

namespace AtRest

variable (w : AtRest e h)

include w

/-- The gates are as low as they are. -/
theorem same_gates {gates : Tab Gate 16} (low : ∀ t, gates.get t = Gate.low) : { h with gates := gates } = h := by
  have eq : gates = h.gates := Tab.ext_get fun t => (low t).trans (w.gates t).symm
  rw [eq]

theorem lowerAll : lowerAll e h = h :=
  w.same_gates fun t => by rw [Tab.get_map, w.gates]; rfl

theorem lowerFailed {e' : Env} : lowerFailed e' h = h :=
  w.same_gates fun t => by rw [Tab.get_build, w.gates]; split <;> rfl

theorem dropPermit {e' : Env} : dropPermit e' t h = h :=
  w.same_gates fun u => by
    rw [Tab.get_modify]
    split <;> rw [w.gates]
    rfl

theorem abortSweep : abortSweep h = h := if_pos w.sweep

theorem abortSurvey : abortSurvey h = h := by
  have eq := w.survey
  unfold Machine.abortSurvey
  rw [← eq]

theorem emptyWaiting : emptyWaiting h = h := by
  have eq : h.rows.map (fun y => { y with waiting := [] }) = h.rows := Tab.ext_get fun r => by
    rw [Tab.get_map]
    have none := w.rows r
    generalize h.rows.get r = y at none
    rw [← none]
  unfold Machine.emptyWaiting
  rw [eq]

theorem stopMatrix : stopMatrix e h = h := by
  have queue : ({ h with queue := h.queue.filter fun n => n.inFlight } : Hall) = h := by rw [w.queue, List.filter_nil, ← w.queue]
  unfold Machine.stopMatrix
  dsimp only
  rw [queue, w.queue]
  exact w.emptyWaiting

theorem forgetPositions : forgetPositions h = h := by
  have eq : (h.xps.map fun y => y.map fun x => { x with pos := .unknown }) = h.xps :=
    Tab.ext_get fun r => Tab.ext_get fun t => by
      rw [Tab.get_map, Tab.get_map]
      have unknown := w.xps ⟨t, r⟩
      unfold Hall.xp at unknown
      dsimp only at unknown
      generalize (h.xps.get r).get t = y at unknown
      rw [← unknown]
  unfold Machine.forgetPositions
  rw [eq]

theorem localMatrix : localMatrix e h = h := by
  have queue : ({ h with queue := [] } : Hall) = h := by rw [← w.queue]
  unfold Machine.localMatrix
  rw [queue, w.queue, w.forgetPositions]
  exact w.emptyWaiting

theorem haltAll : haltAll e h = h := by
  unfold Machine.haltAll
  induction allFin 16 with
  | nil => rfl
  | cons t l ih =>
    rw [List.foldl_cons, haltContext_resting (.inl (by rw [w.ctx]; rfl))]
    exact ih

theorem stopPositioners : stopPositioners h = h := by
  have eq : (h.pos.map fun p =>
      { p with stopOutstanding := p.stopOutstanding || p.state == .moving, go := none, request := none }) = h.pos :=
    Tab.ext_get fun a => by
      rw [Tab.get_map]
      obtain ⟨request, go, stop, still⟩ := w.pos a
      generalize h.pos.get a = p at request go stop still
      have stop' : (p.stopOutstanding || p.state == .moving) = p.stopOutstanding := by simp [stop, still]
      rw [stop', ← request, ← go]
  unfold Machine.stopPositioners
  rw [eq]

theorem localPositioners : localPositioners e h = h := by
  have eq : (Tab.build 24 fun a => if e.steers a then PosRec.unknown else h.pos.get a) = h.pos :=
    Tab.ext_get fun a => by
      rw [Tab.get_build]
      split
      · next steers => exact (w.steered a steers).symm
      · rfl
  have poll := w.posPoll
  unfold Machine.localPositioners
  rw [eq, ← poll]

theorem stopHall : stopHall e h = h := by
  unfold Machine.stopHall
  rw [w.lowerAll, w.abortSweep, w.abortSurvey, w.stopMatrix, w.haltAll, w.stopPositioners]

theorem localHall : localHall e h = h := by
  unfold Machine.localHall
  rw [w.lowerAll, w.abortSweep, w.abortSurvey, w.localMatrix, w.haltAll, w.localPositioners]

end AtRest

/-- A mode does not matter to rest. -/
theorem AtRest.inMode {m : Mode} (w : AtRest e h) : AtRest { e with mode := m } h :=
  ⟨w.work, w.ctx, w.claims, w.gates, w.power, w.queue, w.sweep, w.survey, w.rows, w.xps, w.pos, w.steered, w.posPoll⟩

theorem AtRest.takeHallstop (w : AtRest s.env s.hall) : (takeHallstop s).hall = raiseNotice .hallStop s.hall := by
  have raised : AtRest s.env (raiseNotice .hallStop s.hall) := w.latches rfl
  rw [takeHallstop_hall, hallstopRaised, w.lowerAll]
  split
  · rfl
  · exact raised.inMode.stopHall

theorem AtRest.takeLocal (w : AtRest s.env s.hall) : (takeLocal s).hall = s.hall := by
  rw [takeLocal_hall]
  split
  · rfl
  · exact w.inMode.localHall

/-- After a reset only HALLSTOP raises anything in a hall at rest. -/
theorem AtRest.examineLines (w : AtRest s.env s.hall) : (examineLines s).hall =
    if s.env.pins.hallstop then raiseNotice .hallStop s.hall else s.hall := by
  unfold Machine.examineLines
  by_cases stop : s.env.pins.hallstop = true
  · rw [if_pos stop, if_pos stop, w.takeHallstop]
  · rw [if_neg stop, if_neg stop]
    split
    · exact w.takeLocal
    · rfl

/-! The settling of a hall at rest. -/

theorem foldl_same {β : Type} {k : Hall → β → Hall} (l : List β) (same : ∀ b, k h b = h) : l.foldl k h = h := by
  induction l with
  | nil => rfl
  | cons b l ih => rw [List.foldl_cons, same b, ih]

/-- A STRAY latch in a hall at rest (R180). -/
def latched (r : Row) (h : Hall) : Hall := raiseNotice .strayRf { h with stray := h.stray.set r true }

theorem AtRest.latchStray (w : AtRest e h) : latchStray e r h = latched r h := by
  have w' : AtRest e (latched r h) := w.latches rfl
  have permits := foldl_same (h := latched r h) (k := fun h t => Machine.dropPermit e t h)
    ((allFin 16).filter fun t => !h.isOpen ⟨t, r⟩) fun t => w'.dropPermit
  have cuts := foldl_same (h := latched r h) (k := fun h t => if (h.ctx.get t).state.strayCut then cut e t .stray h else h)
    ((allFin 16).filter fun t => !h.isOpen ⟨t, r⟩) fun t => by rw [w'.ctx]; rfl
  have caught : claimsCaught (latched r h) r none = [] := by
    unfold claimsCaught
    rw [List.filter_eq_nil_iff]
    intro t _
    rw [w'.claims]
    exact Bool.false_ne_true
  have rows : strayRow e r (latched r h) = latched r h := by
    have gone : failEntries e .stray [] (latched r h) = latched r h := rfl
    unfold strayRow
    rw [w'.queue, List.filter_nil]
    dsimp only
    rw [gone, caught]
    rfl
  unfold Machine.latchStray
  dsimp only
  exact (congrArg (strayRow e r) ((congrArg (fun g => List.foldl _ g _) permits).trans cuts)).trans rows

theorem find?_none {α : Type} {l : List α} {p : α → Bool} (w : ∀ a, p a = false) : l.find? p = none :=
  List.find?_eq_none.2 fun a _ => ne_true_of_eq_false (w a)

/-- The one standing rule that may have something to do in a hall at rest is the stray-RF guard. -/
theorem AtRest.standingRule (w : AtRest e h) : standingRule e h =
    ((allFin 26).find? (strayFound e h)).map fun r => latched r h := by
  have idle (t : Tx) : (h.ctx.get t).state = .idle := by rw [w.ctx]; rfl
  have fall : (allFin 16).find? (shouldFall e h) = none := find?_none fun t => by
    unfold shouldFall
    rw [w.gates]
    rfl
  have rise : (allFin 16).find? (shouldRise e h) = none := find?_none fun t => by
    unfold shouldRise
    rw [w.gates]
    rfl
  have stale : (allFin 16).find? (ceilingStale e h) = none := find?_none fun t => by
    unfold ceilingStale requestedPower serviceLimit plainLimit
    rw [w.power, w.ctx]
    rfl
  have ready : (allFin 16).find? (deferredReady h) = none := find?_none fun t => by
    unfold deferredReady
    rw [w.claims]
    rfl
  have position : (allFin 16).find? (positionReady e h) = none := find?_none fun t => by
    simp [positionReady, idle]
  have stands : (allFin 16).find? (standingReady h) = none := find?_none fun t => by
    simp [standingReady, idle]
  have reads : readReady e h = false := by simp [readReady, w.survey]
  have picks : pickEntry e h = none := by
    unfold pickEntry
    rw [w.queue]
    rfl
  unfold Machine.standingRule
  rw [fall, rise, stale, ready, position, stands, reads, picks, w.queue]
  cases (allFin 26).find? (strayFound e h) with
  | some r => exact congrArg some w.latchStray
  | none => simp

/-- A settling of a hall at rest latches rows and does nothing else. -/
theorem AtRest.settle (w : AtRest e h) : LatchesOnly h (settle e h) ∧
    ∀ n, (settle e h).noticeSet n = true → n = .strayRf ∨ h.noticeSet n = true := by
  have agenda (fuel : Nat) : ∀ h, AtRest e h → LatchesOnly h (runAgenda e fuel h) ∧
      ∀ n, (runAgenda e fuel h).noticeSet n = true → n = .strayRf ∨ h.noticeSet n = true := by
    induction fuel with
    | zero => exact fun h _ => ⟨.refl, fun _ => .inr⟩
    | succ fuel ih =>
      intro h w
      unfold runAgenda agendaStep
      rw [w.work]
      dsimp only
      rw [w.standingRule]
      cases (allFin 26).find? (strayFound e h) with
      | none => exact ⟨.refl, fun _ => .inr⟩
      | some r =>
        have latch : LatchesOnly h (latched r h) := rfl
        obtain ⟨only, notices⟩ := ih _ (w.latches latch)
        refine ⟨latch.trans only, fun n set => ?_⟩
        obtain rfl | before := notices n set
        · exact .inl rfl
        · exact noticeSet_raise_iff.1 before
  obtain ⟨only, notices⟩ := agenda Config.settleBound h w
  unfold Machine.settle
  rw [(w.latches only).lowerFailed]
  exact ⟨only, notices⟩

/-- A hall at rest without RF stays as it is. -/
theorem AtRest.settle_quiet (w : AtRest e h) (quiet : e.noRf) : Machine.settle e h = h := by
  have none : agendaStep e h = none := by
    unfold agendaStep
    rw [w.work]
    dsimp only
    rw [w.standingRule, find?_none fun r => by simp [strayFound, quiet r]]
    rfl
  rw [Machine.settle_quiet none, w.lowerFailed]

end Sys2Proof.Machine
end

section
/-! PROOFS. Power-up, hall reset and its release (O58). -/

namespace Sys2Proof.Machine

variable {s t b d : State} {e : Env} {h g f : Hall} {u v : Tx} {x : Xp} {r : Row} {n m : Notice} {q : PlaceNo}

/-! The end of an event in a hall at rest. -/

theorem AtRest.conclude {z : Bool} (w : AtRest d.env d.hall) : LatchesOnly d.hall (conclude b z d).hall ∧
    ∀ n, (conclude b z d).hall.noticeSet n = true → n = .strayRf ∨ n = .noAntenna ∨ d.hall.noticeSet n = true := by
  obtain ⟨only, notices⟩ := w.settle
  obtain same | raised := conclude_hall b d z
  · rw [same]
    exact ⟨only, fun n set => (notices n set).imp_right .inr⟩
  · rw [raised]
    refine ⟨only.trans rfl, fun n set => ?_⟩
    obtain rfl | before := noticeSet_raise_iff.1 set
    · exact .inr (.inl rfl)
    · exact (notices n before).imp_right .inr

/-- While the valid flag is clear the due list stays empty (R50). -/
theorem conclude_due_empty {z : Bool} (invalid : d.env.clock.valid = false) (empty : d.env.due = []) :
    (conclude b z d).env.due = [] := by
  unfold Machine.conclude
  dsimp only
  split
  · show (computeDue d.env _).1 = []
    unfold computeDue
    rw [invalid]
    rfl
  · exact empty

/-! Power-up (R200). -/

theorem powerUp_rest : AtRest e Hall.powerUp where
  work := rfl
  ctx := fun _ => Tab.get_fill ..
  claims := fun _ => Tab.get_fill ..
  gates := fun _ => Tab.get_fill ..
  power := fun _ => Tab.get_fill ..
  queue := rfl
  sweep := rfl
  survey := rfl
  rows := fun _ => by simp [Hall.powerUp, RowRec.powerUp]
  xps := fun _ => by simp [Hall.powerUp, Hall.xp, XpRec.powerUp]
  pos := fun _ => by simp [Hall.powerUp, PosRec.unknown]
  steered := fun _ _ => Tab.get_fill ..
  posPoll := rfl

/-- The state right after power-up, before the lines are examined. -/
def poweredUp (s : State) : State :=
  { env := Env.powerUp s.env.pins, port := Port.powerUp, hall := Hall.powerUp, pending := s.pending }

theorem exec_powerUp : exec .powerUp s = .next (conclude (poweredUp s) false (examineLines (poweredUp s))) := rfl

/-- The mode that HALLSTOP, then LOCAL, gives after a reset (R200). -/
def lineMode (p : Pins) : Mode := if p.hallstop then .stop else if p.localKey then .localKey else .config

theorem examineLines_mode (mode : s.env.mode = .config) :
    (examineLines s).env = { s.env with mode := lineMode s.env.pins } := by
  rw [examineLines_env, mode]
  rfl

theorem lineMode_config {p : Pins} : lineMode p = .config ↔ p.hallstop = false ∧ p.localKey = false := by
  unfold lineMode
  cases p.hallstop <;> cases p.localKey <;> simp

/-- With both lines released nothing is examined. -/
theorem examineLines_config (config : lineMode s.env.pins = .config) : examineLines s = s := by
  obtain ⟨stop, key⟩ := lineMode_config.1 config
  unfold examineLines
  rw [stop, key]
  rfl

theorem powerUp_quiet (config : lineMode s.env.pins = .config) (quiet : s.env.noRf) :
    (conclude (poweredUp s) false (examineLines (poweredUp s))).hall = Hall.powerUp := by
  rw [examineLines_config (s := poweredUp s) config]
  have settled : settle (poweredUp s).env (poweredUp s).hall = (poweredUp s).hall := powerUp_rest.settle_quiet quiet
  unfold conclude
  dsimp only
  rw [settled]
  simp [poweredUp]

/-- Power-up as O58 says it. -/
theorem powerUp_spec : ∃ t, exec .powerUp s = .next t ∧ t.env.mode = lineMode s.env.pins ∧ t.env.pins = s.env.pins ∧
    t.port = Port.powerUp ∧ t.env.tables = Tables.powerUp ∧ t.env.banks = Banks.powerUp ∧
    t.env.clock = Clock.powerUp ∧ t.env.due = [] ∧ t.hall.base = Hall.powerUp.base ∧
    (s.env.pins.hallstop = true → t.hall.noticeSet .hallStop = true) ∧
    (lineMode s.env.pins = .config → s.env.noRf → t.hall = Hall.powerUp) := by
  have env : (examineLines (poweredUp s)).env = { Env.powerUp s.env.pins with mode := lineMode s.env.pins } :=
    examineLines_mode rfl
  have hall := (powerUp_rest (e := (poweredUp s).env)).examineLines (s := poweredUp s)
  have base : (examineLines (poweredUp s)).hall.base = Hall.powerUp.base := by rw [hall]; split <;> rfl
  refine ⟨_, exec_powerUp, ?_, ?_, ?_, ?_, ?_, ?_, conclude_due_empty ?_ ?_, ?_, fun stop => conclude_notice _ _ _ ?_,
    powerUp_quiet⟩
  · rw [conclude_mode, env]
  · rw [conclude_pins, env]
    rfl
  · rw [conclude_port, (examineLines_queue _).2]
    rfl
  · rw [conclude_tables, env]
    rfl
  · rw [conclude_banks, env]
    rfl
  · rw [conclude_clock, env]
    rfl
  · rw [env]
    rfl
  · rw [env]
    rfl
  · rw [conclude_base, base]
  · rw [hall, if_pos (show (poweredUp s).env.pins.hallstop = true from stop)]
    exact noticeSet_raised ..

/-! The outcomes of a hall reset (R43, R65, R95). -/

/-- The last-outcome field that a kept occurrence leaves when it is halted (R85, R95). -/
def Kept.haltedOutcome (k : Kept) : PlanOutcome :=
  ⟨k.handle, { outcome := .halted, reason := some .mode, start := k.start, late := 0, early := 0 }⟩

/-- The last-outcome field that a context leaves when it is halted (R43, R95). -/
def haltOutcome (c : Context) (now : Nat) (last : Option PlanOutcome) : Option PlanOutcome :=
  match c.state, c.held with
  | .idle, _ | .halted, _ => last
  | .ending, .occurrence o =>
    match c.decided, c.kept with
    | some d, _ => some ⟨o.handle, outcomeOf d o.start o.finish c.lateSeconds c.wentOnAir⟩
    | none, some k => some k.haltedOutcome
    | none, none => last
  | .ending, _ =>
    match c.kept with
    | some k => some k.haltedOutcome
    | none => last
  | _, .occurrence o => some ⟨o.handle, outcomeOf { outcome := .halted, reason := some .mode, ended := now } o.start
      o.finish c.lateSeconds c.wentOnAir⟩
  | _, _ => last

/-- The last-outcome field when a context finishes (R84). -/
theorem finishIdle_last_self : (finishIdle e v h).lastOutcome.get v =
    match (h.ctx.get v).occ, (h.ctx.get v).decided with
    | some o, some d =>
      some ⟨o.handle, outcomeOf d o.start o.finish (h.ctx.get v).lateSeconds (h.ctx.get v).wentOnAir⟩
    | _, _ => h.lastOutcome.get v := by
  cases ho : (h.ctx.get v).occ with
  | none => rw [finishIdle_last_none ho]
  | some o =>
    cases hd : (h.ctx.get v).decided with
    | some d => exact finishIdle_last_of ho hd
    | none =>
      have held : finishHeld e v (releasePath e v h) = releasePath e v h := by
        unfold finishHeld
        dsimp only
        rw [releasePath_occ, releasePath_decided, ho, hd]
      rw [finishIdle_last, held, releasePath_last]

theorem dropKept_self : (dropKept e v .halted .mode h).ctx.get v = { h.ctx.get v with kept := none } ∧
    (dropKept e v .halted .mode h).lastOutcome.get v =
      match (h.ctx.get v).kept with
      | some k => some k.haltedOutcome
      | none => h.lastOutcome.get v := by
  cases hk : (h.ctx.get v).kept with
  | none =>
    rw [dropKept_none hk]
    refine ⟨?_, rfl⟩
    rw [← hk]
  | some k => exact dropKept_dropped hk

/-- A context halted in ENDING (R85, R95). -/
theorem haltEnds_last_ending (ending : (h.ctx.get v).state = .ending) :
    (haltEnds e v h).lastOutcome.get v = haltOutcome (h.ctx.get v) e.now (h.lastOutcome.get v) := by
  obtain ⟨ctx, last⟩ := dropKept_self (e := e) (v := v) (h := h)
  unfold haltEnds haltOutcome
  rw [if_pos ending, finishIdle_last_self, dropPermit_ctx, ctx, ending]
  show (match (h.ctx.get v).occ, (h.ctx.get v).decided with
    | some o, some d => _
    | _, _ => (dropKept e v .halted .mode h).lastOutcome.get v) = _
  rw [last]
  unfold Context.occ
  cases (h.ctx.get v).held with
  | occurrence o => cases (h.ctx.get v).decided <;> cases (h.ctx.get v).kept <;> rfl
  | nothing | proving row => cases (h.ctx.get v).kept <;> rfl

/-- A context halted while it worked (R43, R95). -/
theorem haltEnds_last_working (working : (h.ctx.get v).state.working = true) :
    (haltEnds e v h).lastOutcome.get v = haltOutcome (h.ctx.get v) e.now (h.lastOutcome.get v) := by
  have notEnding : ¬(h.ctx.get v).state = .ending := fun eq => by rw [eq] at working; exact Bool.noConfusion working
  have ctx : (withdrawPosition v (dropPermit e v (endRun v .halted (decideOutcome v .halted (some .mode) e.now h)))).ctx =
      (decideOutcome v .halted (some .mode) e.now h).ctx := rfl
  have last : (withdrawPosition v (dropPermit e v (endRun v .halted (decideOutcome v .halted (some .mode) e.now
      h)))).lastOutcome = h.lastOutcome := rfl
  unfold haltEnds
  rw [if_neg notEnding, finishIdle_last_self, ctx, last]
  cases held : (h.ctx.get v).held with
  | occurrence o =>
    have outcome : haltOutcome (h.ctx.get v) e.now (h.lastOutcome.get v) = some ⟨o.handle,
        outcomeOf { outcome := .halted, reason := some .mode, ended := e.now } o.start o.finish
          (h.ctx.get v).lateSeconds (h.ctx.get v).wentOnAir⟩ := by
      unfold haltOutcome
      rw [held]
      cases state : (h.ctx.get v).state <;> first | rfl | (rw [state] at working; cases working)
    have occ : ({ h.ctx.get v with decided := some ⟨.halted, some .mode, e.now⟩ } : Context).occ = some o := by
      unfold Context.occ
      dsimp only
      rw [held]
    rw [decideOutcome_self held, outcome, occ]
    rfl
  | nothing | proving row =>
    have none : (h.ctx.get v).occ = none := by unfold Context.occ; rw [held]
    rw [decideOutcome_idle none, none]
    unfold haltOutcome
    rw [held]
    cases state : (h.ctx.get v).state <;> first | rfl | (rw [state] at working notEnding; cases working)

theorem haltContext_last : (haltContext e v h).lastOutcome.get v =
    haltOutcome (h.ctx.get v) e.now (h.lastOutcome.get v) := by
  by_cases resting : (h.ctx.get v).state = .idle ∨ (h.ctx.get v).state = .halted
  · rw [haltContext_resting resting]
    unfold haltOutcome
    obtain state | state := resting <;> rw [state]
  · have ⟨idle, halted⟩ := not_or.1 resting
    rw [haltContext_ends idle halted]
    show (haltEnds e v h).lastOutcome.get v = _
    by_cases ending : (h.ctx.get v).state = .ending
    · exact haltEnds_last_ending ending
    · refine haltEnds_last_working ?_
      cases state : (h.ctx.get v).state <;> first | rfl | exact absurd state ‹_›

theorem haltAll_last : (haltAll e h).lastOutcome.get v =
    haltOutcome (h.ctx.get v) e.now (h.lastOutcome.get v) :=
  foldl_at (f := fun h t => haltContext e t h) (I := Apart v h)
    (R := fun g => g.lastOutcome.get v = haltOutcome (h.ctx.get v) e.now (h.lastOutcome.get v)) (List.nodup_finRange 16)
    (List.mem_finRange v) .refl (fun _ _ hb w => w.trans (haltContext_apart hb.symm))
    (fun g w => by rw [haltContext_last, w.ctx, w.last])
    (fun g b hb w => (haltContext_apart hb.symm).last.trans w)

/-! The notices of a hall reset (R96, R206). -/

/-- Of the notices only those of outcomes are set. -/
def OutcomesOnly (h : Hall) : Prop := ∀ n, h.noticeSet n = true → n = .missed ∨ n = .cut

theorem OutcomesOnly.flags (w : OutcomesOnly h) (flags : g.flags = h.flags) : OutcomesOnly g := by
  unfold OutcomesOnly Hall.noticeSet at *
  rwa [flags]

theorem OutcomesOnly.finishRecord {k : Handle} {o : LastOutcome} (w : OutcomesOnly h) :
    OutcomesOnly (finishRecord e v k o h) := by
  have rest (g : Hall) (w : OutcomesOnly g) : OutcomesOnly (outcomeNotice o.outcome g) := by
    unfold outcomeNotice
    split
    · exact fun n set => (noticeSet_raise_iff.1 set).elim .inl (w n)
    · exact fun n set => (noticeSet_raise_iff.1 set).elim .inr (w n)
    all_goals exact w
  exact rest _ (w.flags (by simp))

theorem OutcomesOnly.finishIdle (w : OutcomesOnly h) : OutcomesOnly (finishIdle e v h) := by
  have released : OutcomesOnly (releasePath e v h) := w.flags (by rw [releasePath_path.eq])
  have held : OutcomesOnly (finishHeld e v (releasePath e v h)) := by
    unfold finishHeld
    dsimp only
    split
    · exact released.finishRecord
    · exact released
  exact held

theorem OutcomesOnly.dropKept {o : OccOutcome} {y : Reason} (w : OutcomesOnly h) : OutcomesOnly (dropKept e v o y h) := by
  cases hk : (h.ctx.get v).kept with
  | none =>
    rw [dropKept_none hk]
    exact w
  | some k =>
    rw [dropKept_some hk]
    exact OutcomesOnly.finishRecord (h := h) w

theorem OutcomesOnly.haltContext (w : OutcomesOnly h) : OutcomesOnly (haltContext e v h) := by
  by_cases resting : (h.ctx.get v).state = .idle ∨ (h.ctx.get v).state = .halted
  · rw [haltContext_resting resting]
    exact w
  · have ⟨idle, halted⟩ := not_or.1 resting
    have ends : OutcomesOnly (haltEnds e v h) := by
      unfold haltEnds
      split
      · exact OutcomesOnly.finishIdle (h := dropPermit e v _) w.dropKept
      · exact OutcomesOnly.finishIdle (h := withdrawPosition v _) w
    rw [haltContext_ends idle halted]
    exact ends

theorem OutcomesOnly.haltAll (w : OutcomesOnly h) : OutcomesOnly (haltAll e h) := by
  unfold Machine.haltAll
  induction allFin 16 generalizing h with
  | nil => exact w
  | cons t l ih => exact ih w.haltContext

/-! The hall after a reset (R43, R125, R143, R159, R184). -/

theorem Hall.ctx_idle (idle : ∀ t, h.ctx.get t = Context.idle) : h.keptPlaces = [] := by
  unfold Hall.keptPlaces
  rw [List.filterMap_eq_nil_iff]
  intro t _
  rw [idle]
  rfl

theorem freshPos_eq {c : Option AntCfg} : freshPos c = PosRec.unknown ∨
    ∃ b, freshPos c = { PosRec.unknown with state := .idle, azimuth := some b, tilt := some 0 } := by
  unfold freshPos
  split
  · exact .inr ⟨_, rfl⟩
  all_goals exact .inl rfl

theorem freshPos_steered {a : Ant} (steers : e.steers a = true) : freshPos (e.tables.ant.get a) = PosRec.unknown := by
  unfold Env.steers at steers
  unfold freshPos
  split
  · next kind =>
    rw [kind] at steers
    exact Bool.noConfusion steers
  all_goals rfl

theorem hallReset_xp : (h.hallReset e).xp x = (h.xp x).hallReset := by
  show ((h.xps.map fun w : Tab XpRec 16 => w.map XpRec.hallReset).get x.row).get x.tx = _
  rw [Tab.get_map, Tab.get_map]
  rfl

theorem hallReset_sweep : (h.hallReset e).sweep.state = .idle := by
  show (h.sweep.hallReset h.exercise).state = .idle
  unfold Sweep.hallReset
  split
  · next idle => exact idle
  all_goals rfl

theorem hallReset_pos {a : Ant} : (h.hallReset e).pos.get a = freshPos (e.tables.ant.get a) := Tab.get_build ..

theorem hallReset_flags : (h.hallReset e).flags = (haltAll e { h with flags := 0 }).flags := by
  unfold Hall.hallReset
  dsimp only

theorem hallReset_rest : AtRest e (h.hallReset e) where
  work := rfl
  ctx := fun _ => Tab.get_fill ..
  claims := fun _ => Tab.get_fill ..
  gates := fun _ => Tab.get_fill ..
  power := fun _ => Tab.get_fill ..
  queue := rfl
  sweep := hallReset_sweep
  survey := rfl
  rows := fun r => by
    show ((Tab.fill 26 RowRec.powerUp).get r).waiting = []
    rw [Tab.get_fill]
    rfl
  xps := fun _ => by rw [hallReset_xp]; rfl
  pos := fun a => by
    rw [hallReset_pos]
    obtain eq | ⟨b, eq⟩ := freshPos_eq (c := e.tables.ant.get a) <;> rw [eq] <;> exact ⟨rfl, rfl, rfl, PosState.noConfusion⟩
  steered := fun a steers => hallReset_pos.trans (freshPos_steered steers)
  posPoll := rfl

/-- Only latches, flags and the standing of records are new since the reset. -/
def ResetOnly (h g : Hall) : Prop := g = { h with slots := g.slots, stray := g.stray, flags := g.flags }

theorem ResetOnly.refl : ResetOnly h h := rfl

theorem ResetOnly.fields (a : ResetOnly h g) : g.base = h.base ∧ g.links = h.links ∧ g.runs = h.runs ∧ g.rows = h.rows ∧
    (∀ x, g.xp x = h.xp x) ∧ g.pos = h.pos ∧ g.sweep = h.sweep ∧ g.lastOutcome = h.lastOutcome ∧ g.reading = h.reading ∧
    g.exercise = h.exercise := by
  rw [a]
  exact ⟨rfl, rfl, rfl, rfl, fun _ => rfl, rfl, rfl, rfl, rfl, rfl⟩

theorem AtRest.records (w : AtRest e h) (a : ResetOnly h g) : AtRest e g := by
  rw [a]
  exact ⟨w.work, w.ctx, w.claims, w.gates, w.power, w.queue, w.sweep, w.survey, w.rows, w.xps, w.pos, w.steered, w.posPoll⟩

theorem ResetOnly.latches (a : ResetOnly h g) (b : LatchesOnly g f) : ResetOnly h f := by
  unfold ResetOnly LatchesOnly at *
  rw [b, a]

/-- The hall of a reset, before anything follows from it. -/
def resetHall (s : State) : Hall := s.hall.hallReset s.env.hallReset

theorem resetHall_flags : OutcomesOnly (resetHall s) := by
  have none : OutcomesOnly { s.hall with flags := 0 } := fun n set => by
    unfold Hall.noticeSet at set
    simp at set
  exact none.haltAll.flags hallReset_flags

/-- The standing of the records after a reset: found anew while the valid flag is set (R43). -/
def resetSlots (s : State) : Tab Slot 1024 :=
  if s.env.hallReset.clock.valid then (restandAll s.env.hallReset (resetHall s)).slots else (resetHall s).slots

/-- A recomputation raises at most NO_ANTENNA in the hall it reads. -/
theorem recompute_raises {d : State} : LatchesOnly d.hall (recompute d).hall ∧
    (recompute d).hall.slots = d.hall.slots ∧ (recompute d).hall.stray = d.hall.stray ∧
    ∀ n, (recompute d).hall.noticeSet n = true → n = .noAntenna ∨ d.hall.noticeSet n = true := by
  obtain same | raised := recompute_hall d
  · rw [same]
    exact ⟨rfl, rfl, rfl, fun n => .inr⟩
  · rw [raised]
    exact ⟨rfl, rfl, rfl, fun n => noticeSet_raise_iff.1⟩

/-- The state of a hall reset, before its due list is rebuilt. -/
def resetState (s : State) : State :=
  { env := s.env.hallReset, port := s.port.hallReset, hall := resetHall s, pending := s.pending }

theorem resetState_hall : (resetState s).hall = resetHall s := rfl

theorem afterReset_valid (valid : s.env.hallReset.clock.valid = true) : afterReset s =
    recompute { resetState s with env := { s.env.hallReset with due := [] }
                                  hall := restandAll s.env.hallReset (resetHall s) } := if_pos valid

theorem afterReset_invalid (invalid : ¬s.env.hallReset.clock.valid = true) : afterReset s = resetState s :=
  if_neg invalid

theorem resetHall_stray : (resetHall s).stray = s.hall.stray := by
  unfold resetHall Hall.hallReset
  dsimp only

theorem restandAll_stray : (restandAll e h).stray = h.stray := rfl

theorem restandAll_only : ResetOnly h (restandAll e h) := rfl

theorem afterReset_hall : ResetOnly (resetHall s) (afterReset s).hall ∧ (afterReset s).hall.slots = resetSlots s ∧
    (afterReset s).hall.stray = s.hall.stray ∧
    ∀ n, (afterReset s).hall.noticeSet n = true → n = .missed ∨ n = .cut ∨ n = .noAntenna := by
  have outcomes := resetHall_flags (s := s)
  unfold resetSlots
  by_cases valid : s.env.hallReset.clock.valid = true
  · obtain ⟨only, slots, stray, notices⟩ := recompute_raises (d := { resetState s with
      env := { s.env.hallReset with due := [] }, hall := restandAll s.env.hallReset (resetHall s) })
    rw [← afterReset_valid valid] at only slots stray notices
    dsimp only at only slots stray notices
    rw [restandAll_stray, resetHall_stray] at stray
    rw [if_pos valid]
    refine ⟨restandAll_only.latches only, slots, stray, fun n set => ?_⟩
    obtain rfl | before := notices n set
    · exact .inr (.inr rfl)
    · exact (outcomes n (restandAll_notice.symm.trans before)).imp_right .inl
  · rw [if_neg valid, afterReset_invalid valid, resetState_hall]
    exact ⟨.refl, rfl, resetHall_stray, fun n set => (outcomes n set).imp_right .inl⟩

/-- The hall of a reset once everything that follows has happened. -/
theorem hallReset_settled {g : Hall} (hg : g = (conclude b false (examineLines (afterReset s))).hall) :
    ResetOnly (resetHall s) g ∧ g.slots = resetSlots s ∧
    (∀ r, s.hall.stray.get r = true → g.stray.get r = true) ∧
    (s.env.pins.hallstop = true → g.noticeSet .hallStop = true) ∧
    ∀ n, g.noticeSet n = true → n = .missed ∨ n = .cut ∨ n = .noAntenna ∨ n = .strayRf ∨ n = .hallStop := by
  subst hg
  obtain ⟨only, slots, stray, notices⟩ := afterReset_hall (s := s)
  have env := afterReset_env s
  have rest : AtRest (afterReset s).env (afterReset s).hall := by
    have reset : AtRest s.env.hallReset (afterReset s).hall := hallReset_rest.records only
    rw [env]
    exact ⟨reset.work, reset.ctx, reset.claims, reset.gates, reset.power, reset.queue, reset.sweep, reset.survey, reset.rows,
      reset.xps, reset.pos, reset.steered, reset.posPoll⟩
  have lines := rest.examineLines
  have latches : LatchesOnly (afterReset s).hall (examineLines (afterReset s)).hall := by
    rw [lines]
    split <;> rfl
  have lineNotices (n : Notice) (set : (examineLines (afterReset s)).hall.noticeSet n = true) :
      n = .hallStop ∨ (afterReset s).hall.noticeSet n = true := by
    rw [lines] at set
    split at set
    · exact noticeSet_raise_iff.1 set
    · exact .inr set
  have examined : AtRest (examineLines (afterReset s)).env (examineLines (afterReset s)).hall := by
    rw [examineLines_env]
    exact (rest.latches latches).inMode
  obtain ⟨settled, raised⟩ := examined.conclude (b := b) (z := false)
  refine ⟨(only.latches latches).latches settled, ?_, fun r latch => ?_, fun stop => ?_, fun n set => ?_⟩
  · rw [settled, latches, ← slots]
  · refine conclude_stays b false (stray_stable r) ?_
    rw [lines]
    split <;> exact (congrArg (fun y : Tab Bool 26 => y.get r) stray).trans latch
  · refine conclude_notice _ _ _ ?_
    rw [lines, if_pos (by rw [env]; exact stop)]
    exact noticeSet_raised ..
  · obtain rfl | rfl | before := raised n set
    · simp
    · simp
    · obtain rfl | before := lineNotices n before
      · simp
      · have := notices n before
        tauto

/-! What a hall reset gives each block. -/

/-- What the statement of a hall reset says of the base: ages, enables, routes and units are kept. -/
def keptBase (h : Hall) : Base :=
  { Hall.powerUp.base with
    ages := h.ages, enables := h.enables, routes := h.routes, txUnit := h.txUnit, antUnit := h.antUnit }

theorem hallReset_base : (h.hallReset e).base = keptBase h := by
  unfold Hall.hallReset Hall.base keptBase
  dsimp only [Hall.base]

theorem hallReset_links : (h.hallReset e).links.get u = Link.powerUp := by
  unfold Hall.hallReset
  exact Tab.get_fill ..

theorem hallReset_runs : (h.hallReset e).runs.get u =
    if (h.runs.get u).running then { h.runs.get u with running := false, result := .halted } else h.runs.get u := by
  unfold Hall.hallReset
  exact Tab.get_map ..

theorem hallReset_rows : (h.hallReset e).rows.get r = { res := .free, waiting := [] } := by
  unfold Hall.hallReset
  exact Tab.get_fill ..

theorem hallReset_reading : (h.hallReset e).reading = none ∧ (h.hallReset e).exercise = Exercise.powerUp := by
  unfold Hall.hallReset
  exact ⟨rfl, rfl⟩

theorem hallReset_last : (h.hallReset e).lastOutcome.get u = haltOutcome (h.ctx.get u) e.now (h.lastOutcome.get u) := by
  have halted := haltAll_last (e := e) (v := u) (h := { h with flags := 0 })
  dsimp only at halted
  unfold Hall.hallReset
  dsimp only
  exact halted

theorem hallReset_slot (free : h.uninvolved q) : (h.hallReset e).slots.get q = h.slots.get q := by
  have kept : Stays e (fun g => g.uninvolved q ∧ g.slots.get q = h.slots.get q) { h with flags := 0 } :=
    ⟨slot_stable q _, free, rfl⟩
  have halted := (haltAll_stays kept).holds.2
  unfold Hall.hallReset
  dsimp only
  exact halted

/-- A record's standing found anew keeps everything but DORMANT and WAITING. -/
theorem restandAll_slot (idle : ∀ t, h.ctx.get t = Context.idle) :
    (restandAll e h).slots.get q = { h.slots.get q with record := (h.slots.get q).record.map (restand e) } := by
  unfold restandAll
  rw [Hall.ctx_idle idle]
  exact Tab.get_map ..

theorem resetHall_last : (resetHall s).lastOutcome.get u =
    haltOutcome (s.hall.ctx.get u) s.env.now (s.hall.lastOutcome.get u) := by
  have now : s.env.hallReset.now = s.env.now := by
    obtain ⟨day, second, -⟩ := Clock.hallReset_date s.env.elapsed s.env.clock
    unfold Env.now Clock.now
    exact congrArg₂ (fun d i => d * 86400 + i) day second
  have reset := hallReset_last (e := s.env.hallReset) (h := s.hall) (u := u)
  rwa [now] at reset

/-- What a reset leaves of a place that no changeover is concerned with (R43). -/
theorem resetSlots_place (free : s.hall.uninvolved q) : ((resetSlots s).get q).gen = (s.hall.slots.get q).gen ∧
    match s.hall.recordAt q with
    | none => ((resetSlots s).get q).record = none
    | some r => ∃ st : RecState, ((resetSlots s).get q).record = some { r with state := st } ∧
      if r.state = .dormant ∨ r.state = .waiting then st = .dormant ∨ st = .waiting else st = r.state := by
  have slot : (resetHall s).slots.get q = s.hall.slots.get q := hallReset_slot free
  unfold resetSlots Hall.recordAt
  split
  · rw [restandAll_slot (h := resetHall s) hallReset_rest.ctx, slot]
    refine ⟨rfl, ?_⟩
    cases record : (s.hall.slots.get q).record with
    | none => rfl
    | some r =>
      refine ⟨(restand s.env.hallReset r).state, congrArg some (restand_eq ..), ?_⟩
      split
      · next standing => exact (restand_dormant _ standing).symm
      · next standing =>
        have ⟨dormant, waiting⟩ := not_or.1 standing
        rw [restand_started _ dormant waiting]
  · rw [slot]
    refine ⟨rfl, ?_⟩
    cases record : (s.hall.slots.get q).record with
    | none => rfl
    | some r =>
      refine ⟨r.state, rfl, ?_⟩
      split
      · next standing => exact standing
      · rfl

/-- The environment of a hall reset once everything that follows has happened (R2, R9, R200). -/
theorem hallReset_env : (conclude b false (examineLines (afterReset s))).env = { s.env.hallReset with
    due := (conclude b false (examineLines (afterReset s))).env.due, mode := lineMode s.env.pins } := by
  have after := afterReset_env s
  have mode : (afterReset s).env.mode = .config := by rw [after]; rfl
  have pins : lineMode (afterReset s).env.pins = lineMode s.env.pins := by rw [after]; rfl
  have lines : (examineLines (afterReset s)).env =
      { s.env.hallReset with due := (afterReset s).env.due, mode := lineMode s.env.pins } := by
    rw [examineLines_mode mode, pins, after]
  rw [conclude_env, lines]

theorem clockReset_eq {i : Nat} {c : Clock} : c.hallReset i =
    if c.markState = .off then c else { c with markState := .waiting, markWatch := some (i + 3000) } := by
  unfold Clock.hallReset
  cases mark : c.markState with
  | off => exact (if_pos rfl).symm
  | waiting | locked | lost => exact (if_neg MarkState.noConfusion).symm

theorem sweepReset_eq {x : Exercise} {w : Sweep} : w.hallReset x =
    match w.state with
    | .idle => { w with next := none }
    | .running | .stopping =>
      { w with state := .idle, next := none, result := .aborted
               skipped := w.skipped + if x.phase ≠ .idle ∧ x.origin = .sweep then 1 else 0 } := by
  unfold Sweep.hallReset
  cases w.state with
  | idle => rfl
  | running | stopping =>
    dsimp only
    by_cases abandoned : x.phase ≠ .idle ∧ x.origin = .sweep
    · rw [if_pos abandoned, if_pos abandoned]
    · rw [if_neg abandoned, if_neg abandoned]
      rfl

theorem hallReset_sweepRecord : (h.hallReset e).sweep = h.sweep.hallReset h.exercise := by
  unfold Hall.hallReset
  dsimp only

/-- The release of RESETn as O58 says it (R198). -/
theorem hallResetRelease_spec : ∃ t, exec .hallResetRelease s = .next t ∧ t.port = s.port ∧ t.hall.base = s.hall.base ∧
    StuckKept s.hall t.hall ∧ (∀ r : Row, s.hall.stray.get r = true → t.hall.stray.get r = true) ∧
    t.env = { s.env with due := t.env.due, pins := { s.env.pins with resetHeld := false } } :=
  ⟨_, rfl, conclude_port .., conclude_base .., fun x => conclude_stuck _ _ _ x,
    fun r latch => conclude_stays s false (stray_stable r) latch, conclude_env ..⟩

/-- Settles O58. -/
theorem resetsGiveTheirValues : Obligations.ResetsGiveTheirValues := by
  refine fun s => ⟨powerUp_spec, ?_, hallResetRelease_spec⟩
  generalize fresh : resetState s = b
  generalize hg : (conclude b false (examineLines (afterReset s))).hall = g
  have next : exec .hallReset s = .next (conclude b false (examineLines (afterReset s))) := by rw [← fresh]; rfl
  obtain ⟨only, slots, stray, stop, notices⟩ := hallReset_settled hg.symm
  have env := hallReset_env (b := b) (s := s)
  have rest : AtRest s.env.hallReset g := hallReset_rest.records only
  obtain ⟨base, links, runs, rows, xps, pos, sweep, last, reading, exercise⟩ := only.fields
  obtain ⟨noReading, noExercise⟩ := hallReset_reading (h := s.hall) (e := s.env.hallReset)
  refine ⟨_, next, ?_⟩
  rw [hg, env, conclude_port, (examineLines_queue _).2, (afterReset_queue s).2]
  refine ⟨rfl, rfl, rfl, rfl, clockReset_eq, rfl, rfl, rfl, base.trans hallReset_base, fun x => ?_, stray, fun u => ?_, stop,
    fun n set => ?_, fun u => ⟨rest.ctx u, rest.claims u, rest.gates u, rest.power u, ?_⟩,
    ⟨rest.queue, reading.trans noReading, rest.survey, exercise.trans noExercise⟩, fun r => ?_, fun x => ?_, fun a => ?_,
    ?_, fun u => ?_, fun q free => ?_⟩
  · rw [xps]
    exact (congrArg XpRec.stuck (hallReset_xp (e := s.env.hallReset) (h := s.hall) (x := x))).trans rfl
  · rw [links]
    unfold LinkKept resetHall
    rw [hallReset_links]
    exact ⟨rfl, rfl, rfl⟩
  · have := notices n set
    tauto
  · rw [runs]
    exact hallReset_runs
  · rw [rows]
    exact hallReset_rows
  · rw [xps]
    exact hallReset_xp
  · rw [pos]
    exact hallReset_pos
  · rw [sweep]
    exact hallReset_sweepRecord.trans sweepReset_eq
  · rw [last]
    exact resetHall_last
  · have place := resetSlots_place free
    rw [← slots] at place
    exact place

end Sys2Proof.Machine
end

section
/-! PROOFS. The poll cycles of the two links (O45). -/

namespace Sys2Proof.Machine

variable {r : PosRec} {s t b d : State} {e : Env} {h g : Hall} {u : Tx} {a : Ant} {l : Link} {p : Preset}

/-- The state at which the next cycle of a link begins: 1 s after the one before began, the first at once (R133, R147). -/
def cycleStart (s : State) (before : Option Nat) : State :=
  match before with
  | some b => s.passTo (b + 1000)
  | none => s

theorem cycleStart_env {before : Option Nat} : (cycleStart s before).env = { s.env with
    elapsed := match before with
      | some b => max s.env.elapsed (b + 1000)
      | none => s.env.elapsed
    clock := { s.env.clock with phase := (cycleStart s before).env.clock.phase } } := by
  cases before with
  | none => rfl
  | some b =>
    have elapsed := passTo_elapsed (b + 1000) s.env
    unfold cycleStart
    dsimp only
    rw [← elapsed]
    rfl

theorem cycleStart_same {before : Option Nat} : (cycleStart s before).hall = s.hall ∧
    (cycleStart s before).port = s.port := by
  cases before <;> exact ⟨rfl, rfl⟩

/-! The hall link (R147, R153). -/

theorem hallPollCycle_begins (held : s.env.pins.resetHeld = false) (poll : s.hall.hallPoll = []) :
    exec .hallPollCycle s = .next (beginHallCycle (cycleStart s s.hall.hallCycle)) := by
  show execHallPollCycle s = _
  unfold execHallPollCycle
  rw [if_neg (by simp [held, poll])]
  cases s.hall.hallCycle <;> rfl

/-- A PRESET carried by a poll keeps or takes its number (R153). -/
theorem carried_pending (pending : l.pending = some p) :
    (l.carried p).pending = some { p with number := some (l.numberFor p) } := by
  unfold Link.carried Link.numberFor
  dsimp only
  cases number : p.number with
  | some n =>
    dsimp only
    rw [pending, Option.getD_some, ← number]
  | none => rfl

theorem carried_kept : LinkKept l (l.carried p) := by
  unfold Link.carried
  dsimp only
  split <;> exact ⟨rfl, rfl, rfl⟩

/-- What a poll that goes out leaves of the hall (R147). -/
theorem sendHallPoll_eq : sendHallPoll u h = { h with
    hallSent := hallFrame u (h.links.get u), links := (sendHallPoll u h).links } := by
  unfold sendHallPoll
  dsimp only
  split <;> rfl

theorem sendHallPoll_link {v : Tx} : (sendHallPoll u h).links.get v =
    match (h.links.get u).carries with
    | some p => if u = v then (h.links.get u).carried p else h.links.get v
    | none => h.links.get v := by
  unfold sendHallPoll
  dsimp only
  cases (h.links.get u).carries with
  | none => rfl
  | some p =>
    dsimp only
    rw [Hall.modLink_get]
    split
    · next same => rw [same]
    · rfl

theorem sendHallPoll_kept {v : Tx} : LinkKept (h.links.get v) ((sendHallPoll u h).links.get v) := by
  rw [sendHallPoll_link]
  split
  · split
    · next same =>
      subst same
      exact carried_kept
    · exact ⟨rfl, rfl, rfl⟩
  · exact ⟨rfl, rfl, rfl⟩

theorem sendHallPoll_other {v : Tx} (hv : u ≠ v) : (sendHallPoll u h).links.get v = h.links.get v := by
  rw [sendHallPoll_link]
  split
  · exact if_neg hv
  · rfl

theorem hallFrame_empty (none : l.carries = none) : hallFrame u l = withCheck [BitVec.ofNat 8 u.val, 0] := by
  unfold hallFrame
  rw [none]
  rfl

theorem hallFrame_preset (some : l.carries = some p) : hallFrame u l = withCheck
    ([BitVec.ofNat 8 u.val, 1, BitVec.ofNat 8 (l.numberFor p)] ++ b2 p.freq ++ [BitVec.ofNat 8 p.programme] ++
      b2 p.power) := by
  unfold hallFrame
  rw [some]
  rfl

/-- What the poll of a transmitter carries, by its pending PRESET (R147). -/
theorem sendHallPoll_sent : match (h.links.get u).pending with
    | some q =>
      if (h.links.get u).state = .active ∧ (h.links.get u).telemetry.isSome = true then
        let n := (h.links.get u).numberFor q
        (sendHallPoll u h).hallSent = withCheck ([BitVec.ofNat 8 u.val, 1, BitVec.ofNat 8 n] ++ b2 q.freq ++
          [BitVec.ofNat 8 q.programme] ++ b2 q.power) ∧
        ((sendHallPoll u h).links.get u).pending = some { q with number := some n }
      else (sendHallPoll u h).hallSent = withCheck [BitVec.ofNat 8 u.val, 0]
    | none => (sendHallPoll u h).hallSent = withCheck [BitVec.ofNat 8 u.val, 0] := by
  have sent : (sendHallPoll u h).hallSent = hallFrame u (h.links.get u) := by rw [sendHallPoll_eq]
  have carries : (h.links.get u).carries =
      if (h.links.get u).state = .active ∧ (h.links.get u).telemetry.isSome then (h.links.get u).pending else none := rfl
  rw [sent]
  cases pending : (h.links.get u).pending with
  | none =>
    refine hallFrame_empty (carries.trans ?_)
    rw [pending]
    split <;> rfl
  | some q =>
    dsimp only
    split
    · next rides =>
      rw [if_pos rides, pending] at carries
      refine ⟨hallFrame_preset carries, ?_⟩
      rw [sendHallPoll_link, carries]
      dsimp only
      rw [if_pos rfl]
      exact carried_pending pending
    · next stays =>
      rw [if_neg stays] at carries
      exact hallFrame_empty carries

/-- The hall as a cycle of the hall link begins, before the first poll goes out. -/
def hallCycleHall (s : State) : Hall :=
  { s.hall with hallPoll := configuredTx s.env, hallCycle := some s.env.elapsed }

theorem nextHallPoll_none (none : g.hallPoll.head? = none) : nextHallPoll g = g := by
  unfold nextHallPoll
  rw [List.head?_eq_none_iff.1 none]

theorem nextHallPoll_first (first : g.hallPoll.head? = some u) : nextHallPoll g = sendHallPoll u g := by
  obtain ⟨rest, poll⟩ := List.head?_eq_some_iff.1 first
  unfold nextHallPoll
  rw [poll]

/-- What the first poll of a cycle leaves (R147). -/
theorem nextHallPoll_eq :
    nextHallPoll g = { g with hallSent := (nextHallPoll g).hallSent, links := (nextHallPoll g).links } := by
  cases first : g.hallPoll.head? with
  | none => rw [nextHallPoll_none first]
  | some v =>
    rw [nextHallPoll_first first]
    nth_rw 1 [sendHallPoll_eq]
    rw [sendHallPoll_eq]

theorem nextHallPoll_links {u : Tx} : LinkKept (g.links.get u) ((nextHallPoll g).links.get u) ∧
    (g.hallPoll.head? ≠ some u → (nextHallPoll g).links.get u = g.links.get u) := by
  cases first : g.hallPoll.head? with
  | none =>
    rw [nextHallPoll_none first]
    exact ⟨⟨rfl, rfl, rfl⟩, fun _ => rfl⟩
  | some v =>
    rw [nextHallPoll_first first]
    exact ⟨sendHallPoll_kept, fun other => sendHallPoll_other fun same => other (by rw [same])⟩

/-! The positioner link (R133, R135). -/

theorem positionerPollCycle_begins (held : s.env.pins.resetHeld = false) (silent : s.env.linksSilent = false)
    (poll : s.hall.posPoll = []) : exec .positionerPollCycle s = .next (beginPosCycle (cycleStart s s.hall.posCycle)) := by
  show execPositionerPollCycle s = _
  unfold execPositionerPollCycle
  rw [if_neg (by simp [held, silent, poll])]
  cases s.hall.posCycle <;> rfl

/-- What the poll of an antenna leaves of the hall: its frame and at most its own positioner record (R133). -/
theorem sendPosPoll_eq : sendPosPoll e a h = { h with
    posSent := (sendPosPoll e a h).posSent, pos := (sendPosPoll e a h).pos } := by
  unfold sendPosPoll
  dsimp only
  (repeat' split) <;> rfl

theorem sendPosPoll_other {c : Ant} (hc : c ≠ a) : (sendPosPoll e a h).pos.get c = h.pos.get c := by
  unfold sendPosPoll
  dsimp only
  (repeat' split) <;> first | rfl | exact modPos_other hc

theorem sendPosPoll_stop (stop : (h.pos.get a).stopOutstanding = true) :
    (sendPosPoll e a h).posSent = withCheck [BitVec.ofNat 8 a.val, 2] := by
  unfold sendPosPoll
  dsimp only
  rw [if_pos stop]
  rfl

theorem sendPosPoll_plain (run : (h.pos.get a).stopOutstanding = false) (none : goNow e h a = none) :
    (sendPosPoll e a h).posSent = withCheck [BitVec.ofNat 8 a.val, 0] := by
  unfold sendPosPoll
  dsimp only
  rw [if_neg (ne_true_of_eq_false run), none]
  rfl

theorem sendPosPoll_go {q : PosRec} {g : GoRec} (run : (h.pos.get a).stopOutstanding = false)
    (goes : goNow e h a = some q) (go : q.go = some g) :
    (sendPosPoll e a h).posSent = withCheck ([BitVec.ofNat 8 a.val, 1] ++ b2 g.azimuth ++
      [BitVec.ofNat 8 g.tilt, BitVec.ofNat 8 g.turn.code]) ∧ (sendPosPoll e a h).pos.get a = q := by
  unfold sendPosPoll
  dsimp only
  rw [if_neg (ne_true_of_eq_false run), goes]
  dsimp only
  rw [go]
  refine ⟨?_, modPos_self⟩
  simp only [b1, List.append_assoc, List.cons_append, List.nil_append]
  rfl

/-- The hall as a cycle of the positioner link begins, before the first poll goes out. -/
def posCycleHall (s : State) : Hall :=
  { s.hall with posPoll := (allFin 24).filter s.env.steers, posCycle := some s.env.elapsed }

theorem nextPosPoll_first (steer : ∀ a ∈ h.posPoll, e.steers a = true) : nextPosPoll e h =
    match h.posPoll.head? with
    | some a => sendPosPoll e a h
    | none => h := by
  unfold nextPosPoll
  rw [List.filter_eq_self.2 steer]
  cases poll : h.posPoll with
  | nil =>
    dsimp only [List.head?_nil]
    rw [← poll]
  | cons v l =>
    dsimp only [List.head?_cons]
    rw [← poll]

theorem nextPosPoll_eq (steer : ∀ a ∈ h.posPoll, e.steers a = true) : nextPosPoll e h =
    { h with posSent := (nextPosPoll e h).posSent, pos := (nextPosPoll e h).pos } := by
  rw [nextPosPoll_first steer]
  cases h.posPoll.head? with
  | none => rfl
  | some v => exact sendPosPoll_eq

theorem nextPosPoll_other (steer : ∀ a ∈ h.posPoll, e.steers a = true) (other : h.posPoll.head? ≠ some a) :
    (nextPosPoll e h).pos.get a = h.pos.get a := by
  rw [nextPosPoll_first steer]
  cases first : h.posPoll.head? with
  | none => rfl
  | some v => exact sendPosPoll_other fun same => other (by rw [first, same])

/-- The due list does not matter to a GO. -/
theorem goNow_due {due : List DueEntry} : goNow { e with due := due } h a = goNow e h a := rfl

/-- The hall link's cycle as O45 says it. -/
theorem hallCycle_spec (held : s.env.pins.resetHeld = false) (poll : s.hall.hallPoll = []) :
    ∃ t, exec .hallPollCycle s = .next t ∧ t.port = s.port ∧ t.env = (cycleStart s s.hall.hallCycle).env ∧
      t.hall = nextHallPoll { s.hall with
        hallPoll := (allFin 16).filter (fun u => (s.env.tables.tx.get u).isSome), hallCycle := some t.env.elapsed } := by
  obtain ⟨hall, port⟩ := cycleStart_same (s := s) (before := s.hall.hallCycle)
  refine ⟨_, hallPollCycle_begins held poll, port, rfl, ?_⟩
  have tables : configuredTx (cycleStart s s.hall.hallCycle).env =
      (allFin 16).filter (fun u => (s.env.tables.tx.get u).isSome) := by
    rw [cycleStart_env]
    rfl
  show nextHallPoll _ = _
  rw [tables, hall]
  rfl

/-- The positioner link's cycle as O45 says it. -/
theorem posCycle_spec (held : s.env.pins.resetHeld = false) (silent : s.env.linksSilent = false)
    (poll : s.hall.posPoll = []) : ∃ t, exec .positionerPollCycle s = .next t ∧ t.port = s.port ∧
      t.env = { (cycleStart s s.hall.posCycle).env with due := t.env.due } ∧
      Concludes (cycleStart s s.hall.posCycle) { cycleStart s s.hall.posCycle with
        hall := nextPosPoll (cycleStart s s.hall.posCycle).env
          { s.hall with posPoll := (allFin 24).filter s.env.steers
                        posCycle := some (cycleStart s s.hall.posCycle).env.elapsed } } t := by
  obtain ⟨hall, port⟩ := cycleStart_same (s := s) (before := s.hall.posCycle)
  have steers : (cycleStart s s.hall.posCycle).env.steers = s.env.steers := by
    rw [cycleStart_env]
    rfl
  refine ⟨_, positionerPollCycle_begins held silent poll, ?_, ?_, false, ?_⟩
  · exact (conclude_port ..).trans port
  · exact conclude_env ..
  · generalize cycleStart s s.hall.posCycle = b at hall steers
    rw [← hall, ← steers]
    exact ⟨rfl, rfl⟩

/-- What goes out of a positioner poll to one antenna, its cycle begun (R133, R135). -/
def PollSent (e : Env) (h : Hall) (a : Ant) (sent : List (BitVec 8)) (after : PosRec) : Prop :=
  ((h.pos.get a).stopOutstanding = true → sent = withCheck [BitVec.ofNat 8 a.val, 2]) ∧
  ((h.pos.get a).stopOutstanding = false → goNow e h a = none → sent = withCheck [BitVec.ofNat 8 a.val, 0]) ∧
  ∀ (q : PosRec) (g : GoRec), (h.pos.get a).stopOutstanding = false → goNow e h a = some q → q.go = some g →
    sent = withCheck ([BitVec.ofNat 8 a.val, 1] ++ b2 g.azimuth ++
      [BitVec.ofNat 8 g.tilt, BitVec.ofNat 8 g.turn.code]) ∧ PosKept q after

theorem sendPosPoll_sent (same : ∀ q, q = (sendPosPoll e a h).pos.get a → PosKept q r) :
    PollSent e h a (sendPosPoll e a h).posSent r :=
  ⟨sendPosPoll_stop, sendPosPoll_plain, fun _q _g run goes go =>
    have ⟨sent, pos⟩ := sendPosPoll_go run goes go
    ⟨sent, same _ pos.symm⟩⟩

theorem Concludes.pos (w : Concludes b d t) (a : Ant) : PosKept (d.hall.pos.get a) (t.hall.pos.get a) := by
  obtain ⟨f, hall, -⟩ := w
  rw [hall]
  exact posKept_of_same (conclude_pos b d f a)

theorem cycleStart_elapsed {before : Option Nat} : (cycleStart s before).env.elapsed = match before with
    | some b => max s.env.elapsed (b + 1000)
    | none => s.env.elapsed := by
  rw [cycleStart_env]

theorem cycleStart_time {before : Option Nat} {due : List DueEntry}
    (env : t.env = { (cycleStart s before).env with due := due }) : OnlyTime s t := by
  have same := cycleStart_env (s := s) (before := before)
  unfold OnlyTime
  rw [env]
  generalize (cycleStart s before).env = e at same ⊢
  rw [same]

/-- A hall of which the first poll has taken its frame and its links alone. -/
theorem polled_kept {polled after : Hall} {list : List Tx} {cycle : Option Nat}
    (begun : polled = { h with hallPoll := list, hallCycle := cycle })
    (kept : after = { polled with hallSent := after.hallSent, links := after.links }) :
    after = { h with hallPoll := after.hallPoll, hallCycle := after.hallCycle
                     hallSent := after.hallSent, links := after.links } := by
  subst begun
  rw [kept]

/-- A cycle of the hall link begins (R147). -/
theorem hallPollCycle_polls (held : s.env.pins.resetHeld = false) (poll : s.hall.hallPoll = []) :
    ∃ t, exec .hallPollCycle s = .next t ∧ t.port = s.port ∧ OnlyTime s t ∧
      t.env.elapsed = (cycleStart s s.hall.hallCycle).env.elapsed ∧ ∃ polled : Hall,
        polled = { s.hall with hallPoll := (allFin 16).filter (fun u => (s.env.tables.tx.get u).isSome)
                               hallCycle := some t.env.elapsed } ∧
        t.hall = nextHallPoll polled := by
  obtain ⟨t, next, port, env, hall⟩ := hallCycle_spec held poll
  refine ⟨t, next, port, cycleStart_time (before := s.hall.hallCycle) (due := t.env.due) ?_, by rw [env], _, rfl, hall⟩
  rw [env]

/-- The first poll of a cycle of the positioner link, concluded (R133, R135). -/
theorem posCycle_polled {p : List Ant} {c : Option Nat} {polled : Hall} (w : Concludes b { s with hall := nextPosPoll e polled } t)
    (begun : polled = { h with posPoll := p, posCycle := c }) (steer : ∀ a ∈ p, e.steers a = true) :
    t.hall.posPoll = p ∧
    t.hall.base = { h.base with posPoll := t.hall.posPoll, posCycle := c, posSent := t.hall.posSent } ∧
    (∀ a, t.hall.posPoll.head? = some a → PollSent e h a t.hall.posSent (t.hall.pos.get a)) ∧
    StuckKept h t.hall ∧
    ∀ a, t.hall.posPoll.head? ≠ some a → PosKept (h.pos.get a) (t.hall.pos.get a) := by
  subst begun
  generalize polledEq : ({ h with posPoll := p, posCycle := c } : Hall) = polled at w
  have steer : ∀ a ∈ polled.posPoll, e.steers a = true := by
    rw [← polledEq]
    exact steer
  have kept := nextPosPoll_eq steer
  have base := w.base
  have list : t.hall.posPoll = (nextPosPoll e polled).posPoll := congrArg Base.posPoll base
  have sent : t.hall.posSent = (nextPosPoll e polled).posSent := congrArg Base.posSent base
  have same : (nextPosPoll e polled).posPoll = polled.posPoll := by rw [kept]
  refine ⟨?_, ?_, fun a first => ?_, fun x => (w.stuck x).trans ?_, fun a other => ?_⟩
  · rw [list, same, ← polledEq]
  · rw [list, sent, base, kept, ← polledEq]
    rfl
  · rw [sent]
    rw [list, same] at first
    have poll := nextPosPoll_first steer
    rw [first] at poll
    dsimp only at poll
    have goes : PollSent e polled a (sendPosPoll e a polled).posSent (t.hall.pos.get a) :=
      sendPosPoll_sent fun q eq => by
        rw [eq, ← poll]
        exact w.pos a
    rw [poll]
    rw [← polledEq] at goes ⊢
    exact goes
  · show ((nextPosPoll e polled).xp x).stuck = _
    rw [kept, ← polledEq]
    rfl
  · rw [list, same] at other
    have keeps := w.pos a
    have posEq : polled.pos = h.pos := by rw [← polledEq]
    rw [← posEq, ← nextPosPoll_other steer other]
    exact keeps

theorem positionerCycle_polls (held : s.env.pins.resetHeld = false) (silent : s.env.linksSilent = false)
    (poll : s.hall.posPoll = []) :
    ∃ t, exec .positionerPollCycle s = .next t ∧ t.port = s.port ∧ OnlyTime s t ∧
      t.env.elapsed = (match s.hall.posCycle with
        | some b => max s.env.elapsed (b + 1000)
        | none => s.env.elapsed) ∧
      t.hall.posPoll = (allFin 24).filter s.env.steers ∧
      t.hall.base = { s.hall.base with
        posPoll := t.hall.posPoll, posCycle := some t.env.elapsed, posSent := t.hall.posSent } ∧
      (∀ a, t.hall.posPoll.head? = some a → PollSent t.env s.hall a t.hall.posSent (t.hall.pos.get a)) ∧
      StuckKept s.hall t.hall ∧
      ∀ a, t.hall.posPoll.head? ≠ some a → PosKept (s.hall.pos.get a) (t.hall.pos.get a) := by
  obtain ⟨t, next, port, env, concludes⟩ := posCycle_spec held silent poll
  have elapsed : t.env.elapsed = (cycleStart s s.hall.posCycle).env.elapsed := by rw [env]
  have steers : (cycleStart s s.hall.posCycle).env.steers = s.env.steers := by
    rw [cycleStart_env]
    rfl
  obtain ⟨list, base, sent, stuck, pos⟩ := posCycle_polled concludes rfl
    (fun a ha => by rw [steers]; exact (List.mem_filter.1 ha).2)
  refine ⟨t, next, port, cycleStart_time env, elapsed.trans cycleStart_elapsed, list, ?_, fun a first => ?_, stuck, pos⟩
  · rw [elapsed]
    exact base
  · rw [env]
    exact sent a first

/-- Settles O45. -/
theorem pollCyclesBegin : Obligations.PollCyclesBegin := by
  intro s held
  refine ⟨fun poll => ?_, fun silent poll => ?_⟩
  · obtain ⟨t, next, port, time, elapsed, polled, begun, hall⟩ := hallPollCycle_polls held poll
    have kept := nextHallPoll_eq (g := polled)
    have list : t.hall.hallPoll = polled.hallPoll := by rw [hall, kept]
    have cycle : t.hall.hallCycle = polled.hallCycle := by rw [hall, kept]
    have links : polled.links = s.hall.links := by rw [begun]
    refine ⟨t, next, port, time, elapsed.trans cycleStart_elapsed, ?_, ?_, ?_, fun u first => ?_, fun u => ?_⟩
    · rw [cycle, begun]
    · rw [list, begun]
    · rw [← hall] at kept
      exact polled_kept begun kept
    · rw [list] at first
      rw [hall, nextHallPoll_first first, ← links]
      exact sendHallPoll_sent
    · rw [list, hall, ← links]
      exact nextHallPoll_links
  · exact positionerCycle_polls held silent poll

end Sys2Proof.Machine
end

section
/-! PROOFS. What a start does to other contexts (O19). -/

namespace Sys2Proof.Machine

/-- A record of bank B for T0 on A0, kept at place 0 of the hall below. -/
def waitingSchedule : Schedule :=
  { bank := .b, tx := 0, startMinute := 720, duration := 60, days := 127, firstDay := none, lastDay := none, freq := 9410,
    target := .antenna 0, azimuth := none, tilt := 0, power := 250, programme := 1, cut := 60 }

/-- T0 is IDLE and quiet; row 1 is FREE and is still to be handed on to T1, whose claim waits for it. -/
def waitingHall : Hall :=
  { Hall.powerUp with
    slots := Hall.powerUp.slots.set 0 { gen := 0, record := some (newRecord waitingSchedule ⟨false, false, false⟩) }
    links := Hall.powerUp.links.modify 0 fun l => { l with
      telemetry := some { report := .off, freq := none, forward := 0, reflected := 0, cause := none, ack := none, takenAt := 0 } }
    rows := Hall.powerUp.rows.set 1 { res := .free, waiting := [{ tx := 1, deadline := 0 }] }
    ctx := Hall.powerUp.ctx.modify 1 fun c => { c with claimWaiting := true }
    work := [.handOn 1] }

/-- The due entry of T0's record, resolved to row 0. -/
def waitingEntry : DueEntry :=
  { tx := 0, handle := ⟨0, 0⟩, start := 43200, finish := 46800, resolved := some 0, lead := 0, long := false,
    beginAt := 43200, expectedLate := 0, blocked := none, noAntennaGiven := false }

theorem waitingHall_waits : (waitingHall.ctx.get 1).claimWaiting = true := by decide

/-- The start of T0 claims row 0, before which row 1 is handed on to T1 (R106, log 5): T1 is told "granted". -/
theorem takeEntry_hands_on :
    ((takeEntry (Env.powerUp Pins.released) waitingEntry waitingHall).ctx.get 1).claimWaiting = false := by
  decide +kernel

/-- Refutes O19: a start does not leave every other context as it was. It claims a row, and a row that is still to be
handed on goes to its waiting claim first, whose context is told so. Within the pass over the ready entries an earlier
start can leave such a row (it becomes RELEASING or PARKED and is reported, R106). -/
theorem not_secondBoundaryMovesContexts : ¬ Obligations.SecondBoundaryMovesContexts := by
  intro ⟨_, _, _, starts, _⟩
  obtain ⟨-, -, -, taken⟩ := starts (Env.powerUp Pins.released) waitingHall waitingEntry
  have others := (taken 0 (newRecord waitingSchedule ⟨false, false, false⟩) rfl rfl).1
  have same := congrArg Context.claimWaiting (others 1 (by decide))
  rw [takeEntry_hands_on, waitingHall_waits] at same
  exact Bool.noConfusion same

end Sys2Proof.Machine
end

section
/-! SUPPORT. The requests of a claim: what they do to the work queue, the claim and the rows (R104, R105). -/

namespace Sys2Proof.Machine

variable {e : Env} {h h' g f a : Hall} {t u : Tx} {q : Req} {row r : Row} {n m : QEntry} {x y : Xp} {d : Dir}
  {X Y Z : Xp → Dir → Prop}

/-- Two entries are of one operation: the same crosspoint, direction and flight. -/
def SameMove (m n : QEntry) : Prop := n.xp = m.xp ∧ n.dir = m.dir ∧ n.inFlight = m.inFlight

/-- The requests `X` of the claim `q` have been made, and the queue holds what it held. One behind an operation toward the
opposite position is not in the queue (R105). -/
structure Requested (q : Req) (X : Xp → Dir → Prop) (h g : Hall) : Prop where
  old : ∀ m ∈ h.queue, ∃ n ∈ g.queue, SameMove m n ∧ (q ∈ m.reqs → q ∈ n.reqs)
  new : ∀ n ∈ g.queue, X n.xp n.dir ∨ ∃ m ∈ h.queue, SameMove m n
  asked : ∀ x d, X x d → (∀ n ∈ h.queue, n.xp = x → n.dir = d) → ∃ n ∈ g.queue, n.xp = x ∧ n.dir = d ∧ q ∈ n.reqs

namespace Requested

theorem of_same (same : g.queue = h.queue) : Requested q (fun _ _ => False) h g where
  old m hm := ⟨m, by rw [same]; exact hm, ⟨rfl, rfl, rfl⟩, id⟩
  new n hn := .inr ⟨n, by rw [← same]; exact hn, rfl, rfl, rfl⟩
  asked _ _ no := no.elim

/-- Requests one after the other, none toward both positions of a crosspoint. -/
theorem trans (a : Requested q X h g) (b : Requested q Y g f) (apart : ∀ x d d', X x d' → Y x d → d' = d) :
    Requested q (fun x d => X x d ∨ Y x d) h f where
  old m hm := by
    obtain ⟨n, hn, ⟨xp, dir, flight⟩, keep⟩ := a.old m hm
    obtain ⟨k, hk, ⟨xp', dir', flight'⟩, keep'⟩ := b.old n hn
    exact ⟨k, hk, ⟨xp'.trans xp, dir'.trans dir, flight'.trans flight⟩, keep' ∘ keep⟩
  new n hn := by
    obtain inY | ⟨m, hm, xp, dir, flight⟩ := b.new n hn
    · exact .inl (.inr inY)
    · obtain inX | ⟨k, hk, xp', dir', flight'⟩ := a.new m hm
      · exact .inl (.inl (by rw [xp, dir]; exact inX))
      · exact .inr ⟨k, hk, xp.trans xp', dir.trans dir', flight.trans flight'⟩
  asked x d want free := by
    obtain inX | inY := want
    · obtain ⟨n, hn, xp, dir, asks⟩ := a.asked x d inX free
      obtain ⟨k, hk, ⟨xp', dir', -⟩, keep⟩ := b.old n hn
      exact ⟨k, hk, xp'.trans xp, dir'.trans dir, keep asks⟩
    · refine b.asked x d inY fun n hn at' => ?_
      obtain inX | ⟨m, hm, xp, dir, -⟩ := a.new n hn
      · rw [at'] at inX
        exact apart x d n.dir inX inY
      · rw [dir]
        exact free m hm (xp.symm.trans at')

/-- The same requests under another description. -/
theorem congr (a : Requested q X h g) (same : ∀ x d, X x d ↔ Y x d) : Requested q Y h g := by
  have eq : X = Y := funext fun x => funext fun d => propext (same x d)
  rw [← eq]
  exact a

end Requested

theorem attach_same {z : Requester} : SameMove n (n.attach z) := by cases z <;> exact ⟨rfl, rfl, rfl⟩

theorem attach_asks : q ∈ (n.attach (.claim q)).reqs := List.mem_append_right _ (List.mem_singleton_self q)

/-- An entry that takes on a claim's request keeps those of this claim. -/
theorem modEntry_requested (hn : n ∈ h.queue) (xp : n.xp = x) (dir : n.dir = d) :
    Requested q (fun y d' => y = x ∧ d' = d) h (h.modEntry n.arrival fun m => m.attach (.claim q)) where
  old m hm := by
    refine ⟨_, List.mem_map_of_mem hm, ?_⟩
    dsimp only
    split
    · exact ⟨attach_same, fun _ => attach_asks⟩
    · exact ⟨⟨rfl, rfl, rfl⟩, id⟩
  new k hk := by
    obtain ⟨m, hm, rfl⟩ := List.mem_map.1 hk
    refine .inr ⟨m, hm, ?_⟩
    split
    · exact attach_same
    · exact ⟨rfl, rfl, rfl⟩
  asked y d' want _ := by
    obtain ⟨rfl, rfl⟩ := want
    refine ⟨_, List.mem_map_of_mem hn, ?_⟩
    rw [if_pos rfl]
    exact ⟨xp, dir, attach_asks⟩

theorem joinQueue_requested : Requested q (fun y d' => y = x ∧ d' = d) h (joinQueue x d (.claim q) h) where
  old m hm := ⟨m, List.mem_append_left _ hm, ⟨rfl, rfl, rfl⟩, id⟩
  new k hk := by
    obtain old | new := List.mem_append.1 hk
    · exact .inr ⟨k, old, rfl, rfl, rfl⟩
    · rw [List.mem_singleton.1 new]
      exact .inl ⟨rfl, rfl⟩
  asked y d' want _ := by
    obtain ⟨rfl, rfl⟩ := want
    exact ⟨_, List.mem_append_right _ (List.mem_singleton_self _), rfl, rfl, attach_asks⟩

/-- What an entry found in the queue is of. -/
theorem entry_is (hn : h.entry x d = some n) : n ∈ h.queue ∧ n.xp = x ∧ n.dir = d := by
  have found := List.find?_some hn
  simp only [Bool.and_eq_true, beq_iff_eq] at found
  exact ⟨List.mem_of_find?_eq_some hn, found⟩

theorem opposite_ne : d.opposite ≠ d := by cases d <;> decide

/-- A request that a claim holds behind an operation toward the opposite position (R105). -/
theorem deferred_requested (hn : h.entry x d.opposite = some n) (same : g.queue = h.queue) :
    Requested q (fun y d' => y = x ∧ d' = d) h g where
  old m hm := ⟨m, by rw [same]; exact hm, ⟨rfl, rfl, rfl⟩, id⟩
  new k hk := .inr ⟨k, by rw [← same]; exact hk, rfl, rfl, rfl⟩
  asked y d' want free := by
    obtain ⟨rfl, rfl⟩ := want
    obtain ⟨hm, xp, dir⟩ := entry_is hn
    exact (opposite_ne (dir.symm.trans (free n hm xp))).elim

/-- A claim's request (R105). -/
theorem queueOp_requested : Requested q (fun y d' => y = x ∧ d' = d) h (queueOp x d (.claim q) h) := by
  cases found : h.entry x d with
  | some n =>
    obtain ⟨hn, xp, dir⟩ := entry_is found
    rw [queueOp_attached found]
    exact modEntry_requested hn xp dir
  | none =>
    unfold queueOp
    rw [found]
    cases behind : h.entry x d.opposite with
    | none => exact joinQueue_requested
    | some n =>
      dsimp only
      split
      · exact deferred_requested behind rfl
      · exact joinQueue_requested

/-! What a request leaves. -/

/-- A claim has kept its row, its deadline and its status. -/
def ClaimKept (t : Tx) (h g : Hall) : Prop := ∀ c, h.claims.get t = some c →
  ∃ c', g.claims.get t = some c' ∧ c'.row = c.row ∧ c'.deadline = c.deadline ∧ c'.status = c.status

theorem ClaimKept.of_same (same : g.claims = h.claims) : ClaimKept t h g := fun c hc =>
  ⟨c, by rw [same]; exact hc, rfl, rfl, rfl⟩

theorem ClaimKept.trans (a : ClaimKept t h g) (b : ClaimKept t g f) : ClaimKept t h f := fun c hc =>
  have ⟨_, hc', row, deadline, status⟩ := a c hc
  have ⟨c'', hc'', row', deadline', status'⟩ := b _ hc'
  ⟨c'', hc'', row'.trans row, deadline'.trans deadline, status'.trans status⟩

/-- A claim that takes on more than its row, deadline and status. -/
theorem setClaim_kept {F : Claim → Claim} (same : ∀ c, (F c).row = c.row ∧ (F c).deadline = c.deadline ∧ (F c).status = c.status)
    {c : Claim} (hc : h.claims.get u = some c) : ClaimKept t h (h.setClaim u (some (F c))) := by
  intro c' hc'
  rw [Hall.setClaim_get]
  split
  · next eq =>
    subst eq
    cases hc.symm.trans hc'
    exact ⟨_, rfl, same c⟩
  · exact ⟨c', hc', rfl, rfl, rfl⟩

/-- Only claims, the queue and the exercise are new: the contexts, the rows and the crosspoints stand. -/
structure RowsStand (h g : Hall) : Prop where
  ctx : g.ctx = h.ctx
  rows : g.rows = h.rows
  xps : g.xps = h.xps

theorem RowsStand.res (w : RowsStand h g) (r : Row) : g.res r = h.res r := by
  unfold Hall.res
  rw [w.rows]

theorem queueOp_stands {z : Requester} : RowsStand h (queueOp x d z h) := by
  unfold queueOp
  (repeat' split) <;> exact ⟨rfl, rfl, rfl⟩

theorem queueOp_exercise {z : Requester} : (queueOp x d z h).exercise = h.exercise := by
  rw [(queueOp_matrix x d z).eq]

theorem queueOp_claimKept {z : Requester} : ClaimKept t h (queueOp x d z h) := by
  unfold queueOp
  split
  · exact .of_same rfl
  · split
    · next hc => exact setClaim_kept (F := fun c => { c with deferred := c.deferred ++ [⟨x, d⟩] }) (fun _ => ⟨rfl, rfl, rfl⟩) hc
    · exact .of_same rfl
  all_goals exact .of_same rfl

/-! The claimant's former rows (R105). -/

/-- One former row: RELEASING, its open queued. -/
def releaseFormer (q : Req) (h : Hall) (r : Row) : Hall :=
  reportRow r (queueOp ⟨q.tx, r⟩ .openIt (.claim q) (h.setRes r .releasing))

theorem setRes_res {z : Reservation} {p : Row} : (h.setRes r z).res p = if p = r then z else h.res p := by
  unfold Hall.setRes Hall.res
  dsimp only
  by_cases hp : p = r
  · rw [if_pos hp, hp, Tab.get_modify_same]
  · rw [if_neg hp, Tab.get_modify_ne _ _ (Ne.symm hp)]

theorem setRes_waiting {z : Reservation} {p : Row} : ((h.setRes r z).rows.get p).waiting = (h.rows.get p).waiting := by
  unfold Hall.setRes
  dsimp only
  by_cases hp : r = p
  · rw [hp, Tab.get_modify_same]
  · rw [Tab.get_modify_ne _ _ hp]

theorem setRes_self {z : Reservation} : (h.setRes r z).res r = z := by rw [setRes_res, if_pos rfl]

theorem setRes_other {z : Reservation} {p : Row} (hp : p ≠ r) : (h.setRes r z).res p = h.res p := by
  rw [setRes_res, if_neg hp]

/-- What the reservations of some rows have become; the rest of the contexts, claims, crosspoints, the exercise and the
waiting lists stands. -/
structure Released (t : Tx) (l : List Row) (h g : Hall) : Prop where
  ctx : g.ctx = h.ctx
  xps : g.xps = h.xps
  exercise : g.exercise = h.exercise
  waiting : ∀ p, (g.rows.get p).waiting = (h.rows.get p).waiting
  res : ∀ p, g.res p = if p ∈ l then .releasing else h.res p
  claim : ClaimKept t h g

theorem reportRow_queue : (reportRow r h).queue = h.queue := by
  unfold reportRow
  split <;> rfl

theorem reportRow_stands : RowsStand h (reportRow r h) := by
  unfold reportRow
  split <;> exact ⟨rfl, rfl, rfl⟩

theorem reportRow_claims : (reportRow r h).claims = h.claims := by
  unfold reportRow
  split <;> rfl

theorem reportRow_exercise : (reportRow r h).exercise = h.exercise := by
  unfold reportRow
  split <;> rfl

theorem RowsStand.trans (a : RowsStand h g) (b : RowsStand g f) : RowsStand h f :=
  ⟨b.ctx.trans a.ctx, b.rows.trans a.rows, b.xps.trans a.xps⟩

theorem releaseFormer_stands : RowsStand (h.setRes r .releasing) (releaseFormer q h r) :=
  queueOp_stands.trans reportRow_stands

theorem releaseFormer_released : Released t [r] h (releaseFormer q h r) where
  ctx := releaseFormer_stands.ctx
  xps := releaseFormer_stands.xps
  exercise := reportRow_exercise.trans queueOp_exercise
  waiting p := by rw [releaseFormer_stands.rows, setRes_waiting]
  res p := by
    rw [releaseFormer_stands.res, setRes_res]
    simp only [List.mem_singleton]
  claim := by
    unfold releaseFormer
    have set : ClaimKept t h (h.setRes r .releasing) := .of_same rfl
    exact (set.trans queueOp_claimKept).trans (.of_same reportRow_claims)

theorem Released.trans {k l : List Row} (a : Released t k h g) (b : Released t l g f) : Released t (k ++ l) h f where
  ctx := b.ctx.trans a.ctx
  xps := b.xps.trans a.xps
  exercise := b.exercise.trans a.exercise
  waiting p := (b.waiting p).trans (a.waiting p)
  res p := by
    rw [b.res, a.res]
    by_cases hk : p ∈ k <;> by_cases hl : p ∈ l <;> simp [hk, hl]
  claim := a.claim.trans b.claim

theorem Released.refl : Released t [] h h where
  ctx := rfl
  xps := rfl
  exercise := rfl
  waiting _ := rfl
  res p := by simp
  claim := .of_same rfl

/-- The opens of a transmitter's crosspoints in some rows. -/
def OpensOf (t : Tx) (l : List Row) (x : Xp) (d : Dir) : Prop := x.tx = t ∧ x.row ∈ l ∧ d = .openIt

theorem Requested.of_queue (a : Requested q X h g) (before : f.queue = h.queue) : Requested q X f g where
  old m hm := a.old m (by rw [← before]; exact hm)
  new n hn := by
    rw [before]
    exact a.new n hn
  asked x d want free := a.asked x d want (by rw [← before]; exact free)

theorem Requested.to_queue (a : Requested q X h g) (after : f.queue = g.queue) : Requested q X h f where
  old m hm := by
    rw [after]
    exact a.old m hm
  new n hn := a.new n (by rw [← after]; exact hn)
  asked x d want free := by
    rw [after]
    exact a.asked x d want free

theorem releaseFormer_requested : Requested q (OpensOf q.tx [r]) h (releaseFormer q h r) := by
  have asked : Requested q (fun y d => y = ⟨q.tx, r⟩ ∧ d = .openIt) h (releaseFormer q h r) :=
    ((queueOp_requested (h := h.setRes r .releasing)).of_queue (f := h) rfl).to_queue reportRow_queue
  refine asked.congr fun x d => ?_
  obtain ⟨u, p⟩ := x
  unfold OpensOf
  rw [Xp.mk.injEq, List.mem_singleton]
  exact and_assoc

theorem releaseAll_released (l : List Row) : Released q.tx l h (l.foldl (releaseFormer q) h) := by
  induction l generalizing h with
  | nil => exact .refl
  | cons r l ih => exact (releaseFormer_released (r := r)).trans ih

theorem releaseAll_requested (l : List Row) : Requested q (OpensOf q.tx l) h (l.foldl (releaseFormer q) h) := by
  induction l generalizing h with
  | nil => exact (Requested.of_same rfl).congr fun x d => by simp [OpensOf]
  | cons r l ih =>
    refine (releaseFormer_requested.trans ih ?_).congr fun x d => ?_
    · rintro x d d' ⟨-, -, rfl⟩ ⟨-, -, rfl⟩
      rfl
    · simp only [OpensOf, List.mem_cons]
      tauto

/-- A claimant's former rows are those CONNECTED or PARKED to it but for the one it claims (R105). -/
def formersOf (q : Req) (row : Row) (h : Hall) : List Row := (allFin 26).filter (isFormer q.tx row h)

theorem mem_formersOf : r ∈ formersOf q row h ↔ r ≠ row ∧ (h.res r = .connected q.tx ∨ h.res r = .parked q.tx) := by
  simp [formersOf, isFormer]

theorem releaseFormers_eq {c : Claim} (hc : h.claims.get q.tx = some c) : releaseFormers q row h =
    (formersOf q row h).foldl (releaseFormer q)
      (h.setClaim q.tx (some { c with formers := c.formers ++ formersOf q row h })) := by
  unfold releaseFormers
  dsimp only
  rw [hc]
  rfl

theorem releaseFormers_released {c : Claim} (hc : h.claims.get q.tx = some c) :
    Released q.tx (formersOf q row h) h (releaseFormers q row h) := by
  have all := releaseAll_released (q := q)
    (h := h.setClaim q.tx (some { c with formers := c.formers ++ formersOf q row h })) (formersOf q row h)
  rw [releaseFormers_eq hc]
  have kept : ClaimKept q.tx h (h.setClaim q.tx (some { c with formers := c.formers ++ formersOf q row h })) :=
    setClaim_kept (F := fun c => { c with formers := c.formers ++ formersOf q row h }) (fun _ => ⟨rfl, rfl, rfl⟩) hc
  exact ⟨all.ctx, all.xps, all.exercise, all.waiting, all.res, kept.trans all.claim⟩

theorem releaseFormers_requested {c : Claim} (hc : h.claims.get q.tx = some c) :
    Requested q (OpensOf q.tx (formersOf q row h)) h (releaseFormers q row h) := by
  rw [releaseFormers_eq hc]
  exact (releaseAll_requested _).of_queue rfl

end Sys2Proof.Machine
end

section
/-! PROOFS. Claims, rows handed on and rows settled (O24). -/

namespace Sys2Proof.Machine

variable {e : Env} {h h' g f a : Hall} {t u : Tx} {q : Req} {row r : Row} {n m : QEntry} {x y : Xp} {d : Dir} {c : Claim}
  {X Y Z : Xp → Dir → Prop}

/-! What the context and the claim are told (R104). -/

/-- The claim of a transmitter is told a status, or waits: the row, the deadline and the waiting of O24. -/
def Told (t : Tx) (c : Claim) (status : ClaimStatus) (after : Hall) : Prop :=
  (after.ctx.get t).claimWaiting = (status == .waiting) ∧
  ∃ c' : Claim, after.claims.get t = some c' ∧ c'.row = c.row ∧ c'.deadline = c.deadline ∧
    (status ≠ .waiting → c'.status = status)

/-- A claim that stands with its row and deadline. -/
def Stands (t : Tx) (c : Claim) (g : Hall) : Prop :=
  ∃ c', g.claims.get t = some c' ∧ c'.row = c.row ∧ c'.deadline = c.deadline

theorem ClaimKept.stands (w : ClaimKept t h g) (hc : Stands t c h) : Stands t c g := by
  obtain ⟨c', hc', row, deadline⟩ := hc
  obtain ⟨c'', hc'', row', deadline', -⟩ := w c' hc'
  exact ⟨c'', hc'', row'.trans row, deadline'.trans deadline⟩

theorem tellGranted_eq {c' : Claim} (hc : g.claims.get t = some c') : tellGranted t g =
    (g.setClaim t (some { c' with status := .granted })).modCtx t fun c => { c with claimWaiting := false } := by
  unfold tellGranted
  dsimp only
  rw [hc]

theorem tellGranted_told (hc : Stands t c g) : Told t c .granted (tellGranted t g) := by
  obtain ⟨c', hc', row, deadline⟩ := hc
  rw [tellGranted_eq hc']
  refine ⟨?_, { c' with status := .granted }, ?_, row, deadline, fun _ => rfl⟩
  · rw [modCtx_self]
    rfl
  · show (g.setClaim t _).claims.get t = _
    rw [Hall.setClaim_get, if_pos rfl]

theorem tellGranted_rows : (tellGranted t g).rows = g.rows := by
  unfold tellGranted
  dsimp only
  split <;> rfl

theorem tellGranted_queue : (tellGranted t g).queue = g.queue := by
  unfold tellGranted
  dsimp only
  split <;> rfl

theorem tellConnected_eq {c' : Claim} (hc : g.claims.get t = some c') : tellConnected t g =
    (g.setClaim t (some { c' with status := .connected })).modCtx t fun c =>
      { c with claimWaiting := false
               path := if c.state = .preparing ∧ c.path = .pending then .done else c.path } := by
  unfold tellConnected
  dsimp only
  rw [hc]

theorem tellConnected_told (hc : Stands t c g) : Told t c .connected (tellConnected t g) := by
  obtain ⟨c', hc', row, deadline⟩ := hc
  rw [tellConnected_eq hc']
  refine ⟨?_, { c' with status := .connected }, ?_, row, deadline, fun _ => rfl⟩
  · rw [modCtx_self]
    rfl
  · show (g.setClaim t _).claims.get t = _
    rw [Hall.setClaim_get, if_pos rfl]

theorem tellConnected_stands : (tellConnected t g).rows = g.rows ∧ (tellConnected t g).queue = g.queue ∧
    (tellConnected t g).xps = g.xps := by
  unfold tellConnected
  dsimp only
  split <;> exact ⟨rfl, rfl, rfl⟩

theorem tellConnected_path (state : (g.ctx.get t).state = .preparing) (path : (g.ctx.get t).path = .pending) :
    ((tellConnected t g).ctx.get t).path = .done := by
  unfold tellConnected
  dsimp only
  rw [modCtx_self]
  split <;> exact if_pos ⟨state, path⟩

/-! The ways a claim proceeds. -/

theorem grant_res : (grant q row g).res = (g.setRes row (.claimed q.tx)).res := by
  funext p
  unfold grant
  unfold Hall.res
  rw [tellGranted_rows, queueOp_stands.rows]

theorem grant_told (hc : Stands q.tx c g) : Told q.tx c .granted (grant q row g) :=
  tellGranted_told (queueOp_claimKept.stands hc)

theorem grant_requested : Requested q (fun y d => y = ⟨q.tx, row⟩ ∧ d = .close) g (grant q row g) :=
  ((queueOp_requested (h := g.setRes row (.claimed q.tx))).of_queue (f := g) rfl).to_queue tellGranted_queue

theorem connect_res : (connect q row g).res = (g.setRes row (.connected q.tx)).res := by
  funext p
  unfold connect
  unfold Hall.res
  rw [tellConnected_stands.1]

theorem connect_told (hc : Stands q.tx c g) : Told q.tx c .connected (connect q row g) := tellConnected_told hc

theorem connect_queue : (connect q row g).queue = g.queue := tellConnected_stands.2.1

theorem connect_path (state : (g.ctx.get q.tx).state = .preparing) (path : (g.ctx.get q.tx).path = .pending) :
    ((connect q row g).ctx.get q.tx).path = .done := tellConnected_path state path

theorem joinWaiting_res : (joinWaiting q row g).res = g.res := by
  funext p
  unfold joinWaiting tellWaiting Hall.setWaiting Hall.res
  show ((g.rows.modify row _).get p).res = _
  by_cases hp : row = p
  · rw [hp, Tab.get_modify_same]
  · rw [Tab.get_modify_ne _ _ hp]

theorem joinWaiting_waits : q ∈ ((joinWaiting q row g).rows.get row).waiting := by
  unfold joinWaiting tellWaiting Hall.setWaiting
  show q ∈ ((g.rows.modify row _).get row).waiting
  rw [Tab.get_modify_same]
  exact List.mem_append_right _ (List.mem_singleton_self q)

theorem joinWaiting_told (hc : Stands q.tx c g) : Told q.tx c .waiting (joinWaiting q row g) := by
  obtain ⟨c', hc', row, deadline⟩ := hc
  refine ⟨?_, c', hc', row, deadline, fun no => (no rfl).elim⟩
  unfold joinWaiting tellWaiting
  rw [modCtx_self]
  rfl

/-! Yielding the row (R191). -/

theorem yieldRow_stands : (yieldRow q g).rows = g.rows ∧ (yieldRow q g).ctx = g.ctx ∧ (yieldRow q g).claims = g.claims := by
  unfold yieldRow writeExercise yieldOp
  dsimp only
  (repeat' split) <;> exact ⟨rfl, rfl, rfl⟩

/-- A claim as it goes to the row's reservation: its former rows are released, and an exercise on the row has yielded. -/
def readied (q : Req) (row : Row) (h : Hall) : Hall :=
  let g := releaseFormers q row h
  if g.res row = .exercise ∨ g.exercised row then yieldRow q g else g

/-- The claim goes on by the row's reservation (R104). -/
def byReservation (q : Req) (row : Row) (g : Hall) : Hall :=
  match g.res row with
  | .free => grant q row g
  | .parked u =>
    if u = q.tx then connect q row g else grant q row (queueOp ⟨u, row⟩ .openIt (.claim q) g)
  | .releasing => takeReleasing q row g
  | .claimed u => if u = q.tx then grant q row g else joinWaiting q row g
  | .connected u => if u = q.tx then connect q row g else joinWaiting q row g
  | .exercise => grant q row g

theorem proceed_eq : proceed q row h = byReservation q row (readied q row h) := rfl

/-- No exercise stands on a row. -/
def Calm (h : Hall) (row : Row) : Prop := h.res row ≠ .exercise ∧ (h.exercise.phase = .idle ∨ h.exercise.xp.row ≠ row)

theorem former_not (q : Req) (row : Row) (h : Hall) : row ∉ formersOf q row h := fun hr => (mem_formersOf.1 hr).1 rfl

/-- What a claim finds at its row, and what of the hall stands. -/
structure Readied (q : Req) (c : Claim) (row : Row) (h g : Hall) : Prop where
  ctx : g.ctx = h.ctx
  res : ∀ p, g.res p = if p ∈ formersOf q row h then .releasing else h.res p
  claim : Stands q.tx c g
  requested : Calm h row → g.xps = h.xps ∧ Requested q (OpensOf q.tx (formersOf q row h)) h g

theorem readied_spec (hc : h.claims.get q.tx = some c) : Readied q c row h (readied q row h) := by
  have released := releaseFormers_released (row := row) hc
  have stands : Stands q.tx c (releaseFormers q row h) := released.claim.stands ⟨c, hc, rfl, rfl⟩
  have own : (releaseFormers q row h).res row = h.res row := by rw [released.res, if_neg (former_not q row h)]
  unfold readied
  dsimp only
  split
  · next busy =>
    obtain ⟨rows, ctx, claims⟩ := yieldRow_stands (q := q) (g := releaseFormers q row h)
    refine ⟨ctx.trans released.ctx, fun p => ?_, ?_, fun calm => ?_⟩
    · unfold Hall.res
      rw [rows]
      exact released.res p
    · unfold Stands
      rw [claims]
      exact stands
    · obtain ⟨res, phase⟩ := calm
      refine (busy.elim (fun ex => res (own.symm.trans ex)) fun ex => ?_).elim
      unfold Hall.exercised at ex
      rw [released.exercise, Bool.and_eq_true, bne_iff_ne, beq_iff_eq] at ex
      exact phase.elim ex.1 fun off => off ex.2
  · exact ⟨released.ctx, released.res, stands, fun _ => ⟨released.xps, releaseFormers_requested hc⟩⟩

/-- The requests of a claim, its former rows' opens and what it asks of the row itself. -/
theorem Readied.asks (w : Readied q c row h g) (calm : Calm h row) (own : Requested q Y g f)
    (onRow : ∀ x d, Y x d → x.row = row) :
    Requested q (fun x d => OpensOf q.tx (formersOf q row h) x d ∨ Y x d) h f := by
  refine (w.requested calm).2.trans own ?_
  rintro x d d' ⟨-, former, -⟩ inY
  exact ((former_not q row h) (onRow x d inY ▸ former)).elim

theorem Readied.own (w : Readied q c row h g) : g.res row = h.res row := by
  rw [w.res, if_neg (former_not q row h)]

/-- Whatever a claim finds, it changes the reservation of its row alone. -/
theorem takeReleasing_res {p : Row} (hp : p ≠ row) : (takeReleasing q row g).res p = g.res p := by
  unfold takeReleasing
  split
  · split
    · rw [grant_res, setRes_other hp]
    · rw [connect_res, setRes_other hp]
      rfl
  · rw [grant_res, setRes_other hp]
    rfl

theorem byReservation_res {p : Row} (hp : p ≠ row) : (byReservation q row g).res p = g.res p := by
  have granted {g : Hall} : (grant q row g).res p = g.res p := by rw [grant_res, setRes_other hp]
  have connected : (connect q row g).res p = g.res p := by rw [connect_res, setRes_other hp]
  have waits : (joinWaiting q row g).res p = g.res p := by rw [joinWaiting_res]
  unfold byReservation
  split
  · exact granted
  · split
    · exact connected
    · exact granted.trans (queueOp_stands.res p)
  · exact takeReleasing_res hp
  · split
    · exact granted
    · exact waits
  · split
    · exact connected
    · exact waits
  · exact granted

/-- What a claim asks of its own row when that is not RELEASING: the close of its crosspoint, behind the open of the one
PARKED there (R104). -/
theorem byReservation_requested (notReleasing : g.res row ≠ .releasing) :
    ∃ Y : Xp → Dir → Prop, (∀ x d, Y x d → x.row = row) ∧ Requested q Y g (byReservation q row g) := by
  have closes {g : Hall} : ∃ Y : Xp → Dir → Prop, (∀ x d, Y x d → x.row = row) ∧ Requested q Y g (grant q row g) :=
    ⟨_, by rintro x d ⟨rfl, -⟩; rfl, grant_requested⟩
  have nothing {f : Hall} (same : f.queue = g.queue) :
      ∃ Y : Xp → Dir → Prop, (∀ x d, Y x d → x.row = row) ∧ Requested q Y g f :=
    ⟨_, fun _ _ no => no.elim, .of_same same⟩
  unfold byReservation
  split
  · exact closes
  · next u _ =>
    split
    · exact nothing connect_queue
    · next other =>
      refine ⟨_, ?_, queueOp_requested.trans grant_requested ?_⟩
      · rintro x d (⟨rfl, -⟩ | ⟨rfl, -⟩) <;> rfl
      · rintro x d d' ⟨rfl, -⟩ ⟨same, -⟩
        exact (other (congrArg Xp.tx same)).elim
  · next releasing => exact (notReleasing releasing).elim
  · split
    · exact closes
    · exact nothing rfl
  · split
    · exact nothing connect_queue
    · exact nothing rfl
  · exact closes

/-! The clauses of O24. -/

/-- The claim is granted its row (R104). -/
def Granted (q : Req) (c : Claim) (row : Row) (after : Hall) : Prop := after.res row = .claimed q.tx ∧ Told q.tx c .granted after

/-- The row is the claim's own, and a PREPARING context has its path (R76, R104). -/
def Connected (h : Hall) (q : Req) (c : Claim) (row : Row) (after : Hall) : Prop :=
  after.res row = .connected q.tx ∧ Told q.tx c .connected after ∧
    ((h.ctx.get q.tx).state = .preparing → (h.ctx.get q.tx).path = .pending → (after.ctx.get q.tx).path = .done)

/-- The claim waits for its row (R104, R106). -/
def Waits (h : Hall) (q : Req) (c : Claim) (row : Row) (after : Hall) : Prop :=
  after.res row = h.res row ∧ Told q.tx c .waiting after ∧ q ∈ (after.rows.get row).waiting

theorem grant_granted (hc : Stands q.tx c g) : Granted q c row (grant q row g) :=
  ⟨by rw [grant_res, setRes_self], grant_told hc⟩

theorem connect_connected (hc : Stands q.tx c g) (ctx : g.ctx = h.ctx) : Connected h q c row (connect q row g) := by
  refine ⟨by rw [connect_res, setRes_self], connect_told hc, ?_⟩
  rw [← ctx]
  exact connect_path

theorem joinWaiting_Waits (hc : Stands q.tx c g) (own : g.res row = h.res row) : Waits h q c row (joinWaiting q row g) :=
  ⟨by rw [joinWaiting_res, own], joinWaiting_told hc, joinWaiting_waits⟩

/-- A request of a claim, where no exercise is in the way and no operation toward the opposite position (R105). -/
def Asks (h : Hall) (q : Req) (row : Row) (after : Hall) (x : Xp) (d : Dir) : Prop :=
  Calm h row → (∀ n ∈ h.queue, n.xp = x → n.dir = d) → ∃ n ∈ after.queue, n.xp = x ∧ n.dir = d ∧ q ∈ n.reqs

/-- A claim's own open on its row (R104). -/
def OwnOpen (t : Tx) (row : Row) (n : QEntry) : Prop := n.xp = ⟨t, row⟩ ∧ n.dir = .openIt

theorem Readied.asks_close (w : Readied q c row h g) : Asks h q row (grant q row g) ⟨q.tx, row⟩ .close := fun calm =>
  (w.asks calm grant_requested (by rintro x d ⟨rfl, -⟩; rfl)).asked _ _ (.inr ⟨rfl, rfl⟩)

theorem Readied.asks_both (w : Readied q c row h g) (other : u ≠ q.tx) :
    let after := grant q row (queueOp ⟨u, row⟩ .openIt (.claim q) g)
    Asks h q row after ⟨u, row⟩ .openIt ∧ Asks h q row after ⟨q.tx, row⟩ .close := by
  intro after
  have both : Requested q (fun x d => (x = ⟨u, row⟩ ∧ d = .openIt) ∨ (x = ⟨q.tx, row⟩ ∧ d = .close)) g after := by
    refine queueOp_requested.trans grant_requested ?_
    rintro x d d' ⟨rfl, -⟩ ⟨same, -⟩
    exact (other (congrArg Xp.tx same)).elim
  have onRow : ∀ x d, ((x = (⟨u, row⟩ : Xp) ∧ d = Dir.openIt) ∨ (x = ⟨q.tx, row⟩ ∧ d = Dir.close)) → x.row = row := by
    rintro x d (⟨rfl, -⟩ | ⟨rfl, -⟩) <;> rfl
  exact ⟨fun calm => (w.asks calm both onRow).asked _ _ (.inr (.inl ⟨rfl, rfl⟩)),
    fun calm => (w.asks calm both onRow).asked _ _ (.inr (.inr ⟨rfl, rfl⟩))⟩

/-! A RELEASING row (R104). -/

/-- The own opens on the row are those that stood before the former rows were released. -/
theorem Readied.own_opens (w : Readied q c row h g) (calm : Calm h row) (hn : n ∈ g.queue) (own : OwnOpen q.tx row n) :
    ∃ m ∈ h.queue, OwnOpen q.tx row m ∧ n.inFlight = m.inFlight := by
  obtain ⟨xp, dir⟩ := own
  obtain ⟨-, former, -⟩ | ⟨m, hm, xp', dir', flight⟩ := (w.requested calm).2.new n hn
  · rw [xp] at former
    exact (former_not q row h former).elim
  · exact ⟨m, hm, ⟨xp'.symm.trans xp, dir'.symm.trans dir⟩, flight⟩

theorem Readied.still_opens (w : Readied q c row h g) (calm : Calm h row) (hm : m ∈ h.queue) (own : OwnOpen q.tx row m) :
    ∃ n ∈ g.queue, OwnOpen q.tx row n := by
  obtain ⟨n, hn, ⟨xp, dir, -⟩, -⟩ := (w.requested calm).2.old m hm
  exact ⟨n, hn, xp.trans own.1, dir.trans own.2⟩

theorem entry_of_own (hn : n ∈ g.queue) (own : OwnOpen t row n) : ∃ k, g.entry ⟨t, row⟩ .openIt = some k := by
  have some : (g.entry ⟨t, row⟩ .openIt).isSome = true := by
    unfold Hall.entry
    rw [List.find?_isSome]
    exact ⟨n, hn, by rw [own.1, own.2]; simp⟩
  exact Option.isSome_iff_exists.1 some

theorem inheritOpens_opens : ∀ n ∈ (inheritOpens q row g).queue, n.xp.row = row → n.dir = .openIt → n.reqs = [q] := by
  intro n hn at' opens
  obtain ⟨m, -, rfl⟩ := List.mem_map.1 hn
  split at at' <;> rename_i is
  · rw [if_pos is]
  · rw [if_neg is] at opens
    exact (is ⟨at', opens⟩).elim

/-- A close that is requested leaves the requesters of the opens that are the claim's alone. -/
theorem queueOp_opens (all : ∀ n ∈ g.queue, n.xp.row = row → n.dir = .openIt → n.reqs = [q]) :
    ∀ n ∈ (queueOp x .close (.claim q) g).queue, n.xp.row = row → n.dir = .openIt → n.reqs = [q] := by
  have joined : ∀ n ∈ (joinQueue x .close (.claim q) g).queue, n.xp.row = row → n.dir = .openIt → n.reqs = [q] := by
    intro n hn at' opens
    obtain old | new := List.mem_append.1 hn
    · exact all n old at' opens
    · rw [List.mem_singleton.1 new] at opens
      cases opens
  cases found : g.entry x .close with
  | some k =>
    rw [queueOp_attached found]
    intro n hn at' opens
    obtain ⟨m, hm, rfl⟩ := List.mem_map.1 hn
    split at at' <;> rename_i is
    · rw [if_pos is] at opens ⊢
      have reqs := all m hm at' opens
      unfold QEntry.attach
      dsimp only
      rw [reqs]
      simp
    · rw [if_neg is] at opens ⊢
      exact all m hm at' opens
  | none =>
    unfold queueOp
    rw [found]
    cases g.entry x Dir.close.opposite with
    | none => exact joined
    | some k =>
      dsimp only
      split
      · exact all
      · exact joined

theorem connect_last : ((connect q row ((g.dropEntry n.arrival).setLast x .withdrawn)).xp x).last = .withdrawn := by
  have xps : (connect q row ((g.dropEntry n.arrival).setLast x .withdrawn)).xps = ((g.dropEntry n.arrival).setLast x .withdrawn).xps :=
    tellConnected_stands.2.2
  unfold Hall.xp
  rw [xps]
  show (((g.dropEntry n.arrival).setLast x .withdrawn).xp x).last = .withdrawn
  unfold Hall.setLast
  rw [Hall.modXp_xp, if_pos rfl]

/-- The claim's own open has not started: it is withdrawn and the row is the claim's (R104). -/
theorem takeReleasing_connects (w : Readied q c row h g) (calm : Calm h row) (hm : m ∈ h.queue) (own : OwnOpen q.tx row m)
    (waiting : ∀ n ∈ h.queue, OwnOpen q.tx row n → n.inFlight = false) :
    Connected h q c row (takeReleasing q row g) ∧ ((takeReleasing q row g).xp ⟨q.tx, row⟩).last = .withdrawn := by
  obtain ⟨n, hn, own'⟩ := w.still_opens calm hm own
  obtain ⟨k, found⟩ := entry_of_own hn own'
  obtain ⟨hk, xp, dir⟩ := entry_is found
  obtain ⟨m', hm', own'', flight⟩ := w.own_opens calm hk ⟨xp, dir⟩
  have still : ¬k.inFlight = true := by
    rw [flight, waiting m' hm' own'']
    decide
  unfold takeReleasing
  rw [found]
  dsimp only
  rw [if_neg still, xp]
  exact ⟨connect_connected w.claim w.ctx, connect_last⟩

/-- The claim's own open is under way: the row is CLAIMED (R104). -/
theorem takeReleasing_grants (w : Readied q c row h g) (calm : Calm h row) (hm : m ∈ h.queue) (own : OwnOpen q.tx row m)
    (moving : ∀ n ∈ h.queue, OwnOpen q.tx row n → n.inFlight = true) : Granted q c row (takeReleasing q row g) := by
  obtain ⟨n, hn, own'⟩ := w.still_opens calm hm own
  obtain ⟨k, found⟩ := entry_of_own hn own'
  obtain ⟨hk, xp, dir⟩ := entry_is found
  obtain ⟨m', hm', own'', flight⟩ := w.own_opens calm hk ⟨xp, dir⟩
  unfold takeReleasing
  rw [found]
  dsimp only
  rw [if_pos (flight.trans (moving m' hm' own''))]
  exact grant_granted w.claim

/-- The pending opens of the row become the claim's, which takes the row (R104). -/
theorem takeReleasing_inherits (w : Readied q c row h g) (calm : Calm h row) (none : ∀ n ∈ h.queue, ¬OwnOpen q.tx row n) :
    Granted q c row (takeReleasing q row g) ∧ Asks h q row (takeReleasing q row g) ⟨q.tx, row⟩ .close ∧
    ∀ n ∈ (takeReleasing q row g).queue, n.xp.row = row → n.dir = .openIt → n.reqs = [q] := by
  have empty : g.entry ⟨q.tx, row⟩ .openIt = .none := entry_none fun n hn xp dir =>
    have ⟨m, hm, own, _⟩ := w.own_opens calm hn ⟨xp, dir⟩
    none m hm own
  have eq : takeReleasing q row g = grant q row (inheritOpens q row g) := by
    unfold takeReleasing
    rw [empty]
  have stands : Stands q.tx c (inheritOpens q row g) := w.claim
  rw [eq]
  refine ⟨grant_granted stands, fun _ free => grant_requested.asked _ _ ⟨rfl, rfl⟩ fun n hn xp => ?_, ?_⟩
  · obtain ⟨m, hm, rfl⟩ := List.mem_map.1 hn
    have same : SameMove m (if m.xp.row = row ∧ m.dir = .openIt then { m with reqs := [q], exercise := false } else m) := by
      split <;> exact ⟨rfl, rfl, rfl⟩
    rw [same.2.1]
    rw [same.1] at xp
    obtain ⟨-, former, -⟩ | ⟨k, hk, xp', dir', -⟩ := (w.requested calm).2.new m hm
    · rw [xp] at former
      exact (former_not q row h former).elim
    · rw [dir']
      exact free k hk (xp'.symm.trans xp)
  · unfold grant
    rw [tellGranted_queue]
    exact queueOp_opens (g := (inheritOpens q row g).setRes row (.claimed q.tx)) inheritOpens_opens

/-- The second clause of O24: what a claim finds and what becomes of the rows (R104, R105). -/
theorem proceed_says (hc : h.claims.get q.tx = some c) :
    let after := proceed q row h
    let former (r : Row) : Prop := r ≠ row ∧ (h.res r = .connected q.tx ∨ h.res r = .parked q.tx)
    (∀ r, former r → after.res r = .releasing ∧ (h.res row ≠ .releasing → Asks h q row after ⟨q.tx, r⟩ .openIt)) ∧
    (∀ r, r ≠ row → ¬former r → after.res r = h.res r) ∧
    match h.res row with
    | .free => Granted q c row after ∧ Asks h q row after ⟨q.tx, row⟩ .close
    | .parked u => if u = q.tx then Connected h q c row after else
        Granted q c row after ∧ Asks h q row after ⟨u, row⟩ .openIt ∧ Asks h q row after ⟨q.tx, row⟩ .close
    | .connected u => if u = q.tx then Connected h q c row after else Waits h q c row after
    | .claimed u => if u = q.tx then Granted q c row after else Waits h q c row after
    | .exercise => Granted q c row after
    | .releasing => Calm h row →
        ((∃ n ∈ h.queue, OwnOpen q.tx row n) → (∀ n ∈ h.queue, OwnOpen q.tx row n → n.inFlight = false) →
          Connected h q c row after ∧ (after.xp ⟨q.tx, row⟩).last = .withdrawn) ∧
        ((∃ n ∈ h.queue, OwnOpen q.tx row n) → (∀ n ∈ h.queue, OwnOpen q.tx row n → n.inFlight = true) →
          Granted q c row after) ∧
        ((∀ n ∈ h.queue, ¬OwnOpen q.tx row n) → Granted q c row after ∧ Asks h q row after ⟨q.tx, row⟩ .close ∧
          ∀ n ∈ after.queue, n.xp.row = row → n.dir = .openIt → n.reqs = [q]) := by
  have w := readied_spec (row := row) hc
  intro after former
  have eq : after = byReservation q row (readied q row h) := proceed_eq
  generalize readied q row h = g at w eq
  clear_value after
  subst eq
  refine ⟨fun r was => ⟨?_, fun notReleasing calm => ?_⟩, fun r hr not => ?_, ?_⟩
  · rw [byReservation_res was.1, w.res, if_pos (mem_formersOf.2 was)]
  · obtain ⟨Y, onRow, own⟩ := byReservation_requested (q := q) (g := g) (row := row) (by rw [w.own]; exact notReleasing)
    exact (w.asks calm own onRow).asked _ _ (.inl ⟨rfl, mem_formersOf.2 was, rfl⟩)
  · rw [byReservation_res hr, w.res, if_neg fun was => not (mem_formersOf.1 was)]
  · unfold byReservation
    rw [w.own]
    cases h.res row with
    | free => exact ⟨grant_granted w.claim, w.asks_close⟩
    | parked u =>
      dsimp only
      split
      · exact connect_connected w.claim w.ctx
      · next other => exact ⟨grant_granted (queueOp_claimKept.stands w.claim), w.asks_both other⟩
    | connected u =>
      dsimp only
      split
      · exact connect_connected w.claim w.ctx
      · exact joinWaiting_Waits w.claim w.own
    | claimed u =>
      dsimp only
      split
      · exact grant_granted w.claim
      · exact joinWaiting_Waits w.claim w.own
    | exercise => exact grant_granted w.claim
    | releasing => exact fun calm =>
        ⟨fun ⟨m, hm, own⟩ => takeReleasing_connects w calm hm own, fun ⟨m, hm, own⟩ => takeReleasing_grants w calm hm own,
          takeReleasing_inherits w calm⟩

end Sys2Proof.Machine
end

section
/-! PROOFS. Claims, rows handed on and rows settled (O24). -/

namespace Sys2Proof.Machine

variable {e : Env} {h h' g f a : Hall} {t u : Tx} {q : Req} {row r : Row} {n m : QEntry} {x y : Xp} {d : Dir} {c : Claim} {z : Reservation}

/-! The order of a waiting list (R106). -/

section order
variable {α : Type} {le : α → α → Bool} {a b w : α} {l : List α}

theorem insertBy_head : (insertBy le a l).head? = match l.head? with
    | some b => if le b a then some b else some a
    | none => some a := by
  cases l with
  | nil => rfl
  | cons b l =>
    unfold insertBy
    dsimp only [List.head?_cons]
    split <;> rfl

theorem mem_insertBy : w ∈ insertBy le a l → w = a ∨ w ∈ l := by
  induction l with
  | nil => exact fun hw => .inl (List.mem_singleton.1 hw)
  | cons b l ih =>
    unfold insertBy
    split
    · intro hw
      obtain rfl | hw := List.mem_cons.1 hw
      · exact .inr (.head _)
      · exact (ih hw).imp_right (.tail _)
    · exact List.mem_cons.1

theorem mem_sortBy : w ∈ sortBy le l → w ∈ l := by
  induction l with
  | nil => exact id
  | cons b l ih =>
    intro hw
    obtain rfl | hw := mem_insertBy hw
    · exact .head _
    · exact .tail _ (ih hw)

/-- The one element that goes before every other stands first. -/
theorem sortBy_head (mem : a ∈ l) (first : ∀ w ∈ l, w ≠ a → le a w = true ∧ le w a = false) :
    (sortBy le l).head? = some a := by
  induction l with
  | nil => cases mem
  | cons b l ih =>
    have sorted : sortBy le (b :: l) = insertBy le b (sortBy le l) := rfl
    rw [sorted, insertBy_head]
    by_cases there : a ∈ l
    · rw [ih there fun w hw => first w (.tail _ hw)]
      dsimp only
      by_cases same : b = a
      · rw [same]
        split <;> rfl
      · rw [if_pos (first b (.head _) same).1]
    · obtain rfl | there' := List.mem_cons.1 mem
      · cases head : (sortBy le l).head? with
        | none => rfl
        | some w =>
          have hw : w ∈ l := mem_sortBy (List.mem_of_head? head)
          have ne : w ≠ a := fun same => there (same ▸ hw)
          dsimp only
          rw [(first w (.tail _ hw) ne).2]
          rfl
      · exact (there there').elim

end order

/-- The claim of the earliest deadline, then of the lower transmitter, takes the row (R106). -/
theorem firstWaiting_eq (mem : q ∈ (h.rows.get r).waiting) (first : ∀ w ∈ (h.rows.get r).waiting, w ≠ q →
    q.deadline < w.deadline ∨ (q.deadline = w.deadline ∧ q.tx < w.tx)) : firstWaiting h r = some q := by
  refine sortBy_head mem fun w hw ne => ?_
  have before := first w hw ne
  simp only [Bool.or_eq_true, Bool.and_eq_true, Bool.or_eq_false_iff, Bool.and_eq_false_iff, decide_eq_true_eq,
    decide_eq_false_iff_not, beq_iff_eq, beq_eq_false_iff_ne]
  rcases before with earlier | ⟨same, lower⟩
  · exact ⟨.inl earlier, by omega, .inl (by omega)⟩
  · exact ⟨.inr ⟨same, lower.le⟩, by omega, .inr (not_le.2 lower)⟩

/-- A row is handed on by its reservation (R106). -/
theorem handRowOn_says (mem : q ∈ (h.rows.get r).waiting) (first : ∀ w ∈ (h.rows.get r).waiting, w ≠ q →
    q.deadline < w.deadline ∨ (q.deadline = w.deadline ∧ q.tx < w.tx)) :
    handRowOn r h = match h.res r with
      | .free | .releasing | .parked _ =>
        proceed q r (h.setWaiting r ((h.rows.get r).waiting.filter fun w => w.tx ≠ q.tx))
      | .claimed _ | .connected _ | .exercise => h := by
  have filtered : (h.rows.get r).waiting.filter (fun w => w.tx != q.tx) =
      (h.rows.get r).waiting.filter fun w => w.tx ≠ q.tx := by
    refine List.filter_congr fun w _ => ?_
    by_cases same : w.tx = q.tx <;> simp [same]
  unfold handRowOn
  rw [firstWaiting_eq mem first]
  dsimp only
  rw [filtered]
  cases h.res r <;> rfl

/-! A claim that finds nothing of its own and nothing to be handed on (R104). -/

theorem handRowsOn_none {later : Hall → Row → Bool} (k : Nat) (none : h.work = []) : handRowsOn later k h = h := by
  cases k with
  | zero => rfl
  | succ k =>
    unfold handRowsOn
    rw [none]
    rfl

theorem claimBarred_iff : claimBarred h t row = true ↔
    h.stray.get row = true ∨ ∃ x : Xp, (x.row = row ∨ x.tx = t) ∧ (h.xp x).stuck = true := by
  simp only [claimBarred, Hall.rowBlocked, Hall.columnBlocked, Bool.or_eq_true, List.any_eq_true, mem_rowXps,
    mem_columnXps, or_and_right, exists_or]
  rw [or_comm (a := ∃ x, x.row = row ∧ (h.xp x).stuck = true), or_assoc]

theorem claim_says {deadline : Nat} (none : h.claims.get t = none) (idle : h.work = []) :
    let after := claim e { tx := t, deadline := deadline } row h
    let barred := h.stray.get row = true ∨ ∃ x : Xp, (x.row = row ∨ x.tx = t) ∧ (h.xp x).stuck = true
    (barred → after = h.report (.pathFailed t)) ∧
    (¬barred → after = proceed { tx := t, deadline := deadline } row (h.setClaim t
      (some { row := row, deadline := deadline, status := .waiting, formers := [], deferred := [] }))) := by
  intro after barred
  have eq : after = if claimBarred h t row then h.report (.pathFailed t)
      else proceed { tx := t, deadline := deadline } row (h.setClaim t
        (some { row := row, deadline := deadline, status := .waiting, formers := [], deferred := [] })) := by
    unfold after claim
    dsimp only
    rw [handRowsOn_none _ idle, none]
    dsimp only
    rw [handRowsOn_none _ idle]
  rw [eq]
  exact ⟨fun yes => if_pos (claimBarred_iff.2 yes), fun no => if_neg fun yes => no (claimBarred_iff.1 yes)⟩

/-! A row settled (R108). -/

theorem heldByClaim_iff : h.heldByClaim r = true ↔
    ∃ (t : Tx) (c : Claim), (h.res r = .claimed t ∨ h.res r = .connected t) ∧ h.claims.get t = some c ∧ c.row = r := by
  unfold Hall.heldByClaim
  cases h.res r with
  | claimed t | connected t =>
    simp only [Option.any_eq_true, beq_iff_eq, reduceCtorEq, or_false, false_or, Reservation.claimed.injEq,
      Reservation.connected.injEq]
    exact ⟨fun ⟨c, hc, row⟩ => ⟨t, c, rfl, hc, row⟩, fun ⟨_, c, same, hc, row⟩ => ⟨c, same ▸ hc, row⟩⟩
  | free | parked | releasing | exercise => simp

/-- An open of the row is queued or in flight. -/
def Opening (h : Hall) (r : Row) : Prop := ∃ n ∈ h.queue, n.xp.row = r ∧ n.dir = .openIt
/-- A close of the row is in flight. -/
def Closing (h : Hall) (r : Row) : Prop := ∃ n ∈ h.queue, n.xp.row = r ∧ n.dir = .close ∧ n.inFlight = true
/-- The crosspoint of a transmitter is the one of its row that is not OPEN, and no other row is the transmitter's. -/
def Alone (h : Hall) (r : Row) (t : Tx) : Prop := (h.xp ⟨t, r⟩).pos ≠ .opened ∧
  (∀ u : Tx, u ≠ t → (h.xp ⟨u, r⟩).pos = .opened) ∧ ∀ q : Row, q ≠ r → h.res q ≠ .connected t ∧ h.res q ≠ .parked t

theorem settledAs_opening (opening : Opening h r) : settledAs h r = .releasing := by
  obtain ⟨n, hn, at', opens⟩ := opening
  unfold settledAs
  dsimp only
  rw [if_pos]
  rw [List.any_eq_true]
  exact ⟨n, List.mem_filter.2 ⟨hn, by rw [at']; simp⟩, by rw [opens]; simp⟩

theorem any_row_iff {p : QEntry → Bool} :
    ((h.queue.filter fun n => n.xp.row == r).any p) = true ↔ ∃ n ∈ h.queue, n.xp.row = r ∧ p n = true := by
  simp [List.any_eq_true]

/-- The crosspoints of a row that are not OPEN (R108). -/
def Hall.nonOpen (h : Hall) (r : Row) : List Xp := (rowXps r).filter fun x => !h.isOpen x

theorem mem_nonOpen : x ∈ h.nonOpen r ↔ x.row = r ∧ (h.xp x).pos ≠ .opened := by
  simp [Hall.nonOpen, mem_rowXps, Hall.isOpen]

theorem nonOpen_nodup : (h.nonOpen r).Nodup :=
  ((List.nodup_finRange 16).map fun t u same => congrArg Xp.tx same).filter _

/-- What a settled row becomes with no operation upon it (R108). -/
def parkedAs (h : Hall) (r : Row) : Reservation :=
  match h.nonOpen r with
  | [x] => if (allFin 26).any fun q => q != r && (h.res q == .connected x.tx || h.res q == .parked x.tx) then .free
      else .parked x.tx
  | _ => .free

theorem settledAs_closing (notOpening : ¬Opening h r) (closing : Closing h r) : settledAs h r = h.res r := by
  unfold settledAs
  dsimp only
  rw [if_neg, if_pos]
  · rw [any_row_iff]
    obtain ⟨n, hn, at', closes, flies⟩ := closing
    exact ⟨n, hn, at', by rw [closes, flies]; rfl⟩
  · rw [any_row_iff]
    rintro ⟨n, hn, at', opens⟩
    exact notOpening ⟨n, hn, at', beq_iff_eq.1 opens⟩

theorem settledAs_quiet (notOpening : ¬Opening h r) (notClosing : ¬Closing h r) : settledAs h r = parkedAs h r := by
  unfold settledAs
  dsimp only
  rw [if_neg, if_neg]
  · rfl
  · rw [any_row_iff]
    rintro ⟨n, hn, at', closes⟩
    rw [Bool.and_eq_true, beq_iff_eq] at closes
    exact notClosing ⟨n, hn, at', closes⟩
  · rw [any_row_iff]
    rintro ⟨n, hn, at', opens⟩
    exact notOpening ⟨n, hn, at', beq_iff_eq.1 opens⟩

theorem elsewhere_iff : ((allFin 26).any fun q => q != r && (h.res q == .connected t || h.res q == .parked t)) = false ↔
    ∀ q : Row, q ≠ r → h.res q ≠ .connected t ∧ h.res q ≠ .parked t := by
  simp

theorem alone_iff : Alone h r t ↔ h.nonOpen r = [⟨t, r⟩] ∧
    ∀ q : Row, q ≠ r → h.res q ≠ .connected t ∧ h.res q ≠ .parked t := by
  unfold Alone
  rw [← and_assoc]
  refine and_congr_left fun _ => ⟨fun ⟨off, others⟩ => ?_, fun only => ⟨?_, fun u hu => ?_⟩⟩
  · have all : ∀ x ∈ h.nonOpen r, x = ⟨t, r⟩ := by
      rintro ⟨u, p⟩ hx
      obtain ⟨rfl, closed⟩ := mem_nonOpen.1 hx
      by_cases hu : u = t
      · rw [hu]
      · exact (closed (others u hu)).elim
    have single := List.eq_replicate_iff.2 ⟨rfl, all⟩
    have here : (⟨t, r⟩ : Xp) ∈ h.nonOpen r := mem_nonOpen.2 ⟨rfl, off⟩
    have one := List.count_eq_one_of_mem nonOpen_nodup here
    rw [single, List.count_replicate_self] at one
    rw [single, one]
    rfl
  · exact (mem_nonOpen.1 (only ▸ List.mem_singleton_self _)).2
  · by_contra closed
    have there : (⟨u, r⟩ : Xp) ∈ h.nonOpen r := mem_nonOpen.2 ⟨rfl, closed⟩
    rw [only, List.mem_singleton] at there
    exact hu (congrArg Xp.tx there)

theorem parkedAs_alone (alone : Alone h r t) : parkedAs h r = .parked t := by
  obtain ⟨only, elsewhere⟩ := alone_iff.1 alone
  unfold parkedAs
  rw [only]
  dsimp only
  rw [elsewhere_iff.2 elsewhere]
  rfl

theorem parkedAs_free (none : ∀ t, ¬Alone h r t) : parkedAs h r = .free := by
  unfold parkedAs
  split
  · next x only =>
    have row : x.row = r := (mem_nonOpen.1 (only ▸ List.mem_singleton_self x)).1
    have single : h.nonOpen r = [⟨x.tx, r⟩] := by rw [only, ← row]
    split
    · rfl
    · next nowhere =>
      exact (none x.tx (alone_iff.2 ⟨single, elsewhere_iff.1 (Bool.eq_false_of_not_eq_true nowhere)⟩)).elim
  · rfl

theorem reportRow_work : (reportRow r h).work = h.work ++
    if (h.rows.get r).waiting ≠ [] ∧ (h.res r).handsOn = true then [.handOn r] else [] := by
  unfold reportRow
  by_cases hands : (h.res r).handsOn = true <;> cases waiting : (h.rows.get r).waiting <;> simp [hands, Hall.report]

theorem handsOn_iff {z : Reservation} : z.handsOn = true ↔ z = .free ∨ z = .releasing ∨ ∃ t, z = .parked t := by
  cases z <;> simp [Reservation.handsOn]

theorem reportRow_eq : reportRow r h = { h with work := (reportRow r h).work } := by
  unfold reportRow
  split <;> rfl

/-- What settling a row leaves of the hall (R106, R108). -/
theorem settleRow_settles (notLive : h.heldByClaim r = false) (notExercise : h.res r ≠ .exercise) :
    settleRow r h = reportRow r (h.setRes r (settledAs h r)) := by
  unfold settleRow
  rw [if_neg]
  simp [notLive, notExercise]

theorem settleRow_res : (reportRow r (h.setRes r z)).res r = z := by
  unfold Hall.res
  rw [reportRow_rows]
  exact setRes_self

/-- The last clause of O24. -/
theorem settleRow_says (h : Hall) (r : Row) :
    let after := settleRow r h
    let live := ∃ (t : Tx) (c : Claim), (h.res r = .claimed t ∨ h.res r = .connected t) ∧ h.claims.get t = some c ∧
      c.row = r
    (live ∨ h.res r = .exercise → after = h) ∧
    (¬live → h.res r ≠ .exercise →
      after = { h with rows := after.rows, work := after.work } ∧
      (∀ q : Row, q ≠ r → after.rows.get q = h.rows.get q) ∧
      (after.rows.get r).waiting = (h.rows.get r).waiting ∧
      (Opening h r → after.res r = .releasing) ∧
      (¬Opening h r → Closing h r → after.res r = h.res r) ∧
      (¬Opening h r → ¬Closing h r →
        (∀ t, Alone h r t → after.res r = .parked t) ∧ ((∀ t, ¬Alone h r t) → after.res r = .free)) ∧
      after.work = h.work ++
        (if (h.rows.get r).waiting ≠ [] ∧ (after.res r = .free ∨ after.res r = .releasing ∨ ∃ t, after.res r = .parked t)
          then [.handOn r] else [])) := by
  intro after live
  have liveIff : live ↔ h.heldByClaim r = true := heldByClaim_iff.symm
  refine ⟨fun stays => ?_, fun notLive notExercise => ?_⟩
  · unfold after settleRow
    rw [if_pos]
    rw [Bool.or_eq_true, beq_iff_eq]
    exact stays.imp_left liveIff.1
  · have settles : after = reportRow r (h.setRes r (settledAs h r)) :=
      settleRow_settles (Bool.eq_false_of_not_eq_true fun held => notLive (liveIff.2 held)) notExercise
    have rows : after.rows = (h.setRes r (settledAs h r)).rows := by rw [settles, reportRow_rows]
    have res : after.res r = settledAs h r := by rw [settles, settleRow_res]
    refine ⟨?_, fun q hq => ?_, ?_, fun opening => ?_, fun notOpening closing => ?_, fun notOpening notClosing => ?_, ?_⟩
    · rw [settles, reportRow_eq]
      rfl
    · rw [rows]
      exact Tab.get_modify_ne _ _ (Ne.symm hq)
    · rw [rows, setRes_waiting]
    · rw [res, settledAs_opening opening]
    · rw [res, settledAs_closing notOpening closing]
    · rw [res, settledAs_quiet notOpening notClosing]
      exact ⟨fun t => parkedAs_alone, parkedAs_free⟩
    · rw [res, settles, reportRow_work, setRes_self, setRes_waiting]
      simp only [handsOn_iff]
      rfl

/-- Settles O24. -/
theorem claimsProceedByTheReservation : Obligations.ClaimsProceedByTheReservation :=
  ⟨fun _ _ _ _ _ => claim_says, fun _ _ _ _ => proceed_says, fun _ _ _ => handRowOn_says, settleRow_says⟩

end Sys2Proof.Machine
end

section
/-! SUPPORT. What every event does to the switches and to the units that are latched out of service: a switch that has
become MOVING was sent where no RF is, and a unit that is BARRED or OUT is left so (O10, O37). -/

namespace Sys2Proof.Machine

variable {t' : Tx} {e : Env} {s t b d : State} {h g : Hall} {x : Xp} {p : Pos} {f : Bool} {u : HallUnit} {r r' : UnitRec}

/-- A crosspoint's position is MOVING. -/
def Pos.Moves (p : Pos) : Prop := p = .movingClosed ∨ p = .movingOpen

/-- A crosspoint that is MOVING was so before, or stands where RF is off and senses none (R110, R113). -/
def MoveOk (e : Env) (p : Pos) (x : Xp) (g : Hall) : Prop :=
  (g.xp x).pos.Moves → (g.xp x).pos = p ∨ (ShowsRfOff e g x.tx ∧ e.pins.rf.get x.row = false)

theorem showsRfOff_of_rfOff (w : rfOff e h t' = true) : ShowsRfOff e h t' := by
  obtain none | ⟨m, hm, quiet⟩ := rfOff_iff.1 w
  · exact .inl none
  · refine .inr ⟨m, hm, ?_⟩
    simp only [Telemetry.quiet, Bool.and_eq_true, Bool.or_eq_true, beq_iff_eq, decide_eq_true_eq] at quiet
    exact ⟨quiet.2, by tauto⟩

theorem ShowsRfOff.congr {v : Tx} {e' : Env} (w : ShowsRfOff e h v) (tables : e'.tables.tx.get v = e.tables.tx.get v)
    (links : (g.links.get v).telemetry = (h.links.get v).telemetry) : ShowsRfOff e' g v := by
  unfold ShowsRfOff
  rw [tables, links]
  exact w

theorem MoveOk.congr {e' : Env} (w : MoveOk e p x h) (place : (g.xp x).pos = (h.xp x).pos)
    (tables : e'.tables.tx.get x.tx = e.tables.tx.get x.tx) (rf : e'.pins.rf.get x.row = e.pins.rf.get x.row)
    (links : (g.links.get x.tx).telemetry = (h.links.get x.tx).telemetry) : MoveOk e' p x g := by
  unfold MoveOk
  rw [place, rf]
  exact fun moves => (w moves).imp_right fun ⟨off, clear⟩ => ⟨off.congr tables links, clear⟩

theorem moveOk_stable : Stable e (MoveOk e p x) := by
  refine plant_stable (fun h h' c w => ?_) (fun h h' links _ xps _ w => ?_) (fun h n sendable w => ?_) fun h w => ?_
  · exact w.congr (c.place x) rfl rfl (c.link x.tx).1
  · exact w.congr (by unfold Hall.xp; rw [xps]) rfl rfl (by rw [links])
  · have place : ((sendMove e n h).xp x).pos = if n.xp = x then n.dir.moving else (h.xp x).pos := by
      show ((h.modXp n.xp _).xp x).pos = _
      rw [Hall.modXp_xp]
      split <;> rfl
    by_cases same : n.xp = x
    · subst same
      have eligible := sendable.eligible
      unfold Machine.eligible rfEligible at eligible
      simp only [Bool.and_eq_true] at eligible
      have off : ShowsRfOff e h n.xp.tx := showsRfOff_of_rfOff eligible.1.2.2
      exact fun _ => .inr ⟨off.congr rfl rfl, sendable.clear⟩
    · rw [if_neg same] at place
      exact w.congr place rfl rfl rfl
  · have place : ((forgetPositions h).xp x).pos = .unknown := by simp [forgetPositions, Hall.xp]
    intro moves
    rw [place] at moves
    obtain no | no := moves <;> cases no

/-! The latched units. -/

/-- A unit that is BARRED or OUT is left so (R170, R174). -/
def Latch (r r' : UnitRec) : Prop :=
  (r.service = .barred → r'.service = .barred) ∧ (r.service = .out → r'.service = .out)

theorem Latch.refl (r : UnitRec) : Latch r r := ⟨id, id⟩

theorem Latch.trans {r'' : UnitRec} (a : Latch r r') (b : Latch r' r'') : Latch r r'' :=
  ⟨fun w => b.1 (a.1 w), fun w => b.2 (a.2 w)⟩

/-! What an event does to both. -/

/-- Every switch that has become MOVING stands where RF is off and senses none, and every latched unit is left so. -/
structure Tracks (s t : State) : Prop where
  place : ∀ x, MoveOk t.env (s.hall.xp x).pos x t.hall
  unit : ∀ u, Latch (s.hall.unit u) (t.hall.unit u)

/-- No switch has become MOVING. -/
def Placed (h g : Hall) : Prop := ∀ x, (g.xp x).pos.Moves → (g.xp x).pos = (h.xp x).pos

/-- An event at its end: what has become MOVING was sent in it, and then its lines are guarded (R160). -/
structure Passes (s t : State) : Prop extends Tracks s t where
  guarded : PermitsGuarded t ∨ Placed s.hall t.hall

theorem Placed.refl (h : Hall) : Placed h h := fun _ _ => rfl

theorem Placed.of_xps (xps : g.xps = h.xps) : Placed h g := fun x _ => by unfold Hall.xp; rw [xps]

/-- What no settling has followed. -/
theorem Tracks.of_placed (place : Placed s.hall t.hall) (unit : ∀ u, Latch (s.hall.unit u) (t.hall.unit u)) : Tracks s t :=
  ⟨fun x moves => .inl (place x moves), unit⟩

theorem Passes.of_placed (place : Placed s.hall t.hall) (unit : ∀ u, Latch (s.hall.unit u) (t.hall.unit u)) : Passes s t :=
  ⟨.of_placed place unit, .inr place⟩

theorem Tracks.of_hall (hall : t.hall = s.hall) : Tracks s t :=
  .of_placed (by rw [hall]; exact .refl _) fun u => by rw [hall]; exact .refl _

theorem Passes.of_hall (hall : t.hall = s.hall) : Passes s t :=
  .of_placed (by rw [hall]; exact .refl _) fun u => by rw [hall]; exact .refl _

/-- A hall whose switches, telemetry and units are as they were. -/
theorem Tracks.same (w : Tracks s d) (xps : t.hall.xps = d.hall.xps) (links : ∀ v, (t.hall.links.get v).telemetry =
    (d.hall.links.get v).telemetry) (tables : t.env.tables = d.env.tables) (pins : t.env.pins = d.env.pins)
    (unit : ∀ u, Latch (d.hall.unit u) (t.hall.unit u)) : Tracks s t :=
  ⟨fun x => (w.place x).congr (by unfold Hall.xp; rw [xps]) (by rw [tables]) (by rw [pins]) (links x.tx),
    fun u => (w.unit u).trans (unit u)⟩

/-- Work of the hall that keeps both. -/
structure Follows (e : Env) (h g : Hall) : Prop where
  place : ∀ p x, MoveOk e p x h → MoveOk e p x g
  unit : ∀ u, Latch (h.unit u) (g.unit u)

namespace Follows
variable {k : Hall}

theorem refl (h : Hall) : Follows e h h := ⟨fun _ _ => id, fun _ => .refl _⟩

theorem trans (a : Follows e h g) (b : Follows e g k) : Follows e h k :=
  ⟨fun p x => b.place p x ∘ a.place p x, fun u => (a.unit u).trans (b.unit u)⟩

theorem ite {c : Prop} [Decidable c] (a : Follows e h g) (b : Follows e h k) : Follows e h (if c then g else k) := by
  split <;> assumption

theorem foldl {β : Type} {f : Hall → β → Hall} (l : List β) (hf : ∀ h b, Follows e h (f h b)) :
    Follows e h (l.foldl f h) := by
  induction l generalizing h with
  | nil => exact refl h
  | cons b l ih => exact (hf h b).trans ih

/-- Work of the hall of which every stable property holds. -/
theorem of_stays (works : ∀ P, Stays e P h → Stays e P g) : Follows e h g :=
  ⟨fun _ _ w => (works _ ⟨moveOk_stable, w⟩).holds, fun u => by
    have base : g.base = h.base := (works _ ⟨base_stable h.base, rfl⟩).holds
    rw [unit_of_base base]
    exact .refl _⟩

/-- Work that leaves the switches and the telemetry. -/
theorem of_units (xps : g.xps = h.xps) (links : ∀ v, (g.links.get v).telemetry = (h.links.get v).telemetry)
    (unit : ∀ u, Latch (h.unit u) (g.unit u)) : Follows e h g :=
  ⟨fun _ x w => w.congr (by unfold Hall.xp; rw [xps]) rfl rfl (links x.tx), unit⟩

/-- Work that leaves the switches, the links and the units. -/
theorem of_same (xps : g.xps = h.xps) (links : g.links = h.links) (base : g.base = h.base) : Follows e h g :=
  of_units xps (fun _ => by rw [links]) fun u => by
    rw [unit_of_base base]
    exact .refl _

end Follows

theorem Tracks.refl (s : State) : Tracks s s := .of_hall rfl

theorem Tracks.follows (w : Tracks s d) (works : Follows d.env d.hall g) : Tracks s { d with hall := g } :=
  ⟨fun x => works.place _ x (w.place x), fun u => (w.unit u).trans (works.unit u)⟩

/-- Work of the hall that begins an event, in whatever environment. -/
theorem Tracks.start (works : Follows t.env s.hall t.hall) : Tracks s t :=
  ⟨fun x => works.place _ x fun _ => .inl rfl, works.unit⟩

/-- Work of the hall that goes on with an event, in the same tables and inputs. -/
theorem Tracks.next (w : Tracks s d) (works : Follows t.env d.hall t.hall) (tables : t.env.tables = d.env.tables)
    (pins : t.env.pins = d.env.pins) : Tracks s t :=
  ⟨fun x => works.place _ x ((w.place x).congr rfl (by rw [tables]) (by rw [pins]) rfl),
    fun u => (w.unit u).trans (works.unit u)⟩

/-- The environment in another time, with other banks, another mode and another due list. -/
theorem Tracks.env (w : Tracks s d) (hall : t.hall = d.hall) (tables : t.env.tables = d.env.tables)
    (pins : t.env.pins = d.env.pins) : Tracks s t :=
  w.same (by rw [hall]) (fun _ => by rw [hall]) tables pins fun u => by rw [hall]; exact .refl _

/-- The end of an event (R48, R160). -/
theorem Tracks.conclude (w : Tracks s d) : Passes s (conclude b f d) where
  place x := by
    have kept : MoveOk d.env (s.hall.xp x).pos x (Machine.conclude b f d).hall := conclude_stays b f moveOk_stable (w.place x)
    exact kept.congr rfl (by rw [conclude_tables]) (by rw [conclude_pins]) rfl
  unit u := by
    rw [unit_of_base (conclude_base b d f)]
    exact w.unit u
  guarded := .inl (conclude_permits b d f)

/-- A hall settled within an event. -/
theorem Tracks.settled (w : Tracks s d) : Tracks s d.settled :=
  w.follows (.of_stays fun _ => settle_stays)

end Sys2Proof.Machine
end

section
/-! PROOFS. What the requests do to the switches and to the latched units (O10, O37). -/

namespace Sys2Proof.Machine

variable {e : Env} {s t b d : State} {h g : Hall} {x : Xp} {f : Bool} {p : List Byte} {k : Handle} {r : Record}

/-- The rule of a request tracks the switches and the latched units. -/
abbrev RulePasses (s : State) (v : Verdict) : Prop := Leaves (Passes s) v

theorem request_passes {lengthOk : Bool} {modeOk : Mode → Bool} {rule : State → Verdict} (w : RulePasses s (rule s)) :
    Passes s (request lengthOk modeOk rule s) :=
  request_leaves (P := Passes s) (fun _ _ k => ⟨⟨k.place, k.unit⟩, k.guarded⟩) (.of_hall rfl) w

/-- A rule that reads. -/
theorem accept_same : RulePasses s (accept s p) := Passes.of_hall rfl

/-- A rule whose work of the hall ends as an event. -/
theorem event_works {e : Env} {q : Port} {l : List Instr} {n : State → List Byte} (works : Follows e s.hall g) :
    RulePasses s (acceptEvent b f { env := e, port := q, hall := g, pending := l } n) :=
  (Tracks.start works).conclude

/-! Slots (Chapter 2). -/

theorem setRecord_follows {place : PlaceNo} {z : Option Record} : Follows e h (h.setRecord place z) := .of_same rfl rfl rfl

theorem modRecord_follows {f : Record → Record} : Follows e h (h.modRecord k f) := by
  unfold Hall.modRecord
  split
  · exact setRecord_follows
  · exact .refl h

theorem finishRecord_follows {v : Tx} {o : LastOutcome} : Follows e h (finishRecord e v k o h) :=
  have ⟨links, _, xps, _⟩ := finishRecord_rest (e := e) (h := h) v k o
  .of_same xps links (finishRecord_base _ _ _)

theorem restandAll_follows : Follows e h (restandAll e h) := .of_same rfl rfl rfl

theorem retirePlace_follows {place : PlaceNo} : Follows e h (retirePlace place h) := .of_same rfl rfl rfl

theorem modCtx_follows {v : Tx} {f : Context → Context} : Follows e h (h.modCtx v f) := .of_same rfl rfl rfl

theorem takeBack_follows {v : Tx} {o : OccOutcome} {why : Option Reason} {ended : Nat} :
    Follows e h (takeBack e v o why ended h) := .of_stays fun _ => takeBack_stays _ _ _ _

theorem dropKept_follows {v : Tx} {o : OccOutcome} {why : Reason} : Follows e h (dropKept e v o why h) :=
  .of_stays fun _ => dropKept_stays _ _ _

theorem amendEnd_follows {n : Nat} : Follows e h (amendEnd e k r n h) := by
  unfold amendEnd
  split
  · exact .refl h
  · split
    · exact .refl h
    · dsimp only
      split
      · exact modCtx_follows.trans modRecord_follows
      · split <;> exact (modCtx_follows.trans modRecord_follows).trans takeBack_follows

theorem takeOutOfFlight_follows {now : Bool} : Follows e h (takeOutOfFlight e k r now h) := by
  unfold takeOutOfFlight
  split
  · exact dropKept_follows
  · split
    · exact takeBack_follows
    · exact .ite takeBack_follows (.refl h)
    · exact .ite takeBack_follows (.refl h)
    · exact .refl h

theorem storeNew_passes {place : PlaceNo} {raw : Schedule} : RulePasses s (storeNew s place raw) := by
  unfold storeNew
  dsimp only
  split
  · exact leaves_refuse
  · exact event_works setRecord_follows

theorem addSlotRule_passes : RulePasses s (addSlotRule p s) := by
  unfold addSlotRule
  split
  · exact leaves_refuse
  · split_ifs
    case neg =>
      split
      · exact leaves_refuse
      · exact leaves_refuse
      · exact storeNew_passes
    all_goals exact leaves_refuse

theorem storeAmended_passes {raw : Schedule} : RulePasses s (storeAmended p k r raw s) := by
  unfold storeAmended
  dsimp only
  split
  · exact leaves_refuse
  · split
    · exact event_works (setRecord_follows.trans amendEnd_follows)
    · exact event_works setRecord_follows

theorem amendSlotRule_passes : RulePasses s (amendSlotRule p k r s) := by
  unfold amendSlotRule
  split_ifs
  case neg =>
    split
    · exact leaves_refuse
    · split_ifs
      case neg =>
        split
        · exact leaves_refuse
        · exact storeAmended_passes
      all_goals exact leaves_refuse
  all_goals exact leaves_refuse

theorem retireSlotRule_passes : RulePasses s (retireSlotRule p k r s) := by
  unfold retireSlotRule
  split
  · exact leaves_refuse
  · split
    · exact event_works (setRecord_follows.trans takeOutOfFlight_follows)
    · exact event_works retirePlace_follows

theorem suspendSlotRule_passes : RulePasses s (suspendSlotRule k r s) := by
  unfold suspendSlotRule
  split
  · exact leaves_refuse
  · dsimp only
    split
    · exact event_works (setRecord_follows.trans takeOutOfFlight_follows)
    · exact event_works setRecord_follows

theorem resumeSlotRule_passes : RulePasses s (resumeSlotRule k r s) := by
  unfold resumeSlotRule
  split
  · exact leaves_refuse
  · exact event_works setRecord_follows

theorem clearBankRule_passes : RulePasses s (clearBankRule p s) := by
  unfold clearBankRule
  split
  · exact leaves_refuse
  · split_ifs
    case neg => exact event_works (.foldl _ fun _ _ => retirePlace_follows)
    all_goals exact leaves_refuse

end Sys2Proof.Machine
end

section
/-! SUPPORT. What the units' scores, trips, records taken and replies do to the switches and to the latched units. -/

namespace Sys2Proof.Machine

variable {e : Env} {s t b d : State} {h g : Hall} {x : Xp} {f : Bool} {k : Handle} {r : UnitRec} {u : HallUnit} {v : Tx}
  {row : Row} {n : Nat}

/-! Scores (8.4). -/

theorem Latch.free (barred : r.service ≠ .barred) (out : r.service ≠ .out) (r' : UnitRec) : Latch r r' :=
  ⟨fun w => (barred w).elim, fun w => (out w).elim⟩

theorem setUnit_follows {r' : UnitRec} (latch : Latch (h.unit u) r') : Follows e h (h.setUnit u r') := by
  refine .of_units (by cases u <;> rfl) (fun _ => by cases u <;> rfl) fun w => ?_
  by_cases same : w = u
  · rw [same, setUnit_unit]
    exact latch
  · rw [setUnit_unit_other same]
    exact .refl _

theorem raiseNotice_follows {y : Notice} : Follows e h (raiseNotice y h) := .of_same rfl rfl rfl

theorem strikeUnit_follows {why : Reason} {except : Option Tx} : Follows e h (strikeUnit e u why except h) :=
  .of_stays fun _ => strikeUnit_stays _ _ _

theorem bar_follows {except : Option Tx} (barred : (h.unit u).service ≠ .barred) (out : (h.unit u).service ≠ .out) :
    Follows e h (bar e u except h) :=
  (setUnit_follows (.free barred out _)).trans (raiseNotice_follows.trans strikeUnit_follows)

theorem restate_follows : Follows e h (restate u h) := by
  unfold restate
  dsimp only
  split
  · exact .refl h
  · next free =>
    have latch : Latch (h.unit u) { h.unit u with service := serviceOf (h.unit u).score } := by
      refine .free (fun w => free ?_) (fun w => free ?_) _ <;> rw [w] <;> rfl
    split
    · exact (setUnit_follows latch).trans raiseNotice_follows
    · exact setUnit_follows latch

theorem addScore_follows {except : Option Tx} : Follows e h (addScore e u n except h) := by
  unfold addScore
  dsimp only
  have kept {service : Service} {r' : UnitRec} (same : (h.unit u).service = service) (barred : service ≠ .barred)
      (out : service ≠ .out) : Follows e h (h.setUnit u r') :=
    setUnit_follows (.free (same ▸ barred) (same ▸ out) _)
  split
  · exact .refl h
  · exact .refl h
  · next same => exact bar_follows (by rw [same]; decide) (by rw [same]; decide)
  all_goals
    next same =>
    split
    · exact bar_follows (by rw [same]; decide) (by rw [same]; decide)
    · exact (kept same (by decide) (by decide)).trans restate_follows

theorem cleanUnit_follows : Follows e h (cleanUnit u h) := by
  unfold cleanUnit
  dsimp only
  split
  · exact .refl h
  · exact .refl h
  case _ same | _ same | _ same =>
    exact (setUnit_follows (.free (by rw [same]; decide) (by rw [same]; decide) _)).trans restate_follows
  case _ same =>
    have latch (r' : UnitRec) : Latch (h.unit u) r' := .free (by rw [same]; decide) (by rw [same]; decide) _
    split
    · exact (setUnit_follows (latch _)).trans raiseNotice_follows
    · exact setUnit_follows (latch _)

theorem scoreTrip_follows {cause : TripCause} : Follows e h (scoreTrip e v cause row h) := by
  unfold scoreTrip
  dsimp only
  have scored : Follows e h (if (tripPoints cause (rowAnt row).isSome).1 = 0 then raiseNotice .trip h
      else addScore e (.tx v) (tripPoints cause (rowAnt row).isSome).1 (some v) (raiseNotice .trip h)) :=
    .ite raiseNotice_follows (raiseNotice_follows.trans addScore_follows)
  split
  · exact scored.trans (.ite (.refl _) addScore_follows)
  · exact scored

/-! Trips and failures (4.6, 4.3, 8.8). -/

theorem dropPermit_follows : Follows e h (dropPermit e v h) := .of_stays fun _ => dropPermit_stays _

theorem decideTrip_follows {cause : TripCause} : Follows e h (decideTrip e v cause row h) :=
  .of_stays fun _ => decideTrip_stays _ _ _

theorem decideOutcome_follows {o : OccOutcome} {why : Option Reason} {ended : Nat} :
    Follows e h (decideOutcome v o why ended h) := .of_stays fun _ => decideOutcome_stays _ _ _ _

theorem unwind_follows : Follows e h (unwind e v h) := .of_stays fun _ => unwind_stays _

theorem finishIdle_follows : Follows e h (finishIdle e v h) := .of_stays fun _ => finishIdle_stays _

theorem handPreset_follows {p : Preset} : Follows e h (handPreset v p h) := .of_stays fun _ => handPreset_stays _ _

theorem endRun_follows {z : RunResult} : Follows e h (endRun v z h) := .of_stays fun _ => endRun_stays _ _

/-- A trip: the context trips, its permit is dropped, the trip is scored and decided (R87, R168, R171). -/
theorem takeTrip_eq {cause : TripCause} (held : (h.ctx.get v).heldRow = some row) : takeTrip e v cause h =
    decideTrip e v cause row (scoreTrip e v cause row (dropPermit e v (h.modCtx v (Context.tripped e)))) := by
  unfold takeTrip
  rw [held]
  rfl

theorem takeTrip_follows {cause : TripCause} : Follows e h (takeTrip e v cause h) := by
  cases held : (h.ctx.get v).heldRow with
  | none =>
    unfold takeTrip
    rw [held]
    exact .refl h
  | some row =>
    rw [takeTrip_eq held]
    exact (modCtx_follows.trans dropPermit_follows).trans (scoreTrip_follows.trans decideTrip_follows)

theorem tuneFailure_follows : Follows e h (tuneFailure e v h) := by
  unfold tuneFailure
  dsimp only
  split
  · exact .refl h
  · split
    · exact modCtx_follows.trans handPreset_follows
    · exact ((modCtx_follows.trans addScore_follows).trans decideOutcome_follows).trans unwind_follows

theorem barMuted_follows : Follows e h (barMuted e v h) := by
  unfold barMuted
  dsimp only
  split
  · exact raiseNotice_follows
  · exact raiseNotice_follows
  all_goals
    next same =>
    refine raiseNotice_follows.trans (bar_follows ?_ ?_)
    · show ((raiseNotice .muteFail h).txUnit.get v).service ≠ _
      rw [same]
      decide
    · show ((raiseNotice .muteFail h).txUnit.get v).service ≠ _
      rw [same]
      decide

theorem muteFailure_follows : Follows e h (muteFailure e v h) := by
  unfold muteFailure
  split
  · exact ((decideOutcome_follows.trans endRun_follows).trans finishIdle_follows).trans barMuted_follows
  · exact (dropKept_follows.trans finishIdle_follows).trans barMuted_follows
  all_goals exact .refl h

/-! What a context takes, and clean minutes (4.1, 8.4). -/

theorem enterMuting_follows : Follows e h (enterMuting e v h) := .of_stays fun _ => enterMuting_stays _

theorem enterEnding_follows : Follows e h (enterEnding e v h) := .of_stays fun _ => enterEnding_stays _

theorem enterPreparing_follows : Follows e h (enterPreparing e v h) := .of_stays fun _ => enterPreparing_stays _

theorem beginHeld_follows : Follows e h (beginHeld e v h) := .of_stays fun _ => beginHeld_stays _

theorem store_follows {held : Held} : Follows e h (store e v held n h) := by
  have set : Follows e h (h.setCtx v { Context.idle with state := (h.ctx.get v).state, held := held }) := .of_same rfl rfl rfl
  exact set.trans (.of_stays fun _ w => ceiling_stays _ (freshFoldback_stays _ (yieldColumn_stays _ w)))

theorem storeOccurrence_follows {start finish : Nat} : Follows e h (storeOccurrence e v k start finish row h) := by
  unfold storeOccurrence
  split
  · exact .refl h
  · exact modRecord_follows.trans store_follows

theorem finishHeld_follows : Follows e h (finishHeld e v h) := .of_stays fun _ => finishHeld_stays _

theorem takeOnAir_follows {d : DueEntry} : Follows e h (takeOnAir e v d row h) :=
  (((decideOutcome_follows.trans finishHeld_follows).trans endRun_follows).trans storeOccurrence_follows).trans
    enterMuting_follows

theorem takeEntry_follows {d : DueEntry} : Follows e h (takeEntry e d h) := by
  unfold takeEntry
  split
  · exact .refl h
  · split
    · exact storeOccurrence_follows.trans beginHeld_follows
    · exact takeOnAir_follows
    · exact modCtx_follows
    all_goals exact .refl h

theorem finishEnding_follows : Follows e h (finishEnding e v h) := by
  unfold finishEnding
  split
  · exact finishIdle_follows
  · exact (finishIdle_follows.trans storeOccurrence_follows).trans enterPreparing_follows

theorem cleanRun_follows : Follows e h (cleanRun e v h) := by
  unfold cleanRun
  split
  · dsimp only
    have counted : Follows e h { h with runs := h.runs.modify v fun w => { w with minutes := w.minutes + 1 } } :=
      .of_same rfl rfl rfl
    split
    · exact (counted.trans endRun_follows).trans enterEnding_follows
    · exact counted
  · exact .refl h

theorem cleanMinutes_follows : Follows e h (cleanMinutes e n h) := by
  unfold cleanMinutes
  refine .foldl _ fun h v => ?_
  dsimp only
  split
  · exact (cleanUnit_follows.trans cleanUnit_follows).trans cleanRun_follows
  · exact cleanUnit_follows.trans cleanRun_follows

/-! Replies (Chapter 7). -/

theorem tuneReply_follows {m : Telemetry} : Follows e h (tuneReply e v m h) := by
  unfold tuneReply
  dsimp only
  split
  · split
    · exact tuneFailure_follows
    · exact .ite modCtx_follows (.refl h)
  · exact .refl h

theorem contextReply_follows {m : Telemetry} : Follows e h (contextReply e v m h) := by
  unfold contextReply
  dsimp only
  split
  · exact .ite enterPreparing_follows (.refl h)
  · exact tuneReply_follows
  · exact takeTrip_follows
  · exact .ite (.of_stays fun _ => enterOnAir_stays _) (.refl h)
  · exact takeTrip_follows
  · exact .ite finishEnding_follows (.refl h)
  all_goals exact .refl h

theorem modPower_follows {F : Power → Power} : Follows e h (h.modPower v F) := .of_same rfl rfl rfl

theorem reflect_follows {m : Telemetry} : Follows e h (reflect e v m h) := by
  unfold reflect
  dsimp only
  split
  · split
    · split
      · exact (modPower_follows.trans raiseNotice_follows).trans modPower_follows
      · exact modPower_follows.trans modPower_follows
    · split
      · exact modPower_follows.trans raiseNotice_follows
      · exact modPower_follows
  · exact .refl h

end Sys2Proof.Machine
end

section
/-! PROOFS. What the second and minute boundaries, the matrix, the positioners and the lines do to the switches and to the
latched units (O10, O37). -/

namespace Sys2Proof.Machine

variable {e : Env} {s t b d : State} {h g : Hall} {x : Xp} {f : Bool} {k : Handle} {r : UnitRec} {u : HallUnit} {v : Tx}
  {row : Row} {n : QEntry} {p : List Byte} {a : Ant}

/-! Boundaries (R3). -/

theorem Tracks.recompute (w : Tracks s d) : Tracks s (recompute d) := by
  have moved : Follows (Machine.recompute d).env d.hall (Machine.recompute d).hall := by
    obtain same | raised := recompute_hall (s := d)
    · rw [same]
      exact .refl _
    · rw [raised]
      exact raiseNotice_follows
  exact w.next moved rfl rfl

theorem handoverContext_follows {old : Bank} {hh : Nat} : Follows e h (handoverContext e old hh v h) :=
  .of_stays fun _ => handoverContext_stays _ _ _

theorem giveUp_follows {why : Reason} {entry : DueEntry} : Follows e h (giveUp e why entry h) := finishRecord_follows

theorem takeHandover_follows {hh : Nat} {old : Bank} {gone : List DueEntry} : Follows e h
    (restandAll e (gone.foldl (fun h d => giveUp e .handover d h)
      ((allFin 16).foldl (fun h t => handoverContext e old hh t h) (raiseNotice .handover h)))) :=
  ((raiseNotice_follows.trans (.foldl _ fun _ _ => handoverContext_follows)).trans (.foldl _ fun _ _ => giveUp_follows)).trans
    restandAll_follows

theorem Tracks.handover (w : Tracks s d) : Tracks s (handoverPhase d) := by
  unfold handoverPhase
  split
  · split
    · exact Tracks.settled (w.next takeHandover_follows rfl rfl)
    · exact w
  · exact w

theorem Tracks.refreshBlocked (w : Tracks s d) : Tracks s (refreshBlocked d) := w.env rfl rfl rfl

theorem Tracks.giveUps (w : Tracks s d) : Tracks s (giveUpPhase d) := by
  unfold giveUpPhase
  dsimp only
  split
  · exact w
  · exact Tracks.settled (w.next (.foldl _ fun _ _ => giveUp_follows) rfl rfl)

theorem Tracks.beforeStarts (w : Tracks s d) (minute : Option Nat) : Tracks s (beforeStarts minute d) := by
  unfold Machine.beforeStarts
  cases minute with
  | none => exact w.handover.refreshBlocked.giveUps
  | some m =>
    have cleaned : Tracks s (State.settled { d with hall := cleanMinutes d.env m d.hall }) :=
      Tracks.settled (w.next cleanMinutes_follows rfl rfl)
    exact cleaned.handover.refreshBlocked.giveUps

theorem yieldRun_follows : Follows e h (yieldRun e v h) := .of_stays fun _ => yieldRun_stays _

theorem startEntries_follows {l m : List DueEntry} : Follows e h
    (m.foldl (fun h d => yieldRun e d.tx h) (l.foldl (fun h d => takeEntry e d h) h)) :=
  .trans (.foldl _ fun _ _ => takeEntry_follows) (.foldl _ fun _ _ => yieldRun_follows)

theorem Tracks.starts (w : Tracks s d) : Tracks s (startPhase d) := by
  unfold startPhase
  dsimp only
  refine (Tracks.conclude ?_).toTracks
  exact w.next startEntries_follows rfl rfl

theorem Tracks.startsOf (w : Tracks s d) : Tracks s (startsOf b d) := by
  have listed : Tracks s (if plannerView d = plannerView b then d else Machine.refreshBlocked (Machine.recompute d)) := by
    split
    · exact w
    · exact w.recompute.refreshBlocked
  unfold Machine.startsOf
  dsimp only
  generalize (if plannerView d = plannerView b then d else Machine.refreshBlocked (Machine.recompute d)) = c at listed ⊢
  split
  · exact listed.starts
  · exact listed.starts.recompute

/-- A phase of an event ends as an event (log 6). -/
theorem Tracks.phase {F : Env → Hall → Hall} (w : Tracks s d) (works : ∀ h, Follows d.env h (F d.env h)) :
    Passes s (phase F d) :=
  Tracks.conclude (b := d) (f := false) (w.next (t := { d with hall := F d.env d.hall }) (works d.hall) rfl rfl)

theorem rampStart_follows : Follows e h (rampStart e v h) := .of_stays fun _ => rampStart_stays _

theorem naturalEnd_follows : Follows e h (naturalEnd e v h) := .of_stays fun _ => naturalEnd_stays _

theorem Tracks.rampsAndEnds (w : Tracks s d) : Passes s (rampsAndEnds d) := by
  have ramped : Passes s (Machine.phase (fun e h => (allFin 16).foldl (fun h t => rampStart e t h) h) d) :=
    w.phase fun _ => .foldl _ fun _ _ => rampStart_follows
  unfold Machine.rampsAndEnds
  dsimp only
  exact ramped.toTracks.phase fun _ => .foldl _ fun _ _ => naturalEnd_follows

theorem selectExercise_follows {m : Nat} : Follows e h (selectExercise m e h) := .of_stays fun _ => selectExercise_stays _

/-- A second boundary, and the minute boundary that it may be. -/
theorem Tracks.secondBoundary (w : Tracks s d) (minute : Option Nat) : Passes s (secondBoundary minute d) := by
  unfold Machine.secondBoundary
  have ended : Passes s (Machine.rampsAndEnds (Machine.startsOf d (Machine.beforeStarts minute d))) :=
    (w.beforeStarts minute).startsOf.rampsAndEnds
  cases minute with
  | none => exact ended
  | some m =>
    dsimp only
    generalize Machine.rampsAndEnds (Machine.startsOf d (Machine.beforeStarts (some m) d)) = c at ended ⊢
    have stood : Tracks s { c with hall := restandAll c.env c.hall } := ended.toTracks.next restandAll_follows rfl rfl
    exact stood.recompute.phase fun _ => selectExercise_follows

theorem boundaries_passes (hall : d.hall = s.hall) : Passes s (boundaries d) := by
  unfold boundaries
  dsimp only
  split
  · refine Tracks.secondBoundary ?_ _
    exact .of_hall hall
  · exact .of_hall hall

theorem advanceCount_passes (hall : d.hall = s.hall) : Passes s (advanceCount d) := by
  unfold advanceCount
  dsimp only
  split
  · exact .of_hall hall
  · exact boundaries_passes hall

end Sys2Proof.Machine
end

section
/-! PROOFS. What the other requests do to the switches and to the latched units (O10, O37). -/

namespace Sys2Proof.Machine

variable {e : Env} {s t b d : State} {h g : Hall} {x : Xp} {f : Bool} {u : HallUnit} {v : Tx} {row : Row} {n : QEntry}
  {p : List Byte} {a : Ant}

/-! Time and banks (Chapter 1). -/

theorem Passes.recompute (w : Passes s d) : Passes s (recompute d) where
  toTracks := w.toTracks.recompute
  guarded := by
    refine w.guarded.imp recompute_permits fun placed => ?_
    have xps : (Machine.recompute d).hall.xps = d.hall.xps := by
      obtain same | raised := recompute_hall (s := d)
      · rw [same]
      · rw [raised]
        rfl
    intro x moves
    unfold Hall.xp at moves ⊢
    rw [xps] at moves ⊢
    exact placed x moves

theorem rebuildDue_passes (w : Passes s d) : Passes s (rebuildDue d) := by
  refine Passes.recompute ⟨w.toTracks.env rfl rfl rfl, w.guarded.imp_left fun k => ?_⟩
  exact k.env rfl rfl rfl

/-- A hall whose switches and units are as they were. -/
theorem Passes.same (xps : t.hall.xps = s.hall.xps) (tx : t.hall.txUnit = s.hall.txUnit)
    (ant : t.hall.antUnit = s.hall.antUnit) : Passes s t :=
  .of_placed (.of_xps xps) fun u => by
    have same : t.hall.unit u = s.hall.unit u := by
      unfold Hall.unit
      rw [tx, ant]
    rw [same]
    exact .refl _

theorem setClockRule_passes : RulePasses s (setClockRule p s) := by
  unfold setClockRule
  split
  · exact leaves_refuse
  · exact Passes.of_hall rfl

theorem setPlanningRule_passes : RulePasses s (setPlanningRule p s) := by
  unfold setPlanningRule
  dsimp only
  split
  · exact leaves_refuse
  · exact rebuildDue_passes (.of_hall rfl)

theorem setTimeRule_passes : RulePasses s (setTimeRule p s) := by
  unfold setTimeRule
  dsimp only
  split
  · exact leaves_refuse
  · split
    · split
      · exact leaves_refuse
      · exact boundaries_passes rfl
    · refine rebuildDue_passes ?_
      split
      · exact .of_hall rfl
      · exact .same rfl rfl rfl

theorem setHandoverRule_passes : RulePasses s (setHandoverRule p s) := by
  unfold setHandoverRule
  dsimp only
  split_ifs
  case neg => exact event_works restandAll_follows
  all_goals exact leaves_refuse

theorem cancelContext_follows : Follows e h (cancelContext e v h) := .of_stays fun _ => cancelContext_stays _

theorem cancelHandoverRule_passes : RulePasses s (cancelHandoverRule s) := by
  unfold cancelHandoverRule
  split
  · exact accept_same
  · exact event_works (.trans (.foldl _ fun _ _ => cancelContext_follows) restandAll_follows)

theorem lockRule_passes {lock : Bool} : RulePasses s (lockRule lock p s) := by
  unfold lockRule
  split
  · exact leaves_refuse
  · split
    · exact leaves_refuse
    · exact Passes.of_hall rfl

/-! Reads. -/

theorem readSlotRule_passes : RulePasses s (readSlotRule p s) := by
  unfold readSlotRule
  split
  · exact leaves_refuse
  · exact accept_same

theorem findSlotsRule_passes : RulePasses s (findSlotsRule p s) := by
  unfold findSlotsRule
  split
  · exact leaves_refuse
  · exact accept_same

theorem readDueListRule_passes : RulePasses s (readDueListRule p s) := by
  unfold readDueListRule
  dsimp only
  split
  · exact leaves_refuse
  · exact accept_same

theorem readPlanRule_passes : RulePasses s (readPlanRule p s) := by
  unfold readPlanRule
  split
  · exact leaves_refuse
  · exact Passes.same rfl rfl rfl

theorem readChangeoverRule_passes : RulePasses s (readChangeoverRule p s) := by
  unfold readChangeoverRule
  split
  · exact leaves_refuse
  · exact accept_same

theorem readTransmitterRule_passes : RulePasses s (readTransmitterRule p s) := by
  unfold readTransmitterRule
  split
  · exact leaves_refuse
  · exact accept_same

theorem readRowRule_passes : RulePasses s (readRowRule p s) := by
  unfold readRowRule
  split
  · exact leaves_refuse
  · split
    · exact leaves_refuse
    · exact accept_same

theorem readQueueRule_passes : RulePasses s (readQueueRule p s) := by
  unfold readQueueRule
  dsimp only
  split
  · exact leaves_refuse
  · exact accept_same

theorem readAntennaRule_passes : RulePasses s (readAntennaRule p s) := by
  unfold readAntennaRule
  split
  · exact leaves_refuse
  · split
    · exact accept_same
    · exact accept_same
    · exact leaves_refuse

theorem readProtectionRule_passes : RulePasses s (readProtectionRule p s) := by
  unfold readProtectionRule
  split
  · exact accept_same
  · split
    · exact leaves_refuse
    · exact accept_same
    · exact accept_same

/-! The matrix, links and positioners (Chapters 5 to 7). -/

/-- A table that is set ends as an event with the hall as it was. -/
theorem event_same {e : Env} {q : Port} {l : List Instr} {z : State → List Byte} :
    RulePasses s (acceptEvent b f { env := e, port := q, hall := s.hall, pending := l } z) := event_works (.refl _)

theorem storeTx_passes {cfg : Option TxCfg} {z : State → List Byte} :
    RulePasses s (acceptEvent b f (storeTx v cfg s) z) := by
  have stored : Tracks s (storeTx v cfg s) := .of_placed (.of_xps rfl) fun u => by
    rw [unit_of_base (g := (storeTx v cfg s).hall) (h := s.hall) rfl]
    exact .refl _
  exact stored.conclude

theorem setTransmitterRule_passes : RulePasses s (setTransmitterRule p s) := by
  unfold setTransmitterRule
  split
  · exact leaves_refuse
  · dsimp only
    split_ifs
    · exact leaves_refuse
    · exact leaves_refuse
    · exact storeTx_passes
    · exact leaves_refuse
    · exact storeTx_passes

theorem modPos_follows {F : PosRec → PosRec} : Follows e h (h.modPos a F) := .of_same rfl rfl rfl

theorem storeAnt_passes {cfg : Option AntCfg} {z : State → List Byte} :
    RulePasses s (acceptEvent b f (storeAnt a cfg s) z) := event_works modPos_follows

theorem setAntennaRule_passes : RulePasses s (setAntennaRule p s) := by
  unfold setAntennaRule
  dsimp only
  split
  · exact leaves_refuse
  · split_ifs
    · exact leaves_refuse
    · exact leaves_refuse
    · exact storeAnt_passes
  · split_ifs
    · exact leaves_refuse
    · exact leaves_refuse
    · exact leaves_refuse
    · exact storeAnt_passes

theorem setLoadRule_passes : RulePasses s (setLoadRule p s) := by
  unfold setLoadRule
  dsimp only
  split
  · exact leaves_refuse
  · exact event_same

theorem setGroupRule_passes : RulePasses s (setGroupRule p s) := by
  unfold setGroupRule
  dsimp only
  split
  · split
    · exact event_same
    · exact leaves_refuse
  · exact leaves_refuse

theorem queueOp_follows {dir : Dir} {z : Requester} : Follows e h (queueOp x dir z h) := .of_stays fun _ => queueOp_stays _ _ _

theorem moveCrosspointRule_passes : RulePasses s (moveCrosspointRule p s) := by
  unfold moveCrosspointRule
  split
  · split
    · exact leaves_refuse
    · split
      · exact leaves_refuse
      · exact event_works queueOp_follows
  · exact leaves_refuse

/-- A hall in which the crosspoints that have moved have come to rest. -/
theorem Follows.of_rest (place : ∀ y, (g.xp y).pos = (h.xp y).pos ∨ ¬(g.xp y).pos.Moves) (links : g.links = h.links)
    (base : g.txUnit = h.txUnit ∧ g.antUnit = h.antUnit) : Follows e h g where
  place p y w := by
    obtain same | rest := place y
    · exact w.congr same rfl rfl (by rw [links])
    · exact fun moves => (rest moves).elim
  unit u := by
    have same : g.unit u = h.unit u := by
      unfold Hall.unit
      rw [base.1, base.2]
    rw [same]
    exact .refl _

theorem declarePos_follows {pos : Pos} (rest : ¬pos.Moves) : Follows e h (declarePos x pos h) := by
  have base := declarePos_base (x := x) (p := pos) (h := h)
  have matrix : (declarePos x pos h).links = h.links := by
    unfold declarePos
    dsimp only
    have report (r : Row) (g : Hall) : (reportRow r g).links = g.links := by rw [(reportRow_matrix r).eq]
    have settle (r : Row) (g : Hall) : (settleRow r g).links = g.links := by rw [(settleRow_matrix r).eq]
    split
    · rw [report]
      rfl
    all_goals
      split
      · rw [settle]
        rfl
      · rfl
  refine .of_rest (fun y => ?_) matrix ⟨congrArg Base.txUnit base, congrArg Base.antUnit base⟩
  rw [declarePos_xp]
  split
  · exact .inr rest
  · exact .inl rfl

theorem declaredOf_rest {c : Nat} {pos : Pos} (hc : declaredOf c = some pos) : ¬pos.Moves := by
  unfold declaredOf at hc
  split at hc <;> cases hc <;> rintro (no | no) <;> cases no

theorem clearCrosspointRule_passes : RulePasses s (clearCrosspointRule p s) := by
  unfold clearCrosspointRule
  split
  · next hc =>
    split
    · exact leaves_refuse
    · exact event_works (declarePos_follows (declaredOf_rest hc))
  · exact leaves_refuse

theorem clearPositionerRule_passes : RulePasses s (clearPositionerRule p s) := by
  unfold clearPositionerRule
  split
  · exact leaves_refuse
  · exact event_works modPos_follows

/-! Protection, sweeps, notices and modes (Chapters 8 to 10). -/

theorem startRun_follows : Follows e h (startRun e v row h) := .of_stays fun _ => startRun_stays _ _

theorem proveRule_passes : RulePasses s (proveRule p s) := by
  unfold proveRule
  split
  · split_ifs
    case neg => exact event_works startRun_follows
    all_goals exact leaves_refuse
  · exact leaves_refuse

theorem stopProveRule_passes : RulePasses s (stopProveRule p s) := by
  unfold stopProveRule
  split
  · exact leaves_refuse
  · dsimp only
    split
    · exact event_works (endRun_follows.trans enterEnding_follows)
    · exact accept_same

theorem clearStrayRule_passes : RulePasses s (clearStrayRule p s) := by
  unfold clearStrayRule
  split
  · exact leaves_refuse
  · split
    · exact leaves_refuse
    · exact event_works (.of_same rfl rfl rfl)

theorem startSweepRule_passes : RulePasses s (startSweepRule s) := by
  unfold startSweepRule
  split
  · exact leaves_refuse
  · have begun : Follows s.env s.hall { s.hall with sweep := Sweep.started } := .of_same rfl rfl rfl
    exact event_works (begun.trans (.of_stays fun _ => sweepReach_stays))

theorem withdrawExercise_follows : Follows e h (withdrawExercise n h) := .of_stays fun _ => withdrawExercise_keeps

theorem stopSweepRule_passes : RulePasses s (stopSweepRule s) := by
  unfold stopSweepRule
  split
  · exact event_works withdrawExercise_follows
  · exact Passes.same rfl rfl rfl
  all_goals exact accept_same

theorem setNoticesRule_passes : RulePasses s (setNoticesRule p s) := by
  unfold setNoticesRule
  split
  · exact Passes.same rfl rfl rfl
  · exact leaves_refuse

theorem clearNoticesRule_passes : RulePasses s (clearNoticesRule p s) := by
  unfold clearNoticesRule
  split
  · exact Passes.same rfl rfl rfl
  · exact leaves_refuse

theorem leaveFor_follows {m : Mode} : Follows e h (leaveFor m e h) := by
  have survey {g : Hall} : Follows e g (if e.mode = .survey then { g with surveyNext := some 0 } else g) :=
    .ite (.of_same rfl rfl rfl) (.refl g)
  have halted : Follows e h (unhalt h) := .of_same rfl rfl rfl
  have left : Follows e h (leaveConfig e h) := .of_stays fun _ => leaveConfig_stays
  cases m with
  | config => exact left.trans survey
  | stop | localKey => exact halted.trans survey
  | survey | run => exact survey

theorem goRunRule_passes : RulePasses s (goRunRule s) := by
  unfold goRunRule
  dsimp only
  split_ifs
  case neg => exact event_works leaveFor_follows
  all_goals exact leaves_refuse

theorem configFrom_follows {m : Mode} : Follows e h (configFrom m e h) := by
  unfold configFrom
  split
  · exact (Follows.of_stays fun _ => lowerAll_stays).trans (.foldl _ fun _ _ => .of_stays fun _ => forceContext_stays _)
  · exact .of_same rfl rfl rfl
  · exact .of_same rfl rfl rfl
  · exact .of_same rfl rfl rfl
  · exact .refl h

theorem goConfigRule_passes : RulePasses s (goConfigRule p s) := by
  unfold goConfigRule
  dsimp only
  split
  · exact leaves_refuse
  · split
    · exact leaves_refuse
    · split
      · exact leaves_refuse
      · exact event_works configFrom_follows

end Sys2Proof.Machine
end

section
/-! PROOFS. What the events do to the switches and to the latched units, and what every command does (O10, O37). -/

namespace Sys2Proof.Machine

variable {e : Env} {s t b d : State} {h g : Hall} {x y : Xp} {f : Bool} {u : HallUnit} {v : Tx} {row : Row} {n : QEntry}
  {p : List Byte} {a : Ant} {c : Instr}

/-! Timers and links (Chapters 4 and 7). -/

theorem timerExpiry_passes {k : TimerKind} {F : Env → Hall → Hall} (works : ∀ e h, Follows e h (F e h)) :
    Passes s (timerExpiry v k F s) := by
  unfold timerExpiry
  split
  · exact .of_hall rfl
  · split
    · exact (Tracks.start (modCtx_follows.trans (works _ _))).conclude
    · exact .of_hall rfl

/-- What follows an event, of switches, telemetry and units nothing. -/
theorem Passes.through (w : Passes s d) (works : Follows t.env d.hall t.hall) (xps : t.hall.xps = d.hall.xps)
    (tables : t.env.tables = d.env.tables) (pins : t.env.pins = d.env.pins) (permits : PermitsGuarded d → PermitsGuarded t) :
    Passes s t where
  toTracks := w.toTracks.next works tables pins
  guarded := w.guarded.imp permits fun placed y moves => by
    unfold Hall.xp at moves ⊢
    rw [xps] at moves ⊢
    exact placed y moves

theorem nextHallPoll_follows {before : Hall} (same : before.xps = h.xps ∧ before.links = h.links ∧ before.base.txUnit = h.txUnit ∧
    before.base.antUnit = h.antUnit) : Follows e h (nextHallPoll before) := by
  obtain ⟨xps, links, tx, ant⟩ := same
  refine .of_units ?_ (fun v => ?_) fun u => ?_
  · rw [nextHallPoll_eq]
    exact xps
  · rw [← links]
    exact nextHallPoll_links.1.1
  · have unit : (nextHallPoll before).unit u = h.unit u := by
      rw [nextHallPoll_eq]
      show before.unit u = h.unit u
      unfold Hall.unit
      rw [← tx, ← ant]
      rfl
    rw [unit]
    exact .refl _

theorem endHallPoll_passes (w : Passes s d) : Passes s (endHallPoll d) :=
  w.through (nextHallPoll_follows ⟨rfl, rfl, rfl, rfl⟩) (by
    show (nextHallPoll _).xps = _
    rw [nextHallPoll_eq]) rfl rfl (endHallPoll_keeps d).permits

theorem beginHallCycle_passes (w : Passes s d) : Passes s (beginHallCycle d) :=
  w.through (nextHallPoll_follows ⟨rfl, rfl, rfl, rfl⟩) (by
    show (nextHallPoll _).xps = _
    rw [nextHallPoll_eq]) rfl rfl (beginHallCycle_keeps d).permits

theorem hallPollCycle_passes : ∃ t, exec .hallPollCycle s = .next t ∧ Passes s t := by
  refine ⟨_, rfl, ?_⟩
  split
  · exact .of_hall rfl
  · split
    · exact beginHallCycle_passes (.of_hall rfl)
    · exact beginHallCycle_passes (.of_hall rfl)

/-- A link's record changed in all but its telemetry. -/
theorem modLink_follows {F : Link → Link} (same : ∀ l, (F l).telemetry = l.telemetry) : Follows e h (h.modLink v F) := by
  refine .of_units rfl (fun w => ?_) fun u => ?_
  · rw [Hall.modLink_get]
    split
    · exact same _
    · rfl
  · rw [unit_of_base (h := h) rfl]
    exact .refl _

theorem linkStop_follows {why : Reason} : Follows e h (linkStop e v why h) := .of_stays fun _ => linkStop_stays _ _

/-- A link leaves its state, its pending PRESET given up, with a notice (R154, R156). -/
theorem quitLink_follows {y : Notice} {z : LinkState} :
    Follows e h (raiseNotice y (h.modLink v fun l => { l with state := z, pending := none })) := by
  have quits : Follows e h (h.modLink v fun l => { l with state := z, pending := none }) := modLink_follows fun _ => rfl
  exact quits.trans raiseNotice_follows

theorem noteQuiet_follows {m : Telemetry} : Follows e h (noteQuiet v m h) := .ite (.of_same rfl rfl rfl) (.refl h)

theorem moveLink_follows {z : TxReport} : Follows e h (moveLink e v z h) := by
  unfold moveLink
  dsimp only
  split
  · split
    · exact .refl h
    · split
      · exact quitLink_follows.trans linkStop_follows
      · exact quitLink_follows
  · exact modLink_follows fun _ => rfl

/-- The work of a reply upon the hall that holds its telemetry already. -/
theorem applyTelemetry_follows {z : TelemetryFrame} :
    Follows e (h.modLink z.tx (Link.receive e z)) (applyTelemetry e z h) := by
  unfold applyTelemetry
  dsimp only
  split
  · exact ((noteQuiet_follows.trans moveLink_follows).trans contextReply_follows).trans reflect_follows
  · exact (noteQuiet_follows.trans moveLink_follows).trans reflect_follows

theorem telemetry_tracks {z : TelemetryFrame} : Tracks s { s with hall := applyTelemetry s.env z s.hall } := by
  have received : Tracks s { s with hall := s.hall.modLink z.tx (Link.receive s.env z) } := .of_placed (.of_xps rfl) fun u => by
    rw [unit_of_base (h := s.hall) rfl]
    exact .refl _
  exact received.next applyTelemetry_follows rfl rfl

theorem telemetryReply_passes {frame : List Byte} : ∃ t, exec (.telemetryReply frame) s = .next t ∧ Passes s t := by
  refine ⟨_, rfl, ?_⟩
  split
  · split
    · exact endHallPoll_passes telemetry_tracks.conclude
    · exact .of_hall rfl
  · exact .of_hall rfl

theorem missTelemetry_follows : Follows e h (missTelemetry e v h) := by
  have missed : Follows e h (h.modLink v fun l => { l with missed := min 3 ((h.links.get v).missed + 1) }) :=
    modLink_follows fun _ => rfl
  unfold missTelemetry
  dsimp only
  split
  · split
    · exact (missed.trans quitLink_follows).trans linkStop_follows
    · exact missed.trans quitLink_follows
  · exact missed

theorem telemetryMissed_passes : ∃ t, exec .telemetryMissed s = .next t ∧ Passes s t := by
  refine ⟨_, rfl, ?_⟩
  split
  · refine endHallPoll_passes (Tracks.conclude (Tracks.start ?_))
    exact missTelemetry_follows
  · exact .of_hall rfl

/-! The drive link (Chapter 5). -/

theorem setPos_follows {pos : Pos} (rest : ¬pos.Moves) : Follows e h (h.setPos x pos) := by
  refine .of_rest (fun y => ?_) rfl ⟨rfl, rfl⟩
  unfold Hall.setPos
  rw [Hall.modXp_xp]
  split
  · exact .inr rest
  · exact .inl rfl

theorem setStuck_follows : Follows e h (setStuck x h) := by
  refine .of_rest (fun y => .inl ?_) rfl ⟨rfl, rfl⟩
  rw [setStuck, Hall.modXp_xp]
  split <;> rfl

theorem makeStuck_follows : Follows e h (makeStuck e x h) :=
  (setStuck_follows.trans raiseNotice_follows).trans (.of_stays fun _ => makeStuck_keeps)

theorem failEntry_follows {why : XpResult} : Follows e h (failEntry e why n h) := .of_stays fun _ => failEntry_stays _ _

theorem unknown_rest : ¬Pos.unknown.Moves := by rintro (no | no) <;> cases no

theorem failMove_follows {why : XpResult} : Follows e h (failMove e why n h) :=
  ((setPos_follows unknown_rest).trans makeStuck_follows).trans failEntry_follows

theorem position_rest {dir : Dir} : ¬dir.position.Moves := by cases dir <;> rintro (no | no) <;> cases no

theorem confirmMove_follows : Follows e h (confirmMove e n h) := by
  have arrives : Follows e h (resetAge n.xp (h.setPos n.xp n.dir.position)) :=
    (setPos_follows position_rest).trans (.of_units rfl (fun _ => rfl) fun _ => .refl _)
  unfold confirmMove
  dsimp only
  split
  · exact ((arrives.trans makeStuck_follows).trans raiseNotice_follows).trans failEntry_follows
  · exact arrives.trans (.of_stays fun _ => doneMove_keeps)

theorem driveReply_passes {frame : List Byte} : ∃ t, exec (.driveReply frame) s = .next t ∧ Passes s t := by
  refine ⟨_, rfl, ?_⟩
  split
  · split
    · refine Tracks.conclude (Tracks.start ?_)
      exact .ite confirmMove_follows failMove_follows
    · exact .of_hall rfl
  · exact .of_hall rfl

theorem travelTimeout_passes : ∃ t, exec .travelTimeout s = .next t ∧ Passes s t := by
  refine ⟨_, rfl, ?_⟩
  split
  · refine Tracks.conclude (Tracks.start ?_)
    exact failMove_follows
  · exact .of_hall rfl

theorem applyRead_follows {z : Option Pos} (rest : ∀ q, z = some q → ¬q.Moves) : Follows e h (applyRead e x z h) := by
  have ended : Follows e h { h with reading := none } := .of_same rfl rfl rfl
  unfold applyRead
  dsimp only
  split
  · next q => exact ended.trans (setPos_follows (rest q rfl))
  · exact (ended.trans (setPos_follows unknown_rest)).trans makeStuck_follows

theorem endSurvey_follows : Follows e h (endSurvey e h) := by
  have stuck : Follows e h ((crowded h).foldl (fun h x => makeStuck e x h) h) := .foldl _ fun _ _ => makeStuck_follows
  unfold endSurvey
  dsimp only
  generalize (crowded h).foldl (fun h x => makeStuck e x h) h = g at stuck ⊢
  exact stuck.trans (.of_same rfl rfl rfl)

theorem endRead_passes {z : Option Pos} (rest : ∀ q, z = some q → ¬q.Moves) (hall : d.hall = s.hall) :
    Passes s (endRead x z b d) := by
  have begun : Tracks s d := .of_hall hall
  unfold endRead
  dsimp only
  split
  · refine Tracks.conclude (begun.next ?_ rfl rfl)
    exact (applyRead_follows rest).trans endSurvey_follows
  · refine Tracks.conclude (begun.next ?_ rfl rfl)
    exact applyRead_follows rest

theorem driveResult_rest {z : DriveResult} : ∀ q, z.position = some q → ¬q.Moves := by
  cases z <;> intro q hq <;> cases hq <;> rintro (no | no) <;> cases no

end Sys2Proof.Machine
end

section
/-! PROOFS. What every command does to the switches and to the latched units (O10, O37). -/

namespace Sys2Proof.Machine

variable {e : Env} {s t b d : State} {h g : Hall} {x y : Xp} {f : Bool} {u : HallUnit} {v : Tx} {row : Row} {n : QEntry}
  {p : List Byte} {a : Ant} {c : Instr}

/-! The survey. -/

theorem surveyReadReply_passes {frame : List Byte} : ∃ t, exec (.surveyReadReply frame) s = .next t ∧ Passes s t := by
  refine ⟨_, rfl, ?_⟩
  split
  · split
    · exact endRead_passes driveResult_rest rfl
    · exact .of_hall rfl
  · exact .of_hall rfl

theorem surveyReadTimeout_passes : ∃ t, exec .surveyReadTimeout s = .next t ∧ Passes s t := by
  refine ⟨_, rfl, ?_⟩
  split
  · exact endRead_passes (fun _ no => nomatch no) rfl
  · exact .of_hall rfl

/-! The positioners (Chapter 6). -/

/-- Work that only the positioner link's own lists and records tell of. -/
theorem Follows.of_polls (xps : g.xps = h.xps) (links : g.links = h.links) (tx : g.txUnit = h.txUnit)
    (ant : g.antUnit = h.antUnit) : Follows e h g :=
  .of_units xps (fun _ => by rw [links]) fun u => by
    have same : g.unit u = h.unit u := by
      unfold Hall.unit
      rw [tx, ant]
    rw [same]
    exact .refl _

theorem retakeRequest_follows : Follows e h (retakeRequest e a h) := by
  unfold retakeRequest
  dsimp only
  split
  · exact .refl h
  · exact .of_stays fun _ => refuseRequest_stays _ _
  · exact .ite (.of_stays fun _ => placeRequest_stays _ _ _) (.refl h)

theorem tellGoFailed_follows {z : GoRec} : Follows e h (tellGoFailed z h) := by
  unfold tellGoFailed
  split
  · exact .of_same rfl rfl rfl
  · exact .refl h

theorem failGo_follows : Follows e h (failGo a h) := by
  unfold failGo
  split
  · exact modPos_follows.trans tellGoFailed_follows
  · exact .refl h

theorem positionerFault_follows : Follows e h (positionerFault e a h) :=
  ((modPos_follows.trans raiseNotice_follows).trans failGo_follows).trans retakeRequest_follows

theorem completeGo_follows {z : GoRec} : Follows e h (completeGo e a z h) := by
  unfold completeGo
  dsimp only
  split
  · exact (modPos_follows.trans (.of_stays fun _ => tellPosDone_stays _)).trans retakeRequest_follows
  · exact modPos_follows.trans retakeRequest_follows

theorem plainReply_follows {m : Motion} : Follows e h (plainReply e a m h) := by
  unfold plainReply
  dsimp only
  split
  · exact .refl h
  · split
    · exact positionerFault_follows
    · split
      · exact modPos_follows.trans retakeRequest_follows
      · exact modPos_follows
    · split
      · exact modPos_follows.trans retakeRequest_follows
      · exact modPos_follows

theorem applyPosReply_follows {r : PosReply} : Follows e h (applyPosReply e r h) := by
  unfold applyPosReply
  dsimp only
  split
  · exact modPos_follows.trans plainReply_follows
  · exact modPos_follows.trans positionerFault_follows
  · exact modPos_follows
  · split
    · exact modPos_follows
    · split
      · exact modPos_follows.trans completeGo_follows
      · exact modPos_follows.trans positionerFault_follows

theorem missPosReply_follows : Follows e h (missPosReply e a h) := by
  unfold missPosReply
  dsimp only
  split
  · exact modPos_follows.trans positionerFault_follows
  · exact modPos_follows

theorem posTimeout_follows : Follows e h (posTimeout e a h) := modPos_follows.trans positionerFault_follows

theorem sendPosPoll_follows : Follows e h (sendPosPoll e a h) := by
  rw [sendPosPoll_eq]
  exact .of_polls rfl rfl rfl rfl

theorem nextPosPoll_follows : Follows e h (nextPosPoll e h) := by
  have polls (l : List Ant) : Follows e h { h with posPoll := l } := .of_polls rfl rfl rfl rfl
  unfold nextPosPoll
  split
  · exact polls []
  · next l _ => exact (polls _).trans sendPosPoll_follows

theorem endPosPoll_passes (w : Tracks s d) : Passes s (endPosPoll d) := by
  have shorter : Follows d.env d.hall { d.hall with posPoll := d.hall.posPoll.tail } := .of_polls rfl rfl rfl rfl
  refine Tracks.conclude (w.next ?_ rfl rfl)
  exact shorter.trans nextPosPoll_follows

theorem beginPosCycle_passes (hall : d.hall = s.hall) : Passes s (beginPosCycle d) := by
  have begun : Tracks s d := .of_hall hall
  have cycle : Follows d.env d.hall
      { d.hall with posPoll := (allFin 24).filter d.env.steers, posCycle := some d.env.elapsed } := .of_polls rfl rfl rfl rfl
  refine Tracks.conclude (begun.next ?_ rfl rfl)
  exact cycle.trans nextPosPoll_follows

theorem positionerPollCycle_passes : ∃ t, exec .positionerPollCycle s = .next t ∧ Passes s t := by
  refine ⟨_, rfl, ?_⟩
  split
  · exact .of_hall rfl
  · split <;> exact beginPosCycle_passes rfl

theorem positionerReply_passes {frame : List Byte} : ∃ t, exec (.positionerReply frame) s = .next t ∧ Passes s t := by
  refine ⟨_, rfl, ?_⟩
  split
  · split
    · refine endPosPoll_passes (Tracks.conclude (Tracks.start ?_)).toTracks
      exact applyPosReply_follows
    · exact .of_hall rfl
  · exact .of_hall rfl

theorem positionerReplyMissed_passes : ∃ t, exec .positionerReplyMissed s = .next t ∧ Passes s t := by
  refine ⟨_, rfl, ?_⟩
  split
  · refine endPosPoll_passes (Tracks.conclude (Tracks.start ?_)).toTracks
    exact .ite missPosReply_follows (.refl _)
  · exact .of_hall rfl

theorem positionerTimerExpiry_passes : ∃ t, exec (.positionerTimerExpiry a) s = .next t ∧ Passes s t := by
  refine ⟨_, rfl, ?_⟩
  split
  · refine Tracks.conclude (Tracks.start ?_)
    exact posTimeout_follows
  · exact .of_hall rfl

/-! RF sense (Chapter 8). -/

theorem noteRf_follows {r : Row} : Follows e h (noteRf r h) := by
  unfold noteRf
  split
  · split
    · refine .of_rest (fun y => .inl ?_) rfl ⟨rfl, rfl⟩
      rw [Hall.modXp_xp]
      split <;> rfl
    · exact .refl h
  · exact .refl h

theorem rfStop_follows {r : Row} : Follows e h (rfStop r h) := by
  unfold rfStop
  split
  · exact .refl h
  · split
    · exact modPos_follows.trans tellGoFailed_follows
    · exact .refl h

theorem rfSenseChange_passes {r : Row} {on : Bool} : ∃ t, exec (.rfSenseChange r on) s = .next t ∧ Passes s t := by
  refine ⟨_, rfl, ?_⟩
  split
  · exact .of_hall rfl
  · refine Tracks.conclude (Tracks.start ?_)
    exact .ite (noteRf_follows.trans rfStop_follows) (.refl _)

theorem coverEnd_passes {r : Row} : ∃ t, exec (.coverEnd r) s = .next t ∧ Passes s t := by
  refine ⟨_, rfl, ?_⟩
  split
  · exact .of_hall rfl
  · exact Tracks.conclude (.of_hall rfl)

/-! The mode lines and the hall reset (10.4). -/

theorem stopPositioners_follows : Follows e h (stopPositioners h) := .of_polls rfl rfl rfl rfl

theorem localPositioners_follows : Follows e h (localPositioners e h) := .of_polls rfl rfl rfl rfl

theorem stopHall_follows : Follows e h (stopHall e h) := by
  have halted : Follows e h (haltAll e (matrixStopped e h)) := .of_stays fun _ => stopHall_keeps
  rw [stopHall_eq]
  exact halted.trans stopPositioners_follows

theorem localHall_follows : Follows e h (localHall e h) := by
  have halted : Follows e h (haltAll e (matrixLocal e h)) := .of_stays fun _ => localHall_keeps
  rw [localHall_eq]
  exact halted.trans localPositioners_follows

theorem Tracks.takeHallstop (w : Tracks s d) : Tracks s (takeHallstop d) := by
  have lowered : Tracks s { d with hall := raiseNotice .hallStop (lowerAll d.env d.hall) } :=
    w.next ((Follows.of_stays fun _ => lowerAll_stays).trans raiseNotice_follows) rfl rfl
  unfold Machine.takeHallstop
  dsimp only
  split
  · exact lowered
  · exact lowered.next stopHall_follows rfl rfl

theorem Tracks.takeLocal (w : Tracks s d) : Tracks s (takeLocal d) := by
  unfold Machine.takeLocal
  split
  · exact w
  · exact w.next localHall_follows rfl rfl
  all_goals exact w.next localHall_follows rfl rfl

theorem Tracks.examineLines (w : Tracks s d) : Tracks s (examineLines d) := by
  unfold Machine.examineLines
  (repeat' split)
  · exact w.takeHallstop
  · exact w.takeLocal
  · exact w

theorem Tracks.concludeLine (w : Tracks s d) : Passes s (concludeLine b d) := by
  unfold Machine.concludeLine
  split
  · exact ⟨w.next (.of_same rfl rfl rfl) rfl rfl, .inl (lowerFailed_permits d)⟩
  · exact w.conclude

theorem hallReset_unknown : ((Hall.hallReset e h).xp x).pos = .unknown := by
  unfold Hall.hallReset Hall.xp
  dsimp only
  simp [XpRec.hallReset, XpRec.powerUp]

theorem hallReset_unit : (Hall.hallReset e h).unit u = h.unit u := by
  unfold Hall.hallReset Hall.unit
  dsimp only

theorem resetHall_tracks : Tracks s { env := s.env.hallReset, port := s.port.hallReset, hall := s.hall.hallReset s.env.hallReset
                                      pending := s.pending } := by
  refine .of_placed (fun x moves => ?_) fun u => ?_
  · rw [hallReset_unknown] at moves
    exact (unknown_rest moves).elim
  · rw [hallReset_unit]
    exact .refl _

theorem Tracks.rebuildAfterReset (w : Tracks s d) : Tracks s (rebuildAfterReset d) := by
  unfold Machine.rebuildAfterReset
  split
  · have stood : Tracks s { d with hall := restandAll d.env d.hall } := w.next restandAll_follows rfl rfl
    refine Tracks.recompute ?_
    exact stood.env rfl rfl rfl
  · exact w

theorem hallReset_passes : ∃ t, exec .hallReset s = .next t ∧ Passes s t :=
  ⟨_, exec_hallReset, resetHall_tracks.rebuildAfterReset.examineLines.conclude⟩

end Sys2Proof.Machine
end

section
/-! PROOFS. The latched units (O10). -/

namespace Sys2Proof.Machine

variable {e : Env} {s t b d : State} {h g : Hall} {x y : Xp} {f : Bool} {u w : HallUnit} {v : Tx}
  {p : List Byte} {c : Instr}

/-- The commands that power the part up, or that name a unit to be restored, taken out or returned. -/
def changesUnits : Instr → Bool
  | .powerUp | .restore _ | .takeOut _ | .returnUnit _ => true
  | _ => false

theorem passes_ite {q : Prop} [Decidable q] {a b : State} (ha : Passes s a) (hb : Passes s b) :
    Passes s (if q then a else b) := by
  split <;> assumption

theorem timeMark_passes : ∃ t, exec .timeMark s = .next t ∧ Passes s t :=
  timeMark_cases (.of_hall rfl) (.of_hall rfl) (advanceCount_passes rfl)

theorem markWatchExpiry_passes : ∃ t, exec .markWatchExpiry s = .next t ∧ Passes s t := by
  refine ⟨_, rfl, ?_⟩
  split
  · exact .of_hall rfl
  · split
    · exact .of_hall rfl
    · dsimp only
      split
      · exact .same rfl rfl rfl
      · exact .same rfl rfl rfl
      · exact .of_hall rfl
      · exact .of_hall rfl

theorem hallstopAssert_passes : ∃ t, exec .hallstopAssert s = .next t ∧ Passes s t := by
  have held : Tracks s (s.modPins fun p => { p with hallstop := true }) := .of_hall rfl
  exact ⟨_, rfl, held.takeHallstop.concludeLine⟩

theorem localAssert_passes : ∃ t, exec .localAssert s = .next t ∧ Passes s t := by
  have held : Tracks s (s.modPins fun p => { p with localKey := true }) := .of_hall rfl
  exact ⟨_, rfl, held.takeLocal.concludeLine⟩

theorem setMatrixRule_passes : RulePasses s (setMatrixRule p s) := by
  unfold setMatrixRule
  exact event_same

theorem setProtectionRule_passes : RulePasses s (setProtectionRule p s) := by
  unfold setProtectionRule
  exact event_same

theorem tuningExpired_follows {m : Option Timer} : Follows e h (tuningExpired v m e h) :=
  .ite (modCtx_follows.trans tuneFailure_follows) (.refl h)

theorem rampExpired_follows : Follows e h (rampExpired v e h) := .ite takeTrip_follows (.refl h)

theorem enterRamping_follows : Follows e h (enterRamping e v h) := .of_stays fun _ => enterRamping_stays _

theorem pauseExpired_follows : Follows e h (pauseExpired v e h) := .ite enterRamping_follows (.refl h)

/-- Every other command tracks the switches and the latched units. -/
theorem exec_passes (other : changesUnits c = false) (s : State) : ∃ t, exec c s = .next t ∧ Passes s t := by
  cases c with
  | powerUp | restore | takeOut | returnUnit => cases other
  | hallReset => exact hallReset_passes
  | hallResetRelease => exact ⟨_, rfl, Tracks.conclude (.of_hall rfl)⟩
  | hallstopAssert => exact hallstopAssert_passes
  | hallstopRelease => exact ⟨_, rfl, .of_hall rfl⟩
  | localAssert => exact localAssert_passes
  | localRelease => exact ⟨_, rfl, .of_hall rfl⟩
  | secondAdvance => exact ⟨_, rfl, advanceCount_passes rfl⟩
  | timeMark => exact timeMark_passes
  | markWatchExpiry => exact markWatchExpiry_passes
  | nop => exact ⟨_, rfl, passes_ite (.of_hall rfl) (.of_hall rfl)⟩
  | emptyPeriod => exact ⟨_, rfl, passes_ite (.of_hall rfl) (.of_hall rfl)⟩
  | frameError => exact ⟨_, rfl, passes_ite (.of_hall rfl) (.same rfl rfl rfl)⟩
  | chipSelectAssert => exact ⟨_, rfl, passes_ite (.of_hall rfl) (.of_hall rfl)⟩
  | unknownCommand => exact ⟨_, rfl, passes_ite (.of_hall rfl) (.of_hall rfl)⟩
  | setClock => exact ⟨_, rfl, request_passes setClockRule_passes⟩
  | setTime => exact ⟨_, rfl, request_passes setTimeRule_passes⟩
  | readTime => exact ⟨_, rfl, request_passes accept_same⟩
  | setPlanning => exact ⟨_, rfl, request_passes setPlanningRule_passes⟩
  | setHandover => exact ⟨_, rfl, request_passes setHandoverRule_passes⟩
  | cancelHandover => exact ⟨_, rfl, request_passes cancelHandoverRule_passes⟩
  | lockBank => exact ⟨_, rfl, request_passes lockRule_passes⟩
  | unlockBank => exact ⟨_, rfl, request_passes lockRule_passes⟩
  | freezeBanks => exact ⟨_, rfl, request_passes (Passes.of_hall rfl)⟩
  | readBanks => exact ⟨_, rfl, request_passes accept_same⟩
  | addSlot => exact ⟨_, rfl, request_passes addSlotRule_passes⟩
  | amendSlot => exact ⟨_, rfl, request_passes (editRule_leaves fun _ _ => amendSlotRule_passes)⟩
  | retireSlot => exact ⟨_, rfl, request_passes (editRule_leaves fun _ _ => retireSlotRule_passes)⟩
  | suspendSlot => exact ⟨_, rfl, request_passes (editRule_leaves fun _ _ => suspendSlotRule_passes)⟩
  | resumeSlot => exact ⟨_, rfl, request_passes (editRule_leaves fun _ _ => resumeSlotRule_passes)⟩
  | clearBank => exact ⟨_, rfl, request_passes clearBankRule_passes⟩
  | readSlot => exact ⟨_, rfl, request_passes readSlotRule_passes⟩
  | findSlots => exact ⟨_, rfl, request_passes findSlotsRule_passes⟩
  | readDueList => exact ⟨_, rfl, request_passes readDueListRule_passes⟩
  | readPlan => exact ⟨_, rfl, request_passes readPlanRule_passes⟩
  | readChangeover => exact ⟨_, rfl, request_passes readChangeoverRule_passes⟩
  | muteTimerExpiry => exact ⟨_, rfl, timerExpiry_passes fun _ _ => muteFailure_follows⟩
  | tuningTimerExpiry => exact ⟨_, rfl, timerExpiry_passes fun _ _ => tuningExpired_follows⟩
  | rampTimerExpiry => exact ⟨_, rfl, timerExpiry_passes fun _ _ => rampExpired_follows⟩
  | pauseTimerExpiry => exact ⟨_, rfl, timerExpiry_passes fun _ _ => pauseExpired_follows⟩
  | hallPollCycle => exact hallPollCycle_passes
  | telemetryReply => exact telemetryReply_passes
  | telemetryMissed => exact telemetryMissed_passes
  | setTransmitter => exact ⟨_, rfl, request_passes setTransmitterRule_passes⟩
  | readTransmitter => exact ⟨_, rfl, request_passes readTransmitterRule_passes⟩
  | driveReply => exact driveReply_passes
  | travelTimeout => exact travelTimeout_passes
  | surveyReadReply => exact surveyReadReply_passes
  | surveyReadTimeout => exact surveyReadTimeout_passes
  | setMatrix => exact ⟨_, rfl, request_passes setMatrixRule_passes⟩
  | moveCrosspoint => exact ⟨_, rfl, request_passes moveCrosspointRule_passes⟩
  | clearCrosspoint => exact ⟨_, rfl, request_passes clearCrosspointRule_passes⟩
  | readRow => exact ⟨_, rfl, request_passes readRowRule_passes⟩
  | readQueue => exact ⟨_, rfl, request_passes readQueueRule_passes⟩
  | setAntenna => exact ⟨_, rfl, request_passes setAntennaRule_passes⟩
  | setLoad => exact ⟨_, rfl, request_passes setLoadRule_passes⟩
  | clearPositioner => exact ⟨_, rfl, request_passes clearPositionerRule_passes⟩
  | readAntenna => exact ⟨_, rfl, request_passes readAntennaRule_passes⟩
  | setGroup => exact ⟨_, rfl, request_passes setGroupRule_passes⟩
  | readGroups => exact ⟨_, rfl, request_passes accept_same⟩
  | positionerPollCycle => exact positionerPollCycle_passes
  | positionerReply => exact positionerReply_passes
  | positionerReplyMissed => exact positionerReplyMissed_passes
  | positionerTimerExpiry => exact positionerTimerExpiry_passes
  | rfSenseChange => exact rfSenseChange_passes
  | coverEnd => exact coverEnd_passes
  | setProtection => exact ⟨_, rfl, request_passes setProtectionRule_passes⟩
  | prove => exact ⟨_, rfl, request_passes proveRule_passes⟩
  | stopProve => exact ⟨_, rfl, request_passes stopProveRule_passes⟩
  | clearStray => exact ⟨_, rfl, request_passes clearStrayRule_passes⟩
  | readProtection => exact ⟨_, rfl, request_passes readProtectionRule_passes⟩
  | ageMinute => exact ⟨_, rfl, .same rfl rfl rfl⟩
  | setExercise => exact ⟨_, rfl, request_passes (Passes.of_hall rfl)⟩
  | startSweep => exact ⟨_, rfl, request_passes startSweepRule_passes⟩
  | stopSweep => exact ⟨_, rfl, request_passes stopSweepRule_passes⟩
  | readSweep => exact ⟨_, rfl, request_passes accept_same⟩
  | setNotices => exact ⟨_, rfl, request_passes setNoticesRule_passes⟩
  | clearNotices => exact ⟨_, rfl, request_passes clearNoticesRule_passes⟩
  | goRun => exact ⟨_, rfl, request_passes goRunRule_passes⟩
  | goConfig => exact ⟨_, rfl, request_passes goConfigRule_passes⟩
  | readStatus => exact ⟨_, rfl, request_passes accept_same⟩

/-! RESTORE, TAKE OUT and RETURN (8.6). -/

/-- A request that changes no unit but the one it names, of a service that it takes, and then ends as an event. -/
structure ChangesUnit (p : List Byte) (takes : Service → Prop) (s t : State) : Prop where
  passes : ∃ s', Passes s' t ∧ s'.hall.xps = s.hall.xps ∧ ∀ w, s'.hall.unit w = s.hall.unit w ∨
    (unitOf (byteAt p 0) = some w ∧ takes (s.hall.unit w).service)

theorem ChangesUnit.refl {takes : Service → Prop} (hall : t.hall = s.hall) : ChangesUnit p takes s t :=
  ⟨s, .of_hall hall, rfl, fun _ => .inl rfl⟩

theorem request_changesUnit {lengthOk : Bool} {modeOk : Mode → Bool} {rule : State → Verdict} {takes : Service → Prop}
    (k : Leaves (ChangesUnit p takes s) (rule s)) : ChangesUnit p takes s (request lengthOk modeOk rule s) :=
  request_leaves (P := ChangesUnit p takes s)
    (fun _ _ ⟨s', passes, same⟩ => ⟨s', ⟨⟨passes.place, passes.unit⟩, passes.guarded⟩, same⟩) (.refl rfl) k

theorem setUnit_changes {r : UnitRec} {takes : Service → Prop} (named : unitOf (byteAt p 0) = some u)
    (takes' : takes (s.hall.unit u).service) (works : Follows t.env (s.hall.setUnit u r) t.hall) :
    ChangesUnit p takes s (conclude b f t) := by
  refine ⟨{ s with hall := s.hall.setUnit u r }, (Tracks.start works).conclude, by cases u <;> rfl, fun w => ?_⟩
  by_cases same : w = u
  · subst same
    exact .inr ⟨named, takes'⟩
  · exact .inl (setUnit_unit_other same)

theorem unitRule_changes {wanted : Service} {F : UnitRec → UnitRec} :
    Leaves (ChangesUnit p (· = wanted) s) (unitRule p wanted F s) := by
  unfold unitRule
  split
  · exact leaves_refuse
  · next u named =>
    split
    · exact leaves_refuse
    · next wants =>
      exact setUnit_changes named (not_not.1 wants) (.refl (s.hall.setUnit u (F (s.hall.unit u))))

theorem takeOutRule_changes : Leaves (ChangesUnit p (· ≠ .out) s) (takeOutRule p s) := by
  unfold takeOutRule
  split
  · exact leaves_refuse
  · next u named =>
    by_cases out : (s.hall.unit u).service = .out
    · have same : takeOutUnit s.env u s.hall = s.hall := if_pos out
      rw [same]
      exact ⟨s, Tracks.conclude (.of_hall rfl), rfl, fun _ => .inl rfl⟩
    · have struck : takeOutUnit s.env u s.hall = strikeUnit s.env u .out none
          (s.hall.setUnit u { s.hall.unit u with service := .out, provingMinutes := 0 }) := if_neg out
      rw [struck]
      exact setUnit_changes named out strikeUnit_follows

/-- A unit of another service that is latched is left so. -/
theorem ChangesUnit.latch {takes : Service → Prop} (k : ChangesUnit p takes s t) (u : HallUnit) :
    Latch (s.hall.unit u) (t.hall.unit u) ∨ (unitOf (byteAt p 0) = some u ∧ takes (s.hall.unit u).service) := by
  obtain ⟨s', passes, -, unit⟩ := k
  refine (unit u).imp_left fun same => ?_
  rw [← same]
  exact passes.unit u

/-- Settles O10. -/
theorem latchedUnitsStayLatched : Obligations.LatchedUnitsStayLatched := by
  intro c s t u next notPowerUp
  have latched (latch : Latch (s.hall.unit u) (t.hall.unit u)) :
      ((s.hall.unit u).service = .barred → (t.hall.unit u).service ≠ .barred →
        ∃ p, (c = .restore p ∨ c = .takeOut p) ∧ unitOf (byteAt p 0) = some u) ∧
      ((s.hall.unit u).service = .out → (t.hall.unit u).service ≠ .out →
        ∃ p, c = .returnUnit p ∧ unitOf (byteAt p 0) = some u) :=
    ⟨fun was isNot => (isNot (latch.1 was)).elim, fun was isNot => (isNot (latch.2 was)).elim⟩
  by_cases other : changesUnits c = false
  · obtain ⟨t', next', passes⟩ := exec_passes other s
    rw [exec_next_inj next next'] at latched ⊢
    exact latched (passes.unit u)
  cases c with
  | powerUp => exact (notPowerUp rfl).elim
  | restore p =>
    have changes : ChangesUnit p (· = .barred) s t :=
      Host.Outcome.next.inj next ▸ request_changesUnit unitRule_changes
    obtain latch | ⟨named, was⟩ := changes.latch u
    · exact latched latch
    · exact ⟨fun _ _ => ⟨p, .inl rfl, named⟩, fun out => absurd (out.symm.trans was) (by decide)⟩
  | takeOut p =>
    have changes : ChangesUnit p (· ≠ .out) s t :=
      Host.Outcome.next.inj next ▸ request_changesUnit takeOutRule_changes
    obtain latch | ⟨named, was⟩ := changes.latch u
    · exact latched latch
    · exact ⟨fun _ _ => ⟨p, .inr rfl, named⟩, fun out => (was out).elim⟩
  | returnUnit p =>
    have changes : ChangesUnit p (· = .out) s t :=
      Host.Outcome.next.inj next ▸ request_changesUnit unitRule_changes
    obtain latch | ⟨named, was⟩ := changes.latch u
    · exact latched latch
    · exact ⟨fun barred => absurd (barred.symm.trans was) (by decide), fun _ _ => ⟨p, rfl, named⟩⟩
  | _ => exact (other rfl).elim

end Sys2Proof.Machine
end

section
/-! SUPPORT. The work of a settling that moves no switch: every part of it but the sending of a move leaves the positions
of the crosspoints (R113). -/

namespace Sys2Proof.Machine

variable {e : Env} {h g k : Hall} {t u : Tx} {r row : Row} {q : Req} {n : QEntry} {x : Xp}

/-- Every crosspoint has the position it had. -/
def Still (h g : Hall) : Prop := ∀ x, (g.xp x).pos = (h.xp x).pos

namespace Still

theorem refl (h : Hall) : Still h h := fun _ => rfl

theorem trans (a : Still h g) (b : Still g k) : Still h k := fun x => (b x).trans (a x)

theorem of_xps (xps : g.xps = h.xps) : Still h g := fun x => by unfold Hall.xp; rw [xps]

theorem ite {c : Prop} [Decidable c] (a : Still h g) (b : Still h k) : Still h (if c then g else k) := by
  split <;> assumption

theorem foldl {β : Type} {f : Hall → β → Hall} (l : List β) (hf : ∀ h b, Still h (f h b)) : Still h (l.foldl f h) := by
  induction l generalizing h with
  | nil => exact refl h
  | cons b l ih => exact (hf h b).trans ih

end Still

/-! The matrix (R105, R108, R111). -/

theorem setLast_still {why : XpResult} : Still h (h.setLast x why) := fun y => by
  show ((h.modXp x _).xp y).pos = _
  rw [Hall.modXp_xp]
  split <;> rfl

theorem dropped_still {i : Nat} {why : XpResult} : Still h ((h.dropEntry i).setLast x why) :=
  Still.trans (g := h.dropEntry i) (.refl h) setLast_still

theorem queueOp_still {d : Dir} {z : Requester} : Still h (queueOp x d z h) := .of_xps queueOp_xps

theorem reportRow_still : Still h (reportRow r h) := .of_xps reportRow_xps

theorem settleRow_still : Still h (settleRow r h) := .of_xps settleRow_xps

theorem withdrawEntry_still : Still h (withdrawEntry e t h n) := by
  unfold withdrawEntry
  dsimp only
  (repeat' split)
  all_goals first
    | exact .refl h
    | exact dropped_still

theorem withdrawOps_still : Still h (withdrawOps e t h) :=
  (Still.foldl _ fun _ _ => withdrawEntry_still).trans (.foldl _ fun _ _ => settleRow_still)

theorem withdrawClaim_still : Still h (withdrawClaim e t h) := by
  unfold withdrawClaim
  split
  · exact withdrawOps_still
  · next c _ =>
    dsimp only
    have left : Still h ((h.setWaiting c.row ((h.rows.get c.row).waiting.filter fun q => q.tx != t)).setClaim t none) :=
      .refl h
    have told (f : Hall) : Still f (f.modCtx t fun x => { x with claimWaiting := false }) := .refl f
    exact left.trans (withdrawOps_still.trans ((told _).trans (settleRow_still.trans (.foldl _ fun _ _ => settleRow_still))))

theorem park_still : Still h (park t h) := by
  unfold park
  split
  · next r _ => exact Still.trans (g := (h.setRes r (.parked t)).setClaim t none) (.refl h) reportRow_still
  · exact .refl h

theorem failClaim_still : Still h (failClaim e t h) := .ite withdrawClaim_still withdrawOps_still

/-! Claims that proceed (R104 to R106). -/

/-- The status of a claim changed. -/
theorem setStatus_still {f : Claim → Claim} : Still h
    (match h.claims.get t with
      | some c => h.setClaim t (some (f c))
      | none => h) := by
  split <;> exact .refl h

theorem tellGranted_still : Still h (tellGranted t h) := setStatus_still

theorem tellConnected_still : Still h (tellConnected t h) := setStatus_still

theorem releaseFormers_still : Still h (releaseFormers q row h) :=
  setStatus_still.trans (.foldl _ fun h r => Still.trans (g := h.setRes r .releasing) (.refl h)
    (queueOp_still.trans reportRow_still))

theorem grant_still : Still h (grant q row h) :=
  Still.trans (g := h.setRes row (.claimed q.tx)) (.refl h) (queueOp_still.trans tellGranted_still)

theorem connect_still : Still h (connect q row h) :=
  Still.trans (g := h.setRes row (.connected q.tx)) (.refl h) tellConnected_still

theorem takeReleasing_still : Still h (takeReleasing q row h) := by
  unfold takeReleasing
  split
  · exact .ite grant_still (dropped_still.trans connect_still)
  · exact Still.trans (g := inheritOpens q row h) (.refl h) grant_still

theorem joinWaiting_still : Still h (joinWaiting q row h) := .refl h

theorem yieldRow_still : Still h (yieldRow q h) := by
  have yielded : Still h (yieldOp q h) := by
    unfold yieldOp
    dsimp only
    (repeat' split)
    all_goals first
      | exact .refl h
      | exact dropped_still
  exact yielded.trans (.refl _)

theorem proceed_still : Still h (proceed q row h) := by
  have yields {f : Hall} : Still f (if f.res row = .exercise ∨ f.exercised row then yieldRow q f else f) :=
    .ite yieldRow_still (.refl f)
  refine (releaseFormers_still (q := q) (row := row)).trans (yields.trans ?_)
  unfold proceed
  dsimp only
  generalize (if (releaseFormers q row h).res row = .exercise ∨ (releaseFormers q row h).exercised row
    then yieldRow q (releaseFormers q row h) else releaseFormers q row h) = f
  split
  · exact grant_still
  · exact .ite connect_still (queueOp_still.trans grant_still)
  · exact takeReleasing_still
  · exact .ite grant_still joinWaiting_still
  · exact .ite connect_still joinWaiting_still
  · exact grant_still

theorem handRowOn_still : Still h (handRowOn r h) := by
  unfold handRowOn
  split
  · split
    · next x _ =>
      exact Still.trans (g := h.setWaiting r ((h.rows.get r).waiting.filter fun y => y.tx != x.tx)) (.refl h) proceed_still
    · exact .refl h
  · exact .refl h

theorem handRowsOn_still {later : Hall → Row → Bool} (n : Nat) : Still h (handRowsOn later n h) := by
  induction n generalizing h with
  | zero => exact .refl h
  | succ n ih =>
    unfold handRowsOn
    split
    · next r _ =>
      exact Still.trans (g := { h with work := h.work.erase (.handOn r) }) (.refl h) (handRowOn_still.trans ih)
    · exact .refl h

theorem claim_still : Still h (claim e q row h) := by
  have earlier {f : Hall} : Still f (match f.claims.get q.tx with
      | some c => if c.row = row ∧ f.res row = .connected q.tx then f else withdrawClaim e q.tx f
      | none => f) := by
    split
    · exact .ite (.refl f) withdrawClaim_still
    · exact .refl f
  have fails (f : Hall) : Still f (f.report (.pathFailed q.tx)) := .refl f
  have begins (f : Hall) (c : Option Claim) : Still f (f.setClaim q.tx c) := .refl f
  unfold claim
  dsimp only
  exact (handRowsOn_still Config.settleBound).trans (earlier.trans ((handRowsOn_still Config.settleBound).trans
    (.ite (fails _) ((begins _ _).trans proceed_still))))

theorem flushDeferred_still : Still h (flushDeferred t h) := by
  unfold flushDeferred
  split
  · exact .refl h
  · next c _ =>
    have begins (c : Option Claim) : Still h (h.setClaim t c) := .refl h
    exact (begins _).trans (.foldl _ fun _ _ => queueOp_still)

/-! The exercise (Chapter 9) and the entries that fail (R111, R116). -/

theorem beginExercise_still {o : ExOrigin} : Still h (beginExercise o x h) :=
  Still.trans (g := { h.setRes x.row .exercise with
    exercise := { h.exercise with phase := .closing, xp := x, origin := o } }) (.refl h) queueOp_still

theorem sweepReach_still : Still h (sweepReach e h) := by
  have counted (w : Sweep) : Still h { h with sweep := w } := .refl h
  unfold sweepReach
  split
  · exact .refl h
  · split
    · exact (counted _).trans beginExercise_still
    · exact .refl h

theorem endExercise_still {y : ExResult} : Still h (endExercise e y h) := by
  have written : Still h (writeExercise y h) := .refl h
  unfold endExercise
  dsimp only
  split
  · exact written
  · split
    · exact written.trans (Still.trans (g := { writeExercise y h with sweep := (writeExercise y h).sweep.count y })
        (.refl _) sweepReach_still)
    · exact .refl h
    · exact .refl h

theorem exerciseFailed_still {why : XpResult} : Still h (exerciseFailed e why h) :=
  (Still.trans (g := h.setRes h.exercise.xp.row .free) (.refl h) settleRow_still).trans endExercise_still

theorem failEntries_still {why : XpResult} {gone : List QEntry} : Still h (failEntries e why gone h) := by
  have goes : Still h (failGone why gone h) := .foldl _ fun _ _ => dropped_still
  have asked {f : Hall} : Still f (gone.foldl (fun f n => n.reqs.foldl (failRequester e why) f) f) :=
    .foldl _ fun _ _ => .foldl _ fun _ _ => .ite withdrawClaim_still failClaim_still
  have told {f : Hall} : Still f (failTold e why gone f) := .ite (asked.trans exerciseFailed_still) asked
  exact goes.trans (told.trans (.foldl _ fun _ _ => settleRow_still))

theorem strayRow_still : Still h (strayRow e r h) := failEntries_still.trans (.foldl _ fun _ _ => failClaim_still)

end Sys2Proof.Machine
end

section
/-! SUPPORT. What the work of a settling leaves of the contexts that hold nothing, of the switches, the GOs in force and
the proving run records: no context comes on air in it, and no switch moves but by a move that is sent (R81, R113). -/

namespace Sys2Proof.Machine

variable {e : Env} {h g k : Hall} {t u : Tx} {a : Ant} {r row : Row} {q : Req} {n : QEntry} {why : Reason}

/-- A context is IDLE and holds nothing. -/
def Hall.Empty (h : Hall) (t : Tx) : Prop := (h.ctx.get t).state = .idle ∧ (h.ctx.get t).held = .nothing

/-- A proving run record counts what it counted, and one that does not run is as it was. -/
def RunKept (w w' : RunRec) : Prop := w'.minutes = w.minutes ∧ (w.running = false → w' = w)

theorem RunKept.refl (w : RunRec) : RunKept w w := ⟨rfl, fun _ => rfl⟩

theorem RunKept.trans {w w' w'' : RunRec} (i : RunKept w w') (j : RunKept w' w'') : RunKept w w'' :=
  ⟨j.1.trans i.1, fun off => by
    have same := i.2 off
    exact (j.2 (by rw [same]; exact off)).trans same⟩

/-- Work of a settling that sends no move. -/
structure Works (h g : Hall) : Prop where
  place : Still h g
  air : ∀ t, (g.ctx.get t).state = .onAir → (h.ctx.get t).state = .onAir
  empty : ∀ t, h.Empty t → g.Empty t ∧ g.links.get t = h.links.get t
  go : ∀ a, (g.pos.get a).go.isSome = (h.pos.get a).go.isSome
  run : ∀ t, RunKept (h.runs.get t) (g.runs.get t)

namespace Works

theorem refl (h : Hall) : Works h h := ⟨.refl h, fun _ => id, fun _ w => ⟨w, rfl⟩, fun _ => rfl, fun _ => .refl _⟩

theorem trans (a : Works h g) (b : Works g k) : Works h k where
  place := a.place.trans b.place
  air t w := a.air t (b.air t w)
  empty t w := ⟨(b.empty t (a.empty t w).1).1, ((b.empty t (a.empty t w).1).2).trans (a.empty t w).2⟩
  go x := (b.go x).trans (a.go x)
  run t := (a.run t).trans (b.run t)

theorem ite {c : Prop} [Decidable c] (a : Works h g) (b : Works h k) : Works h (if c then g else k) := by
  split <;> assumption

theorem foldl {β : Type} {f : Hall → β → Hall} (l : List β) (hf : ∀ h b, Works h (f h b)) : Works h (l.foldl f h) := by
  induction l generalizing h with
  | nil => exact refl h
  | cons b l ih => exact (hf h b).trans ih

/-- Work that leaves the contexts, the links, the positioners and the proving runs. -/
theorem of_same (place : Still h g) (ctx : g.ctx = h.ctx) (links : g.links = h.links) (pos : g.pos = h.pos)
    (runs : g.runs = h.runs) : Works h g where
  place := place
  air t w := by rwa [ctx] at w
  empty t w := by unfold Hall.Empty; rw [ctx, links]; exact ⟨w, rfl⟩
  go x := by rw [pos]
  run t := by rw [runs]; exact .refl _

/-- Work on claims and on what they ask for. -/
theorem of_claims (place : Still h g) (w : ClaimsOnly h g) : Works h g where
  place := place
  air t air := by rwa [w.state] at air
  empty t i := ⟨⟨w.state.trans i.1, w.held.trans i.2⟩, by rw [w.links]⟩
  go x := by rw [w.pos]
  run t := by rw [w.eq]; exact .refl _

end Works

/-! The elementary changes. -/

/-- A context that is replaced by one which is not newly on air; an empty one stays empty. -/
theorem setCtx_works {c : Context} (air : c.state = .onAir → (h.ctx.get t).state = .onAir)
    (empty : h.Empty t → c.state = .idle ∧ c.held = .nothing) : Works h (h.setCtx t c) where
  place := .refl h
  air u w := by
    show (h.ctx.get u).state = .onAir
    by_cases hu : u = t
    · subst hu
      exact air (by rwa [Hall.setCtx_get, if_pos rfl] at w)
    · rwa [Hall.setCtx_get, if_neg (Ne.symm hu)] at w
  empty u w := by
    refine ⟨?_, rfl⟩
    unfold Hall.Empty
    by_cases hu : u = t
    · subst hu
      rw [Hall.setCtx_get, if_pos rfl]
      exact empty w
    · rw [Hall.setCtx_get, if_neg (Ne.symm hu)]
      exact w
  go _ := rfl
  run _ := .refl _

/-- A context changed in anything but its state and what it holds. -/
theorem modCtx_works {f : Context → Context} (hf : ∀ c, (f c).state = c.state ∧ (f c).held = c.held) :
    Works h (h.modCtx t f) :=
  setCtx_works (fun w => (hf _).1.symm.trans w) fun w => ⟨(hf _).1.trans w.1, (hf _).2.trans w.2⟩

/-- A context at work that changes its state to another than ON_AIR. -/
theorem busyCtx_works {f : Context → Context} (busy : ¬h.Empty t) (off : (f (h.ctx.get t)).state ≠ .onAir) :
    Works h (h.modCtx t f) :=
  setCtx_works (fun w => absurd w off) fun w => absurd w busy

theorem idle_works : Works h (h.setCtx t Context.idle) := setCtx_works (fun w => by cases w) fun _ => ⟨rfl, rfl⟩

theorem modLink_works {f : Link → Link} (busy : ¬h.Empty t) : Works h (h.modLink t f) where
  place := .refl h
  air _ w := w
  empty u w := by
    refine ⟨w, ?_⟩
    rw [Hall.modLink_get, if_neg]
    rintro rfl
    exact busy w
  go _ := rfl
  run _ := .refl _

theorem modPos_works {f : PosRec → PosRec} (hf : ∀ p, (f p).go.isSome = p.go.isSome) : Works h (h.modPos a f) where
  place := .refl h
  air _ w := w
  empty _ w := ⟨w, rfl⟩
  go b := by
    rw [Hall.modPos_get]
    split
    · exact hf _
    · rfl
  run _ := .refl _

theorem finishRecord_works {i : Handle} {o : LastOutcome} : Works h (finishRecord e t i o h) := by
  rw [finishRecord_eq]
  exact .of_same (.refl h) rfl rfl rfl rfl

theorem finishHeld_works : Works h (finishHeld e t h) := by
  rw [finishHeld_eq]
  exact .of_same (.refl h) rfl rfl rfl rfl

theorem modRecord_works {i : Handle} {f : Record → Record} : Works h (h.modRecord i f) := by
  rw [modRecord_eq]
  exact .of_same (.refl h) rfl rfl rfl rfl

theorem endRun_works {w : RunResult} : Works h (endRun t w h) where
  place := .refl h
  air _ w := w
  empty _ w := ⟨w, rfl⟩
  go _ := rfl
  run u := by
    show RunKept _ ((h.runs.modify t _).get u)
    rw [Tab.get_modify]
    split
    · next same =>
      subst same
      exact ⟨by split <;> rfl, fun off => if_neg (by rw [off]; decide)⟩
    · exact .refl _

theorem decideOutcome_works {o : OccOutcome} {w : Option Reason} {i : Nat} : Works h (decideOutcome t o w i h) :=
  modCtx_works fun c => by split <;> exact ⟨rfl, rfl⟩

theorem withdrawPosition_works : Works h (withdrawPosition t h) where
  place := .refl h
  air _ w := w
  empty _ w := ⟨w, rfl⟩
  go x := by
    unfold withdrawPosition
    dsimp only
    rw [Tab.get_map, Option.isSome_map]
  run _ := .refl _

/-! Taking down (R91). -/

theorem withdrawOps_works : Works h (withdrawOps e t h) := .of_claims withdrawOps_still withdrawOps_claimsOnly

theorem withdrawClaim_works : Works h (withdrawClaim e t h) := .of_claims withdrawClaim_still withdrawClaim_claimsOnly

theorem dropPermit_works : Works h (dropPermit e t h) := .of_same (.refl h) rfl rfl rfl rfl

theorem finishIdle_works : Works h (finishIdle e t h) :=
  (Works.of_claims park_still park_matrix.claims).trans (withdrawClaim_works.trans (finishHeld_works.trans idle_works))

theorem Works.busy (w : Works h g) (busy : ¬g.Empty t) : ¬h.Empty t := fun empty => busy (w.empty t empty).1

theorem enterEnding_works (busy : ¬h.Empty t) : Works h (enterEnding e t h) := by
  have kept {f : Hall} : Works f (match (f.ctx.get t).occ with
      | some o => f.modRecord o.handle (Record.enter .ending)
      | none => f) ∧ (match (f.ctx.get t).occ with
      | some o => f.modRecord o.handle (Record.enter .ending)
      | none => f).ctx = f.ctx := by
    split
    · exact ⟨modRecord_works, modRecord_ctx ..⟩
    · exact ⟨.refl f, rfl⟩
  refine dropPermit_works.trans (kept.1.trans (busyCtx_works ?_ fun air => by cases air))
  unfold Hall.Empty
  rw [kept.2]
  exact busy

theorem not_empty_of_state (w : (h.ctx.get t).state ≠ .idle) : ¬h.Empty t := fun empty => w empty.1

theorem unwind_works (busy : ¬h.Empty t) : Works h (unwind e t h) := by
  have begins : Works h (withdrawPosition t (withdrawPreset t (dropPermit e t h))) :=
    Works.trans (g := dropPermit e t h) dropPermit_works
      (Works.trans (g := withdrawPreset t (dropPermit e t h)) (modLink_works busy) withdrawPosition_works)
  have given {f : Hall} : Works f (if f.connectedClaim t then withdrawOps e t f else withdrawClaim e t f) ∧
      ClaimsOnly f (if f.connectedClaim t then withdrawOps e t f else withdrawClaim e t f) :=
    ⟨.ite withdrawOps_works withdrawClaim_works, .ite withdrawOps_claimsOnly withdrawClaim_claimsOnly⟩
  unfold unwind
  dsimp only
  refine begins.trans ?_
  split
  · next rf =>
    refine given.1.trans (enterEnding_works (not_empty_of_state ?_))
    rw [given.2.state]
    intro idle
    rw [idle] at rf
    cases rf
  · exact finishIdle_works

/-- A decided end of a context at work. -/
theorem endedUnwind_works {o : OccOutcome} {w : Option Reason} {i : Nat} {f : RunResult} (busy : ¬h.Empty t) :
    Works h (unwind e t (endRun t f (decideOutcome t o w i h))) := by
  refine (decideOutcome_works.trans endRun_works).trans (unwind_works ?_)
  have same : ((decideOutcome t o w i h).ctx.get t).state = (h.ctx.get t).state ∧
      ((decideOutcome t o w i h).ctx.get t).held = (h.ctx.get t).held := by
    unfold decideOutcome
    rw [modCtx_self]
    split <;> exact ⟨rfl, rfl⟩
  show ¬(decideOutcome t o w i h).Empty t
  unfold Hall.Empty
  rw [same.1, same.2]
  exact busy

theorem not_empty_of_working (w : (h.ctx.get t).state.working = true) : ¬h.Empty t :=
  not_empty_of_state fun idle => by rw [idle] at w; cases w

theorem cut_works : Works h (cut e t why h) := by
  unfold cut
  dsimp only
  split
  · next working => exact endedUnwind_works (not_empty_of_working working)
  · exact .refl h

theorem takeBack_works {o : OccOutcome} {w : Option Reason} {i : Nat} : Works h (takeBack e t o w i h) := by
  unfold takeBack
  split
  · next working => exact endedUnwind_works (not_empty_of_working working)
  · exact .refl h

/-! A sub-task that fails (R78). -/

theorem claim_works : Works h (claim e q row h) := .of_claims claim_still claim_claimsOnly

theorem reRow_works {o : Occ} (busy : ¬h.Empty t) : Works h (reRow e t o row h) := by
  have freshened {f : Hall} : Works f (newAntennaFoldback t f) := .of_same (.refl f) rfl rfl rfl rfl
  unfold reRow
  dsimp only
  exact (busyCtx_works busy fun air => by cases air).trans (modRecord_works.trans (withdrawPosition_works.trans
    (freshened.trans claim_works)))

theorem failPreparation_works (busy : ¬h.Empty t) : Works h (failPreparation e t why h) := by
  have decided {f : Hall} {o : OccOutcome} {w : Option Reason} {i : Nat} (busy : ¬f.Empty t) :
      Works f (unwind e t (decideOutcome t o w i f)) := by
    refine decideOutcome_works.trans (unwind_works ?_)
    unfold Hall.Empty decideOutcome
    rw [modCtx_self]
    split <;> exact busy
  have moved {left : List Ant} {o : Occ} {row : Row} :
      Works h (reRow e t o row (h.modCtx t fun c => { c with left := left, reResolved := true })) := by
    have left : Works h (h.modCtx t fun c => { c with left := left, reResolved := true }) :=
      modCtx_works fun _ => ⟨rfl, rfl⟩
    refine left.trans (reRow_works ?_)
    unfold Hall.Empty
    rw [modCtx_self]
    exact busy
  unfold failPreparation
  dsimp only
  split
  · exact endRun_works.trans (unwind_works busy)
  · split
    · exact moved
    · exact .ite (decided busy) (decided busy)

/-- A context in PREPARING marks a sub-task and fails. -/
theorem marked_works {f : Context → Context} (hf : ∀ c, (f c).state = c.state ∧ (f c).held = c.held)
    (prep : (h.ctx.get t).state = .preparing) : Works h (failPreparation e t why (h.modCtx t f)) := by
  refine (modCtx_works hf).trans (failPreparation_works (not_empty_of_state ?_))
  rw [modCtx_self, (hf _).1, prep]
  decide

theorem pathFails_works : Works h (pathFails e t h) := by
  unfold pathFails
  dsimp only
  split
  · next w =>
    refine marked_works ?_ w.1
    exact fun _ => ⟨rfl, rfl⟩
  · exact .refl h

theorem positionFails_works : Works h (positionFails e t h) := by
  unfold positionFails
  dsimp only
  split
  · next w =>
    refine marked_works ?_ w.1
    exact fun _ => ⟨rfl, rfl⟩
  · exact .refl h

theorem handleMsg_works {m : Msg} : Works h (handleMsg e m h) := by
  cases m with
  | handOn r => exact .of_claims handRowOn_still handRowOn_claimsOnly
  | pathFailed t => exact pathFails_works
  | posFailed t => exact positionFails_works

/-! The standing rules. -/

theorem gateDrop_works : Works h (gateDrop e t h) := by
  have fallen : Works h (lowerLine e t h) := .of_same (.refl h) rfl rfl rfl rfl
  exact .ite (fallen.trans cut_works) fallen

theorem failEntries_works {gone : List QEntry} {x : XpResult} : Works h (failEntries e x gone h) :=
  .of_claims failEntries_still failEntries_claimsOnly

theorem failClaim_works : Works h (failClaim e t h) := .of_claims failClaim_still failClaim_claimsOnly

theorem latchStray_works : Works h (latchStray e r h) := by
  have latched : Works h (raiseNotice .strayRf { h with stray := h.stray.set r true }) := .of_same (.refl h) rfl rfl rfl rfl
  unfold latchStray
  exact latched.trans ((Works.foldl _ fun _ _ => dropPermit_works).trans ((Works.foldl _ fun h _ =>
    .ite cut_works (.refl h)).trans (failEntries_works.trans (.foldl _ fun _ _ => failClaim_works))))

theorem requestedPower_empty (empty : h.Empty t) : requestedPower e h t = none := by
  unfold requestedPower serviceLimit plainLimit
  rw [empty.2]
  rfl

theorem ceiling_works : Works h (ceiling e t h) := by
  have power {f : Power → Power} : Works h (h.modPower t f) := .of_same (.refl h) rfl rfl rfl rfl
  unfold ceiling
  dsimp only
  split
  · exact .refl h
  · split
    · next p new =>
      refine power.trans (modLink_works fun empty => ?_)
      rw [requestedPower_empty (t := t) (h := h) empty] at new
      cases new
    · exact power

theorem flushDeferred_claimsOnly : ClaimsOnly h (flushDeferred t h) := by
  unfold flushDeferred
  split
  · exact .refl h
  · next c _ =>
    have begins (c : Option Claim) : ClaimsOnly h (h.setClaim t c) := ⟨rfl, fun _ => rfl⟩
    exact (begins _).trans (.foldl _ fun _ _ => queueOp_claimsOnly)

theorem refuseRequest_works {w : PosRequest} : Works h (refuseRequest a w h) :=
  Works.trans (g := h.modPos a fun p => { p with request := none }) (modPos_works fun _ => rfl)
    (.of_same (.refl _) rfl rfl rfl rfl)

theorem placeRequest_works {c : AntCfg} {w : PosRequest} : Works h (placeRequest c a w h) := by
  have stored {o : PosRec → Option PosRequest} : Works h (h.modPos a fun p => { p with request := o p }) :=
    modPos_works fun _ => rfl
  unfold placeRequest
  dsimp only
  split
  · exact refuseRequest_works
  · exact stored
  · exact stored
  · exact .ite (stored.trans (modCtx_works fun _ => ⟨rfl, rfl⟩)) (.ite refuseRequest_works stored)

theorem askPosition_works : Works h (askPosition e t h) := by
  have asked : Works h (h.modCtx t fun c => { c with posAsked := true }) := modCtx_works fun _ => ⟨rfl, rfl⟩
  unfold askPosition takeRequest
  dsimp only
  refine asked.trans ?_
  split
  · exact .refl _
  · split
    · split
      · exact refuseRequest_works
      · exact .ite refuseRequest_works placeRequest_works
    · exact .refl _

theorem enterRamping_works (busy : ¬h.Empty t) : Works h (enterRamping e t h) := by
  have asks {f : Hall} : Works f (requestPermit t f) := .of_same (.refl f) rfl rfl rfl rfl
  exact (busyCtx_works busy fun air => by cases air).trans asks

theorem enterStanding_works (busy : ¬h.Empty t) : Works h (enterStanding e t h) := by
  have stands : Works h (h.modCtx t fun c => { c with state := .standing, timer := none }) :=
    busyCtx_works busy fun air => by cases air
  refine .ite (stands.trans (enterRamping_works (not_empty_of_state ?_))) stands
  rw [modCtx_self]
  exact fun idle => by cases idle

theorem standingReady_busy (w : standingReady h t = true) : ¬h.Empty t := by
  refine not_empty_of_state fun idle => ?_
  unfold standingReady at w
  dsimp only at w
  rw [idle] at w
  cases w

theorem sendRead_works : Works h (sendRead e h) := by
  unfold sendRead
  split
  · exact .refl h
  · exact .of_same (.refl h) rfl rfl rfl rfl

/-! A settling. -/

/-- What a standing rule does is work that sends no move, or the sending of the picked one (R112, R113). -/
theorem standingRule_works (w : standingRule e h = some g) : Works h g ∨
    ∃ n, pickEntry e h = some n ∧ driveFree e h = true ∧ e.pins.rf.get n.xp.row = false ∧ g = sendMove e n h := by
  unfold standingRule at w
  split at w
  · cases w; exact .inl gateDrop_works
  split at w
  · cases w; exact .inl (.of_same (.refl h) rfl rfl rfl rfl)
  split at w
  · cases w; exact .inl latchStray_works
  split at w
  · cases w; exact .inl ceiling_works
  split at w
  · cases w; exact .inl (.of_claims flushDeferred_still flushDeferred_claimsOnly)
  split at w
  · cases w; exact .inl askPosition_works
  split at w
  · next ready => cases w; exact .inl (enterStanding_works (standingReady_busy (List.find?_some ready)))
  split at w
  · cases w; exact .inl failEntries_works
  · cases w; exact .inl failEntries_works
  split at w
  · cases w; exact .inl failEntries_works
  split at w
  · cases w; exact .inl sendRead_works
  split at w
  · next free =>
    obtain ⟨n, picked, rfl⟩ := Option.map_eq_some_iff.1 w
    unfold servePick
    split
    · exact .inl failEntries_works
    · next clear => exact .inr ⟨n, picked, free, by simpa using clear, rfl⟩
  · cases w

theorem agendaStep_works (w : agendaStep e h = some g) : Works h g ∨
    ∃ n, pickEntry e h = some n ∧ driveFree e h = true ∧ e.pins.rf.get n.xp.row = false ∧ g = sendMove e n h := by
  unfold agendaStep at w
  split at w
  · next m rest _ =>
    cases w
    exact .inl ((Works.of_same (g := { h with work := rest }) (.refl h) rfl rfl rfl rfl).trans handleMsg_works)
  · exact standingRule_works w

/-- What all work and the sending of a move keep, a settling keeps. -/
theorem settle_keeps {P : Hall → Prop} (works : ∀ h g, Works h g → P h → P g) (send : ∀ h n, P h → P (sendMove e n h))
    (w : P h) : P (settle e h) := by
  have runs (i : Nat) : P (runAgenda e i h) := by
    induction i generalizing h with
    | zero => exact w
    | succ i ih =>
      unfold runAgenda
      split
      · next step =>
        obtain work | ⟨n, -, -, -, rfl⟩ := agendaStep_works step
        · exact ih (works _ _ work w)
        · exact ih (send _ _ w)
      · exact w
  exact works _ _ (Works.of_same (h := runAgenda e Config.settleBound h) (.refl _) rfl rfl rfl rfl) (runs Config.settleBound)

end Sys2Proof.Machine
end

section
/-! SUPPORT. The pick of the entry that is sent, and what its sending changes (R110, R112, R113, R217; O37). -/

namespace Sys2Proof.Machine

variable {e : Env} {h g k : Hall} {b s t : State} {x y : Xp} {n m : QEntry}

/-! The order of the pick (R112). -/

/-- The rank of an entry: with requesters, commanded, the exercise's. -/
def QEntry.rank (n : QEntry) : Nat := if n.reqs.isEmpty then if n.commands = 0 then 2 else 1 else 0

theorem pickKey_asked (asked : n.rank = 0) : n.pickKey =
    [0, n.deadline.getD 0, n.lowest, if n.dir = .close then 1 else 0, n.arrival] := by
  have some : n.reqs ≠ [] := by
    intro none
    unfold QEntry.rank at asked
    rw [none, List.isEmpty_nil, if_pos rfl] at asked
    split at asked <;> cases asked
  obtain ⟨q, l, reqs⟩ := List.exists_cons_of_ne_nil some
  unfold QEntry.pickKey QEntry.deadline QEntry.lowest
  rw [if_pos some, reqs]
  rfl

theorem pickKey_unasked (unasked : n.rank ≠ 0) : n.pickKey = [n.rank, n.arrival] ∧ n.deadline = Option.none := by
  unfold QEntry.rank at unasked
  unfold QEntry.rank QEntry.pickKey QEntry.deadline
  split at unasked
  · next empty =>
    rw [List.isEmpty_iff] at empty
    rw [empty]
    by_cases commanded : n.commands = 0 <;> simp [commanded]
  · exact absurd rfl unasked

/-- The order of the pick is that of its keys. -/
theorem picksBefore_iff : picksBefore n m = true ↔ ¬m.pickKey < n.pickKey := by
  have ranked : picksBefore n m =
      if n.rank ≠ m.rank then decide (n.rank < m.rank)
      else if n.deadline.getD 0 ≠ m.deadline.getD 0 then decide (n.deadline.getD 0 < m.deadline.getD 0)
      else
        let low (n : QEntry) : Nat := if n.rank = 0 then n.lowest else 0
        let opens (n : QEntry) : Nat := if n.rank = 0 ∧ n.dir = .close then 1 else 0
        if low n ≠ low m then decide (low n < low m)
        else if opens n ≠ opens m then decide (opens n < opens m)
        else decide (n.arrival ≤ m.arrival) := rfl
  rw [ranked]
  by_cases hn : n.rank = 0 <;> by_cases hm : m.rank = 0
  · rw [pickKey_asked hn, pickKey_asked hm, hn, hm]
    simp only [List.cons_lt_cons_iff, true_and]
    grind
  · rw [pickKey_asked hn, (pickKey_unasked hm).1, hn]
    simp only [List.cons_lt_cons_iff]
    grind
  · rw [pickKey_asked hm, (pickKey_unasked hn).1, hm]
    simp only [List.cons_lt_cons_iff]
    grind
  · rw [(pickKey_unasked hn).1, (pickKey_unasked hm).1, (pickKey_unasked hn).2, (pickKey_unasked hm).2]
    simp only [List.cons_lt_cons_iff]
    grind

/-- The pick passes from an entry to one that goes before it (R112). -/
def pickNext (best : Option QEntry) (n : QEntry) : Option QEntry :=
  match best with
  | none => some n
  | some b => if picksBefore b n then some b else some n

theorem pickFold_first {l : List QEntry} {best : Option QEntry} (w : l.foldl pickNext best = some n) :
    (∀ m ∈ l, ¬m.pickKey < n.pickKey) ∧ ∀ b, best = some b → ¬b.pickKey < n.pickKey := by
  induction l generalizing best with
  | nil =>
    refine ⟨fun _ hm => absurd hm List.not_mem_nil, fun b hb => ?_⟩
    cases hb.symm.trans w
    exact List.lt_irrefl _
  | cons c l ih =>
    obtain ⟨rest, next⟩ := ih w
    cases best with
    | none => exact ⟨List.forall_mem_cons.2 ⟨next c rfl, rest⟩, nofun⟩
    | some b =>
      by_cases first : picksBefore b c = true
      · have kept := next b (if_pos first)
        refine ⟨List.forall_mem_cons.2 ⟨fun before => ?_, rest⟩, fun _ hb => by cases hb; exact kept⟩
        exact List.le_trans (List.not_lt.1 kept) (List.not_lt.1 (picksBefore_iff.1 first)) before
      · have taken := next c (if_neg first)
        refine ⟨List.forall_mem_cons.2 ⟨taken, rest⟩, fun _ hb before => ?_⟩
        cases hb
        rw [picksBefore_iff, not_not] at first
        exact taken (List.lt_trans first before)

theorem pickEntry_first (w : pickEntry e h = some n) (queued : m ∈ h.queue) (ready : eligible e h m = true) :
    ¬m.pickKey < n.pickKey := by
  have fold : (h.queue.filter (eligible e h)).foldl pickNext none = some n := w
  exact (pickFold_first fold).1 m (List.mem_filter.2 ⟨queued, ready⟩)

/-! The sending of a move (R110, R113, R217). -/

theorem eligible_iff : eligible e h n = true ↔ n.Ready e h := by
  have shows {u : Tx} : rfOff e h u = true ↔ ShowsRfOff e h u := by
    refine ⟨showsRfOff_of_rfOff, fun w => rfOff_iff.2 (w.imp_right fun ⟨m, hm, low, report⟩ => ⟨m, hm, ?_⟩)⟩
    simp only [Telemetry.quiet, Bool.and_eq_true, Bool.or_eq_true, beq_iff_eq, decide_eq_true_eq]
    tauto
  have interlock : h.interlockOk n.xp = true ↔
      ∀ y : Xp, y ≠ n.xp → y.row = n.xp.row ∨ y.tx = n.xp.tx → (h.xp y).pos = .opened := by
    simp only [Hall.interlockOk, List.all_eq_true, mem_otherXps, isOpen_iff, and_imp]
  unfold eligible rfEligible QEntry.Ready
  simp only [Bool.and_eq_true, Bool.or_eq_true, Bool.not_eq_true', shows, interlock, beq_iff_eq, and_assoc]
  cases n.dir <;> simp

theorem sendMove_xp : (sendMove e n h).xp y = if n.xp = y then { h.xp y with pos := n.dir.moving, rfSeen := false } else h.xp y := by
  show (h.modXp n.xp _).xp y = _
  rw [Hall.modXp_xp]

theorem driveFree_iff : driveFree e h = true ↔
    (∀ m ∈ h.queue, m.inFlight = false) ∧ h.reading = none ∧ e.linksSilent = false := by
  simp [driveFree, Hall.flying, and_assoc]

theorem driveFrame_eq {d : Dir} : driveFrame x d.code = withCheck [BitVec.ofNat 8 x.tx.val, BitVec.ofNat 8 x.row.val,
    match d with
    | .close => 1
    | .openIt => 2] := by
  cases d <;> rfl

/-- A step of a settling moves a crosspoint only by sending the entry of the pick (R112, R113). -/
theorem moved_sent (step : agendaStep e h = some g) (moved : (g.xp x).pos ≠ (h.xp x).pos) : ∃ n,
    pickEntry e h = some n ∧ driveFree e h = true ∧ e.pins.rf.get x.row = false ∧ n.xp = x ∧ g = sendMove e n h := by
  obtain work | ⟨n, picked, free, clear, rfl⟩ := agendaStep_works step
  · exact absurd (work.place x) moved
  · have own : n.xp = x := by
      by_contra other
      rw [sendMove_xp, if_neg other] at moved
      exact moved rfl
    subst own
    exact ⟨n, picked, free, clear, rfl, rfl⟩

/-! After any command (R113, R160). -/

/-- A high line that is guarded stands over no crosspoint that moves (R160). -/
theorem guarded_low (guarded : PermitsGuarded s) (moves : (s.hall.xp x).pos.Moves) : s.hall.lineLow x.tx := by
  unfold Hall.lineLow
  by_contra high
  obtain ⟨-, -, -, -, -, r, column, closed, -⟩ :=
    (permitConditionsOneByOne s.env s.hall x.tx).1 (guarded x.tx (by simpa using high))
  have row : x.row = r := (column x.row).1 (by obtain w | w := moves <;> rw [w] <;> nofun)
  rw [← row] at closed
  obtain w | w := moves <;> cases w.symm.trans closed

/-- Where a moving crosspoint stands: its line low, RF off and none sensed. -/
def MovesSafely (x : Xp) (t : State) : Prop :=
  t.hall.lineLow x.tx ∧ ShowsRfOff t.env t.hall x.tx ∧ t.env.pins.rf.get x.row = false

theorem Passes.moves (w : Passes s t) (moved : (t.hall.xp x).pos ≠ (s.hall.xp x).pos) (moves : (t.hall.xp x).pos.Moves) :
    MovesSafely x t := by
  have sent := (w.place x moves).resolve_left moved
  have guarded := w.guarded.resolve_right fun placed => moved (placed x moves)
  exact ⟨guarded_low guarded moves, sent.1, sent.2⟩

theorem ChangesUnit.moves {takes : Service → Prop} {p : List Byte} (k : ChangesUnit p takes s t)
    (moved : (t.hall.xp x).pos ≠ (s.hall.xp x).pos) (moves : (t.hall.xp x).pos.Moves) : MovesSafely x t := by
  obtain ⟨s', passes, xps, -⟩ := k
  refine passes.moves ?_ moves
  unfold Hall.xp at *
  rwa [xps]

theorem poweredUp_moves {f : Bool} (moves : ((conclude b f (examineLines (poweredUp s))).hall.xp x).pos.Moves) :
    MovesSafely x (conclude b f (examineLines (poweredUp s))) := by
  refine ((Tracks.refl (poweredUp s)).examineLines.conclude (b := b) (f := f)).moves ?_ moves
  have unknown : ((poweredUp s).hall.xp x).pos = .unknown := by
    show (Hall.powerUp.xp x).pos = _
    rw [powerUp_xp]
    rfl
  rw [unknown]
  obtain w | w := moves <;> rw [w] <;> nofun

/-- A crosspoint that has become MOVING in a command was sent safely. -/
theorem exec_moves (c : Instr) (next : exec c s = .next t) (moved : (t.hall.xp x).pos ≠ (s.hall.xp x).pos)
    (moves : (t.hall.xp x).pos.Moves) : MovesSafely x t := by
  by_cases other : changesUnits c = false
  · obtain ⟨t', next', passes⟩ := exec_passes other s
    rw [exec_next_inj next next'] at moved moves ⊢
    exact passes.moves moved moves
  cases c with
  | powerUp =>
    rw [exec_next_inj next exec_powerUp] at moves ⊢
    exact poweredUp_moves moves
  | restore p =>
    exact (Host.Outcome.next.inj next ▸ request_changesUnit unitRule_changes :
      ChangesUnit p (· = .barred) s t).moves moved moves
  | takeOut p =>
    exact (Host.Outcome.next.inj next ▸ request_changesUnit takeOutRule_changes :
      ChangesUnit p (· ≠ .out) s t).moves moved moves
  | returnUnit p =>
    exact (Host.Outcome.next.inj next ▸ request_changesUnit unitRule_changes :
      ChangesUnit p (· = .out) s t).moves moved moves
  | _ => exact (other rfl).elim

/-- Settles O37. -/
theorem movesAreSentSafely : Obligations.MovesAreSentSafely := by
  refine ⟨fun e h g x step moved => ?_, fun e h n _ rf => if_pos rf, fun c s t x next moved moves => exec_moves c next moved moves⟩
  obtain ⟨n, picked, free, clear, rfl, rfl⟩ := moved_sent step moved
  obtain ⟨queued, ready⟩ := pickEntry_some picked
  obtain ⟨still, noRead, speaks⟩ := driveFree_iff.1 free
  refine ⟨n, queued, rfl, eligible_iff.1 ready, fun m hm w => pickEntry_first picked hm (eligible_iff.2 w), still, noRead,
    speaks, clear, rfl, ?_, fun y other => ?_, rfl, driveFrame_eq⟩
  · rw [sendMove_xp, if_pos rfl]
    rfl
  · rw [sendMove_xp, if_neg (Ne.symm other)]

end Sys2Proof.Machine
end

section
/-! PROOFS. SET TRANSMITTER (O42). -/

namespace Sys2Proof.Machine

variable {b s d t : State} {p : List Byte} {u v : Tx} {e : Env} {h g : Hall} {l : Link} {f : Bool}

/-! What a settling leaves of a context that holds nothing. -/

/-- The link record of an empty context is as it was after a settling. -/
theorem settle_emptyLink (w : h.Empty u) : (settle e h).links.get u = h.links.get u := by
  have kept := settle_keeps (e := e) (h := h) (P := fun g => g.Empty u ∧ g.links.get u = h.links.get u)
    (fun f g work ⟨empty, link⟩ => ⟨(work.empty u empty).1, (work.empty u empty).2.trans link⟩)
    (fun _ _ w => w) ⟨w, rfl⟩
  exact kept.2

theorem conclude_emptyLink (w : d.hall.Empty u) : (conclude b f d).hall.links.get u = d.hall.links.get u := by
  obtain same | same := conclude_hall (b := b) (f := f) (s := d)
  · rw [same]
    exact settle_emptyLink w
  · rw [same]
    exact settle_emptyLink w

/-! The rule (R145). -/

/-- The link record that SET TRANSMITTER leaves. -/
def linkSet (configured fields : Bool) (l : Link) : Link :=
  match configured, fields with
  | true, true => l
  | true, false => l.unconfigured
  | false, true => Link.powerUp
  | false, false => l

theorem storeTx_eq {cfg : Option TxCfg} : storeTx u cfg s = { s with
    env := { s.env with tables := { s.env.tables with tx := s.env.tables.tx.set u cfg } }
    hall := s.hall.modLink u (linkSet (s.env.txConfigured u) cfg.isSome) } := by
  unfold storeTx Env.txConfigured
  cases s.env.tables.tx.get u <;> cases cfg <;> rfl

theorem setTransmitterRule_field (w : 15 < byteAt p 0 ∨ 1 < byteAt p 1) : setTransmitterRule p s = refuse .field := by
  unfold setTransmitterRule
  obtain w | w := w
  · rw [below_eq_none w]
  · cases below 16 (byteAt p 0)
    · rfl
    · exact if_pos w

theorem setTransmitterRule_busy (hu : byteAt p 0 = u.val) (hk : byteAt p 1 ≤ 1) (busy : (s.hall.ctx.get u).state ≠ .idle) :
    setTransmitterRule p s = refuse .busy := by
  unfold setTransmitterRule
  rw [hu, below_fin]
  dsimp only
  rw [if_neg (by omega), if_pos busy]

theorem setTransmitterRule_none (hu : byteAt p 0 = u.val) (hk : byteAt p 1 = 0) (idle : (s.hall.ctx.get u).state = .idle) :
    setTransmitterRule p s = acceptEvent s true (storeTx u none s) fun _ => b1 0 := by
  unfold setTransmitterRule
  rw [hu, below_fin]
  dsimp only
  rw [if_neg (by omega), if_neg (not_not.2 idle), if_pos hk]

theorem setTransmitterRule_fields (hu : byteAt p 0 = u.val) (hk : byteAt p 1 = 1) (idle : (s.hall.ctx.get u).state = .idle) :
    setTransmitterRule p s = if (txFields p).clamp.bandHigh < (txFields p).clamp.bandLow then refuse .field
      else acceptEvent s true (storeTx u (some (txFields p).clamp) s) fun _ => b1 (txFields p).clamped := by
  unfold setTransmitterRule
  rw [hu, below_fin]
  dsimp only
  rw [if_neg (by omega), if_neg (not_not.2 idle), if_neg (by omega)]

/-- What SET TRANSMITTER leaves when its checks have passed: the entry, and the link records. -/
structure TransmitterSet (u : Tx) (cfg : Option TxCfg) (s t : State) : Prop where
  base : t.hall.base = s.hall.base
  tables : OnlyTables s t { s.env.tables with tx := s.env.tables.tx.set u cfg }
  own : LinkKept (linkSet (s.env.txConfigured u) cfg.isSome (s.hall.links.get u)) (t.hall.links.get u)
  empty : (s.hall.ctx.get u).held = .nothing →
    t.hall.links.get u = linkSet (s.env.txConfigured u) cfg.isSome (s.hall.links.get u)
  others : ∀ v : Tx, v ≠ u → LinkKept (s.hall.links.get v) (t.hall.links.get v)
  stuck : StuckKept s.hall t.hall

theorem storeTx_answers {cfg : Option TxCfg} {n : Nat} (w : Received s) (config : s.env.mode = .config)
    (hl : setTransmitterLength p = true) (idle : (s.hall.ctx.get u).state = .idle)
    (hr : setTransmitterRule p s = acceptEvent s true (storeTx u cfg s) fun _ => b1 n) :
    ∃ t, exec (.setTransmitter p) s = .next t ∧ AnswersOk s t (b1 n) ∧ TransmitterSet u cfg s t := by
  obtain ⟨t, next, hall, env, answers⟩ := concluded_answers (c := .setTransmitter p) w rfl hl (configMode_of config) hr rfl rfl
  have own : (storeTx u cfg s).hall.links.get u = linkSet (s.env.txConfigured u) cfg.isSome (s.hall.links.get u) := by
    rw [storeTx_eq, Hall.modLink_get, if_pos rfl]
  refine ⟨t, next, answers, ?_, ?_, ?_, fun empty => ?_, fun v other => ?_, fun x => ?_⟩
  · rw [hall, conclude_base]
    rfl
  · rw [OnlyTables, env]
    exact conclude_env ..
  · rw [← own, hall]
    exact conclude_link ..
  · rw [hall, ← own]
    exact conclude_emptyLink ⟨idle, empty⟩
  · have kept : LinkKept ((storeTx u cfg s).hall.links.get v) ((conclude s true (storeTx u cfg s)).hall.links.get v) :=
      conclude_link ..
    rw [← hall, storeTx_eq, Hall.modLink_get, if_neg (Ne.symm other)] at kept
    exact kept
  · rw [hall, conclude_stuck]
    rfl

theorem setTransmitter_refused {st : Status} (w : Received s) (config : s.env.mode = .config)
    (hr : setTransmitterRule p s = refuse st) (hl : setTransmitterLength p = true) :
    RefusedWith (.setTransmitter p) st s :=
  refused_rule w rfl hl (configMode_of config) hr

/-- Settles O42. -/
theorem transmitterTableIsSet : Obligations.TransmitterTableIsSet := by
  intro s p w
  have length : p.length = (if byteAt p 1 = 0 then 2 else 12) ↔ setTransmitterLength p = true := by
    simp [setTransmitterLength]
  refine ⟨fun hl => ?_, fun hl mode => ?_, fun config wrong => ?_, fun u config hu => ⟨fun layout busy => ?_,
    fun hl hk idle => ?_, fun hl hk idle => ?_⟩⟩
  · exact refused_badLength w rfl (Bool.eq_false_iff.2 fun ok => hl (length.2 ok))
  · exact refused_badMode w rfl (length.1 hl) (beq_eq_false_iff_ne.2 mode)
  · by_cases hl : setTransmitterLength p = true
    · exact setTransmitter_refused w config (setTransmitterRule_field wrong) hl
    · exact refused_badLength w rfl (eq_false_of_ne_true hl)
  · obtain ⟨hl, hk⟩ | ⟨hl, hk⟩ := layout
    · exact setTransmitter_refused w config (setTransmitterRule_busy hu (by omega) busy) (length.1 (by rw [hk, hl]; rfl))
    · exact setTransmitter_refused w config (setTransmitterRule_busy hu (by omega) busy) (length.1 (by rw [hk, hl]; rfl))
  · have rule := setTransmitterRule_fields (s := s) hu hk idle
    have hl := length.1 (by rw [hk, hl]; rfl)
    intro low high entry
    have stored : (txFields p).clamp = entry := by
      simp [txFields, TxCfg.clamp, clampTo, entry, low, high]
    rw [stored] at rule
    split
    · next band =>
      rw [if_pos band] at rule
      exact setTransmitter_refused w config rule hl
    · next band =>
      rw [if_neg band] at rule
      obtain ⟨t, next, answers, set⟩ := storeTx_answers w config hl idle rule
      refine ⟨t, next, set.base, set.tables, ?_, fun empty => ?_, set.others, set.stuck, ?_⟩
      · have own := set.own
        cases configured : s.env.txConfigured u <;> rw [configured] at own <;> exact own
      · rw [set.empty empty]
        cases s.env.txConfigured u <;> rfl
      · intro bit
        have clamped : (txFields p).clamped = bit entry.rating (wordAt p 2) 1 + bit low (wordAt p 4) 2 +
            bit high (wordAt p 6) 4 + bit entry.muteTime (byteAt p 8) 8 + bit entry.tuneBase (byteAt p 9) 16 +
            bit entry.tuneRate (byteAt p 10) 32 + bit entry.ramp (byteAt p 11) 64 := by
          unfold TxCfg.clamped
          dsimp only
          rw [stored]
          simp [bitSet, bne_toNat, bit, txFields, entry, ite_mul, Nat.add_assoc, eq_comm]
        rw [← clamped]
        exact answers
  · have rule := setTransmitterRule_none (s := s) hu hk idle
    obtain ⟨t, next, answers, set⟩ := storeTx_answers w config (length.1 (by rw [hk, hl]; rfl)) idle rule
    refine ⟨t, next, answers, set.base, set.tables, fun configured => ?_, fun empty => ?_, set.others, set.stuck⟩
    · have own := set.own
      rw [configured] at own
      exact ⟨own.2.2, own.2.1, own.1⟩
    · rw [set.empty empty]
      cases s.env.txConfigured u <;> rfl

end Sys2Proof.Machine
end

section
/-! SUPPORT. What a positioner reply, a missed reply and the GO timer leave of the positioner records, of the contexts
that asked for them and of the reports (R133 to R136). -/

namespace Sys2Proof.Machine

variable {e : Env} {h g k : Hall} {t u : Tx} {a b : Ant} {q : PosRequest} {c : AntCfg} {r : PosReply}

/-- Work on the positioner of an antenna: its own record, the position sub-tasks that are told, the reports. -/
structure Turns (a : Ant) (h g : Hall) : Prop where
  eq : g = { h with pos := g.pos, work := g.work, ctx := g.ctx, flags := g.flags }
  others : ∀ b, b ≠ a → g.pos.get b = h.pos.get b
  told : ∀ u, (h.ctx.get u).position = .done → (g.ctx.get u).position = .done
  work : ∀ m ∈ h.work, m ∈ g.work
  notice : ∀ n, h.noticeSet n = true → g.noticeSet n = true

namespace Turns

theorem refl (h : Hall) : Turns a h h := ⟨rfl, fun _ _ => rfl, fun _ => id, fun _ => id, fun _ => id⟩

theorem trans (i : Turns a h g) (j : Turns a g k) : Turns a h k where
  eq := by rw [j.eq, i.eq]
  others b hb := (j.others b hb).trans (i.others b hb)
  told u w := j.told u (i.told u w)
  work m w := j.work m (i.work m w)
  notice n w := j.notice n (i.notice n w)

theorem base (w : Turns a h g) : g.base = h.base := by rw [w.eq]; rfl

theorem xps (w : Turns a h g) : g.xps = h.xps := by rw [w.eq]

end Turns

theorem modPos_turns {f : PosRec → PosRec} : Turns a h (h.modPos a f) :=
  ⟨rfl, fun _ => modPos_other, fun _ => id, fun _ => id, fun _ => id⟩

theorem report_turns {m : Msg} : Turns a h (h.report m) :=
  ⟨rfl, fun _ _ => rfl, fun _ => id, fun _ => List.mem_append_left _, fun _ => id⟩

theorem tellPosDone_turns : Turns a h (tellPosDone t h) := by
  refine ⟨rfl, fun _ _ => rfl, fun u done => ?_, fun _ => id, fun _ => id⟩
  unfold tellPosDone
  rw [Hall.modCtx_get]
  split
  · next same =>
    subst same
    dsimp only
    split
    · rfl
    · exact done
  · exact done

theorem raiseNotice_turns {n : Notice} : Turns a h (raiseNotice n h) :=
  ⟨rfl, fun _ _ => rfl, fun _ => id, fun _ => id, fun m => noticeSet_raise _ _ m⟩

/-- Work that leaves the record of the antenna but for its stored request. -/
def RequestOnly (p p' : PosRec) : Prop := p' = { p with request := p'.request }

theorem refuseRequest_turns : Turns a h (refuseRequest a q h) := modPos_turns.trans report_turns

theorem refuseRequest_own : RequestOnly (h.pos.get a) ((refuseRequest a q h).pos.get a) := by
  show RequestOnly _ ((h.modPos a fun p => { p with request := none }).pos.get a)
  rw [modPos_self]
  rfl

theorem placeRequest_turns : Turns a h (placeRequest c a q h) ∧
    RequestOnly (h.pos.get a) ((placeRequest c a q h).pos.get a) := by
  have stored {o : PosRec → Option PosRequest} : Turns a h (h.modPos a fun p => { p with request := o p }) ∧
      RequestOnly (h.pos.get a) ((h.modPos a fun p => { p with request := o p }).pos.get a) :=
    ⟨modPos_turns, by rw [modPos_self]; rfl⟩
  unfold placeRequest
  dsimp only
  split
  · exact ⟨refuseRequest_turns, refuseRequest_own⟩
  · exact stored
  · exact stored
  · split
    · exact ⟨stored.1.trans tellPosDone_turns, stored.2⟩
    · split
      · exact ⟨refuseRequest_turns, refuseRequest_own⟩
      · exact stored

theorem retakeRequest_turns : Turns a h (retakeRequest e a h) ∧
    RequestOnly (h.pos.get a) ((retakeRequest e a h).pos.get a) := by
  unfold retakeRequest
  dsimp only
  split
  · exact ⟨.refl h, rfl⟩
  · exact ⟨refuseRequest_turns, refuseRequest_own⟩
  · split
    · exact placeRequest_turns
    · exact ⟨.refl h, rfl⟩

/-! A positioner becomes FAULT (R133, R136). -/

theorem tellGoFailed_turns {i : GoRec} : Turns a h (tellGoFailed i h) := by
  unfold tellGoFailed
  split
  · exact report_turns
  · exact .refl h

theorem tellGoFailed_pos {i : GoRec} : (tellGoFailed i h).pos = h.pos := by
  unfold tellGoFailed
  split <;> rfl

theorem tellGoFailed_told {i : GoRec} (asked : i.tx = some u) : .posFailed u ∈ (tellGoFailed i h).work := by
  unfold tellGoFailed
  rw [asked]
  exact List.mem_append_right _ (List.mem_singleton_self _)

theorem failGo_turns : Turns a h (failGo a h) ∧ (failGo a h).pos.get a = { h.pos.get a with go := none } := by
  unfold failGo
  split
  · refine ⟨modPos_turns.trans tellGoFailed_turns, ?_⟩
    rw [tellGoFailed_pos, modPos_self]
  · next none =>
    refine ⟨.refl h, ?_⟩
    rw [← none]

theorem failGo_told {i : GoRec} (go : (h.pos.get a).go = some i) (asked : i.tx = some u) :
    .posFailed u ∈ (failGo a h).work := by
  unfold failGo
  rw [go]
  exact tellGoFailed_told asked

/-- The record of a positioner that has become FAULT, but for its request. -/
def PosRec.faulty (p : PosRec) : PosRec := { p with state := .fault, go := none }

/-- A positioner has become FAULT: its record, the notice, the report to the requester of its GO (R133, R136). -/
structure Faulted (a : Ant) (h g : Hall) : Prop where
  turns : Turns a h g
  own : RequestOnly (h.pos.get a).faulty (g.pos.get a)
  raised : g.noticeSet .positionerFault = true
  told : ∀ (i : GoRec) (u : Tx), (h.pos.get a).go = some i → i.tx = some u → .posFailed u ∈ g.work

theorem positionerFault_faulted : Faulted a h (positionerFault e a h) := by
  have marked : Turns a h (raiseNotice .positionerFault (h.modPos a fun p => { p with state := .fault })) :=
    modPos_turns.trans raiseNotice_turns
  have own : (raiseNotice .positionerFault (h.modPos a fun p => { p with state := .fault })).pos.get a =
      { h.pos.get a with state := .fault } := modPos_self
  unfold positionerFault
  generalize hf : raiseNotice .positionerFault (h.modPos a fun p => { p with state := .fault }) = f at marked own
  obtain ⟨failed, gone⟩ := failGo_turns (a := a) (h := f)
  obtain ⟨taken, request⟩ := retakeRequest_turns (e := e) (a := a) (h := failGo a f)
  have raised : f.noticeSet .positionerFault = true := by rw [← hf]; exact noticeSet_raised ..
  refine ⟨marked.trans (failed.trans taken), ?_, taken.notice _ (failed.notice _ raised), fun i u go asked =>
    taken.work _ (failGo_told (by rw [own]; exact go) asked)⟩
  rw [gone, own] at request
  exact request

/-! The replies (R133, R136). -/

theorem Turns.start {f : PosRec → PosRec} (w : Turns a (h.modPos a f) g) : Turns a h g := modPos_turns.trans w

/-- A GO that completes (R136). -/
theorem completeGo_spec {i : GoRec} : Turns a h (completeGo e a i h) ∧
    RequestOnly { h.pos.get a with state := .idle, go := none } ((completeGo e a i h).pos.get a) ∧
    ∀ u, i.tx = some u → (h.ctx.get u).state = .preparing → (h.ctx.get u).position = .pending →
      ((completeGo e a i h).ctx.get u).position = .done := by
  have told {f : Hall} : Turns a f (match i.tx with
      | some t => tellPosDone t f
      | none => f) ∧ (match i.tx with
      | some t => tellPosDone t f
      | none => f).pos = f.pos := by
    split
    · exact ⟨tellPosDone_turns, rfl⟩
    · exact ⟨.refl f, rfl⟩
  unfold completeGo
  dsimp only
  obtain ⟨turns, pos⟩ := told (f := h.modPos a fun p => { p with state := .idle, go := none })
  obtain ⟨taken, request⟩ := retakeRequest_turns (e := e) (a := a) (h := match i.tx with
      | some t => tellPosDone t (h.modPos a fun p => { p with state := .idle, go := none })
      | none => h.modPos a fun p => { p with state := .idle, go := none })
  refine ⟨(modPos_turns.trans turns).trans taken, ?_, fun u asked preparing pending => taken.told u ?_⟩
  · rw [pos, modPos_self] at request
    exact request
  · rw [asked]
    dsimp only
    unfold tellPosDone
    rw [modCtx_self]
    exact if_pos ⟨preparing, pending⟩

theorem plainReply_spec {m : Motion} : Turns a h (plainReply e a m h) ∧
    ((plainReply e a m h).pos.get a).state = (if (h.pos.get a).state = .fault then .fault else match m with
      | .idle => .idle
      | .moving => .moving
      | .fault => .fault) ∧
    ((plainReply e a m h).pos.get a).azimuth = (h.pos.get a).azimuth ∧
    ((plainReply e a m h).pos.get a).tilt = (h.pos.get a).tilt ∧
    ((plainReply e a m h).pos.get a).missed = (h.pos.get a).missed ∧
    ((h.pos.get a).state ≠ .fault → m = .fault → (plainReply e a m h).noticeSet .positionerFault = true) := by
  have moved {s : PosState} {c : Prop} [Decidable c] {f : Hall} (hf : f = h.modPos a fun p => { p with state := s }) :
      Turns a h (if c then retakeRequest e a f else f) ∧
      RequestOnly { h.pos.get a with state := s } ((if c then retakeRequest e a f else f).pos.get a) := by
    subst hf
    obtain ⟨taken, request⟩ := retakeRequest_turns (e := e) (a := a) (h := h.modPos a fun p => { p with state := s })
    rw [modPos_self] at request
    split
    · exact ⟨taken.start, request⟩
    · exact ⟨modPos_turns, by rw [modPos_self]; rfl⟩
  unfold plainReply
  dsimp only
  by_cases fault : (h.pos.get a).state = .fault
  · rw [if_pos fault, if_pos fault]
    exact ⟨.refl h, fault, rfl, rfl, rfl, fun w => absurd fault w⟩
  · rw [if_neg fault, if_neg fault]
    cases m with
    | fault =>
      have faulted := positionerFault_faulted (e := e) (a := a) (h := h)
      have own : (positionerFault e a h).pos.get a = _ := faulted.own
      refine ⟨faulted.turns, ?_, ?_, ?_, ?_, fun _ _ => faulted.raised⟩ <;> rw [own] <;> rfl
    | moving =>
      obtain ⟨turns, own⟩ := moved (s := .moving) (c := (h.pos.get a).state = .unknown) rfl
      refine ⟨turns, ?_, ?_, ?_, ?_, nofun⟩ <;> dsimp only <;> rw [own]
    | idle =>
      obtain ⟨turns, own⟩ := moved (s := .idle)
        (c := (h.pos.get a).state ≠ .idle ∨ (h.pos.get a).request.any fun q => q.azimuth.isNone) rfl
      refine ⟨turns, ?_, ?_, ?_, ?_, nofun⟩ <;> dsimp only <;> rw [own]

end Sys2Proof.Machine
end

section
/-! PROOFS. The replies of the positioner link, its missed replies and the GO timer (O48). -/

namespace Sys2Proof.Machine

variable {s t d : State} {e : Env} {h g : Hall} {a b : Ant} {r : PosReply} {rest : List Ant} {f : Bool} {i : GoRec}

/-! What follows a reply: the event's end, the next poll, and the end of the second event (R133). -/

/-- Whether a GO is in force is not for a settling to change (R136). -/
theorem conclude_go {c : State} : ((conclude c f d).hall.pos.get a).go.isSome = (d.hall.pos.get a).go.isSome := by
  have kept : ((settle d.env d.hall).pos.get a).go.isSome = (d.hall.pos.get a).go.isSome :=
    settle_keeps (P := fun g => (g.pos.get a).go.isSome = (d.hall.pos.get a).go.isSome)
      (fun _ _ work w => (work.go a).trans w) (fun _ _ w => w) rfl
  obtain same | same := conclude_hall (b := c) (f := f) (s := d) <;> rw [same] <;> exact kept

/-- A positioner record with the same reported position and missed replies. -/
def SameReport (p p' : PosRec) : Prop := p'.azimuth = p.azimuth ∧ p'.tilt = p.tilt ∧ p'.missed = p.missed

theorem goNow_report {p : PosRec} (w : goNow e h a = some p) : SameReport (h.pos.get a) p := by
  unfold goNow at w
  dsimp only at w
  split at w
  · cases w
  · split at w
    · split at w <;> cases w
      exact ⟨rfl, rfl, rfl⟩
    · split at w
      · obtain ⟨g, -, rfl⟩ := Option.map_eq_some_iff.1 w
        exact ⟨rfl, rfl, rfl⟩
      · cases w
    · cases w

theorem sendPosPoll_report : SameReport (h.pos.get b) ((sendPosPoll e a h).pos.get b) := by
  by_cases own : b = a
  · subst own
    unfold sendPosPoll
    dsimp only
    split
    · exact ⟨rfl, rfl, rfl⟩
    · split
      · next goes =>
        split
        · dsimp only
          rw [modPos_self]
          exact goNow_report goes
        · exact ⟨rfl, rfl, rfl⟩
      · exact ⟨rfl, rfl, rfl⟩
  · rw [sendPosPoll_other own]
    exact ⟨rfl, rfl, rfl⟩

/-- The next poll of a cycle: the antennas that are left, its frame, the record of the one that is polled (R133, R135). -/
structure NextPoll (e : Env) (h g : Hall) : Prop where
  eq : g = { h with posPoll := h.posPoll.filter e.steers, posSent := g.posSent, pos := g.pos }
  report : ∀ b, SameReport (h.pos.get b) (g.pos.get b)
  others : ∀ b, b ∉ h.posPoll → g.pos.get b = h.pos.get b

theorem nextPosPoll_next : NextPoll e h (nextPosPoll e h) := by
  unfold nextPosPoll
  split
  · next none => exact ⟨by rw [none], fun _ => ⟨rfl, rfl, rfl⟩, fun _ _ => rfl⟩
  · next a l first =>
    refine ⟨?_, fun b => sendPosPoll_report, fun b hb => sendPosPoll_other ?_⟩
    · rw [first]
      exact sendPosPoll_eq
    · rintro rfl
      exact hb (List.mem_of_mem_filter (first ▸ List.mem_cons_self))

theorem NextPoll.kept (w : NextPoll e h g) : g.posPoll = h.posPoll.filter e.steers ∧ g.posCycle = h.posCycle ∧
    g.ages = h.ages ∧ g.xps = h.xps ∧ g.flags = h.flags := by
  rw [w.eq]
  exact ⟨rfl, rfl, rfl, rfl, rfl⟩

/-- What the end of a poll leaves of the state of which the reply's event has ended (R133). -/
structure PollEnded (a : Ant) (rest : List Ant) (d t : State) : Prop where
  port : t.port = d.port
  env : OnlyDue d t
  poll : t.hall.posPoll = rest.filter d.env.steers
  cycle : t.hall.posCycle = d.hall.posCycle
  ages : t.hall.ages = d.hall.ages
  stuck : StuckKept d.hall t.hall
  notice : ∀ n, d.hall.noticeSet n = true → t.hall.noticeSet n = true
  report : ∀ b, SameReport (d.hall.pos.get b) (t.hall.pos.get b)
  state : a ∉ rest → (t.hall.pos.get a).state = (d.hall.pos.get a).state
  go : a ∉ rest → (t.hall.pos.get a).go.isSome = (d.hall.pos.get a).go.isSome

theorem base_fields {h g : Hall} (w : g.base = h.base) : g.posPoll = h.posPoll ∧ g.posCycle = h.posCycle ∧ g.ages = h.ages :=
  ⟨congrArg Base.posPoll w, congrArg Base.posCycle w, congrArg Base.ages w⟩

theorem endPosPoll_ended (poll : d.hall.posPoll = a :: rest) : PollEnded a rest d (endPosPoll d) := by
  have next := nextPosPoll_next (e := d.env) (h := { d.hall with posPoll := d.hall.posPoll.tail })
  rw [poll, List.tail_cons] at next
  have ended : endPosPoll d = conclude d false { d with hall := nextPosPoll d.env { d.hall with posPoll := rest } } := by
    unfold endPosPoll
    rw [poll]
    rfl
  rw [ended]
  generalize nextPosPoll d.env { d.hall with posPoll := rest } = g at next
  obtain ⟨polls, cycle, ages⟩ := base_fields (conclude_base d { d with hall := g } false)
  obtain ⟨polls', cycle', ages', xps, flags⟩ := next.kept
  refine ⟨conclude_port .., ?_, ?_, ?_, ?_, fun x => ?_, fun n set => conclude_notice _ _ _ ?_, fun c => ?_, fun last => ?_,
    fun last => ?_⟩
  · rw [OnlyDue, conclude_env]
  · exact polls.trans polls'
  · exact cycle.trans cycle'
  · exact ages.trans ages'
  · rw [conclude_stuck]
    unfold Hall.xp
    rw [xps]
  · unfold Hall.noticeSet at set ⊢
    rw [flags]
    exact set
  · obtain ⟨-, azimuth, tilt, missed, -⟩ := conclude_pos d { d with hall := g } false c
    obtain ⟨azimuth', tilt', missed'⟩ := next.report c
    exact ⟨azimuth.trans azimuth', tilt.trans tilt', missed.trans missed'⟩
  · exact (conclude_pos d { d with hall := g } false a).1.trans (congrArg PosRec.state (next.others a last))
  · rw [conclude_go]
    exact congrArg (fun p : PosRec => p.go.isSome) (next.others a last)

/-- What a reply or a missed reply leaves when its work is `after` (R133). -/
structure ReplyTaken (a : Ant) (rest : List Ant) (s : State) (after : Hall) (t : State) : Prop where
  port : t.port = s.port
  env : OnlyDue s t
  poll : t.hall.posPoll = rest.filter s.env.steers
  cycle : t.hall.posCycle = s.hall.posCycle
  ages : t.hall.ages = s.hall.ages
  stuck : StuckKept s.hall t.hall
  notice : ∀ n, after.noticeSet n = true → t.hall.noticeSet n = true
  report : SameReport (after.pos.get a) (t.hall.pos.get a)
  state : a ∉ rest → (t.hall.pos.get a).state = (after.pos.get a).state
  go : a ∉ rest → (t.hall.pos.get a).go.isSome = (after.pos.get a).go.isSome

theorem replyTaken (poll : s.hall.posPoll = a :: rest) (w : Turns a s.hall g) :
    ReplyTaken a rest s g (endPosPoll (conclude s false { s with hall := g })) := by
  have base : (conclude s false { s with hall := g }).hall.base = s.hall.base := (conclude_base ..).trans w.base
  have env : (conclude s false { s with hall := g }).env = { s.env with due := (conclude s false { s with hall := g }).env.due } :=
    conclude_env ..
  have port : (conclude s false { s with hall := g }).port = s.port := conclude_port ..
  have pos := conclude_pos s { s with hall := g } false a
  have go := conclude_go (f := false) (c := s) (d := { s with hall := g }) (a := a)
  have stuck (x : Xp) : ((conclude s false { s with hall := g }).hall.xp x).stuck = (s.hall.xp x).stuck := by
    rw [conclude_stuck]
    unfold Hall.xp
    rw [w.xps]
  have notice (n : Notice) (set : g.noticeSet n = true) : (conclude s false { s with hall := g }).hall.noticeSet n = true :=
    conclude_notice _ _ _ set
  generalize conclude s false { s with hall := g } = d at base env port pos go stuck notice
  obtain ⟨polls, cycle, ages⟩ := base_fields base
  have steers : d.env.steers = s.env.steers := by rw [env]; rfl
  have ended := endPosPoll_ended (d := d) (polls.trans poll)
  generalize endPosPoll d = t at ended
  refine ⟨ended.port.trans port, ?_, ?_, ended.cycle.trans cycle, ended.ages.trans ages, fun x => (ended.stuck x).trans (stuck x),
    fun n set => ended.notice n (notice n set), ?_, fun last => (ended.state last).trans pos.1,
    fun last => (ended.go last).trans go⟩
  · have later := ended.env
    unfold OnlyDue at later ⊢
    rw [later, env]
  · rw [ended.poll, steers]
  · obtain ⟨azimuth, tilt, missed⟩ := ended.report a
    exact ⟨azimuth.trans pos.2.1, tilt.trans pos.2.2.1, missed.trans pos.2.2.2.1⟩

/-! A reply (R133, R136). -/

theorem posReplyOf_frame {m : Motion} {code azHi azLo tilt ack : Byte} (motion : motionOf code.toNat = some m)
    (small : azHi.toNat * 256 + azLo.toNat < 360) :
    posReplyOf (withCheck [BitVec.ofNat 8 a.val, code, azHi, azLo, tilt, ack]) =
      some ⟨a, m, azHi.toNat * 256 + azLo.toNat, tilt.toNat, ack.toNat⟩ := by
  have azimuth : takenAzimuth (azHi.toNat * 256 + azLo.toNat) = azHi.toNat * 256 + azLo.toNat := if_pos small
  unfold posReplyOf
  rw [show frameGood 7 _ = true from withCheck_good (l := [_, _, _, _, _, _]), if_pos rfl]
  simp only [withCheck, List.cons_append, byteAt_zero, byteAt_succ, wordAt, below_ofNat (by decide : 24 ≤ 256) a, motion,
    azimuth]

theorem positionerReply_taken (poll : s.hall.posPoll = a :: rest) (steers : s.env.steers a = true) {frame : List Byte}
    (reply : posReplyOf frame = some r) (own : r.ant = a) : exec (.positionerReply frame) s =
      .next (endPosPoll (conclude s false { s with hall := applyPosReply s.env r s.hall })) := by
  show execPositionerReply frame s = _
  unfold execPositionerReply
  rw [poll, reply]
  dsimp only
  rw [if_pos ⟨own, steers⟩]

theorem Faulted.state (w : Faulted a h g) : (g.pos.get a).state = .fault ∧ (g.pos.get a).go = none := by
  rw [w.own]
  exact ⟨rfl, rfl⟩

theorem Faulted.report (w : Faulted a h g) : SameReport (h.pos.get a) (g.pos.get a) := by
  rw [w.own]
  exact ⟨rfl, rfl, rfl⟩

/-- The hall that a reply has written its values in (R133). -/
def reported (r : PosReply) (h : Hall) : Hall := h.modPos r.ant (PosRec.report h.stopSent r)

theorem reported_own : (reported r h).pos.get r.ant = PosRec.report h.stopSent r (h.pos.get r.ant) := modPos_self

theorem reported_state : ((reported r h).pos.get r.ant).state = (h.pos.get r.ant).state := by
  rw [reported_own]
  rfl

theorem reported_values : SameReport { h.pos.get r.ant with azimuth := some r.azimuth, tilt := some r.tilt, missed := 0 }
    ((reported r h).pos.get r.ant) := by
  rw [reported_own]
  exact ⟨rfl, rfl, rfl⟩

theorem reported_go : ((reported r h).pos.get r.ant).go =
    (h.pos.get r.ant).go.map fun g => if r.ack = 1 then { g with outstanding := false } else g := by
  rw [reported_own]
  unfold PosRec.report
  dsimp only
  split <;> simp

theorem reported_turns : Turns r.ant h (reported r h) := modPos_turns

theorem SameReport.trans {p p' p'' : PosRec} (i : SameReport p p') (j : SameReport p' p'') : SameReport p p'' :=
  ⟨j.1.trans i.1, j.2.1.trans i.2.1, j.2.2.trans i.2.2⟩

/-- A reply by the GO in force (R133, R136). -/
theorem applyPosReply_eq : applyPosReply e r h =
    match ((reported r h).pos.get r.ant).go, r.motion with
    | none, m => plainReply e r.ant m (reported r h)
    | some _, .fault => positionerFault e r.ant (reported r h)
    | some _, .moving => reported r h
    | some g, .idle =>
      if g.outstanding then reported r h
      else if (e.tables.ant.get r.ant).any fun c => goReached c ((reported r h).pos.get r.ant) g then
        completeGo e r.ant g (reported r h)
      else positionerFault e r.ant (reported r h) := rfl

theorem applyPosReply_none (go : (h.pos.get r.ant).go = none) :
    applyPosReply e r h = plainReply e r.ant r.motion (reported r h) := by
  rw [applyPosReply_eq, reported_go, go]
  rfl

/-- The GO in force as a reply leaves it (R136). -/
def GoRec.answered (r : PosReply) (g : GoRec) : GoRec := if r.ack = 1 then { g with outstanding := false } else g

theorem applyPosReply_some (go : (h.pos.get r.ant).go = some i) : applyPosReply e r h =
    match r.motion with
    | .fault => positionerFault e r.ant (reported r h)
    | .moving => reported r h
    | .idle =>
      if (i.answered r).outstanding then reported r h
      else if (e.tables.ant.get r.ant).any fun c => goReached c ((reported r h).pos.get r.ant) (i.answered r) then
        completeGo e r.ant (i.answered r) (reported r h)
      else positionerFault e r.ant (reported r h) := by
  rw [applyPosReply_eq, reported_go, go]
  cases r.motion <;> rfl

theorem completeGo_report {g : GoRec} : SameReport (h.pos.get a) ((completeGo e a g h).pos.get a) := by
  have own : (completeGo e a g h).pos.get a = _ := completeGo_spec.2.1
  rw [own]
  exact ⟨rfl, rfl, rfl⟩

/-- What every reply of an antenna leaves (R133). -/
theorem applyPosReply_turns : Turns r.ant h (applyPosReply e r h) ∧
    SameReport ((reported r h).pos.get r.ant) ((applyPosReply e r h).pos.get r.ant) := by
  cases go : (h.pos.get r.ant).go with
  | none =>
    rw [applyPosReply_none go]
    obtain ⟨turns, -, azimuth, tilt, missed, -⟩ := plainReply_spec (e := e) (a := r.ant) (h := reported r h) (m := r.motion)
    exact ⟨reported_turns.trans turns, azimuth, tilt, missed⟩
  | some g =>
    have faulted := positionerFault_faulted (e := e) (a := r.ant) (h := reported r h)
    have ends := completeGo_spec (e := e) (a := r.ant) (h := reported r h) (i := g.answered r)
    rw [applyPosReply_some go]
    split
    · exact ⟨reported_turns.trans faulted.turns, faulted.report⟩
    · exact ⟨reported_turns, rfl, rfl, rfl⟩
    · split
      · exact ⟨reported_turns, rfl, rfl, rfl⟩
      · split
        · exact ⟨reported_turns.trans ends.1, completeGo_report⟩
        · exact ⟨reported_turns.trans faulted.turns, faulted.report⟩

/-- The GO stands at its target: within 1° and at the tilt (R136). -/
theorem goReached_iff {c : AntCfg} (steers : e.steers a = true) (cfg : e.tables.ant.get a = some c) {p : PosRec} {z w : Nat}
    (azimuth : p.azimuth = some z) (tilt : p.tilt = some w) :
    goReached c p i = true ↔ w = i.tilt ∧ angularDifference z i.azimuth ≤ 1 := by
  have kind : ∀ x y, c.kind ≠ .fixed x y := by
    intro x y fixed
    unfold Env.steers at steers
    rw [cfg, Option.map_some, fixed] at steers
    cases steers
  unfold goReached atTarget
  rw [azimuth, tilt]
  cases form : c.kind with
  | fixed x y => exact absurd form (kind x y)
  | slew => simp
  | rotatable => simp

theorem steers_some (steers : e.steers a = true) : ∃ c, e.tables.ant.get a = some c := by
  unfold Env.steers at steers
  cases cfg : e.tables.ant.get a with
  | none => rw [cfg] at steers; cases steers
  | some c => exact ⟨c, rfl⟩

/-- An acknowledged IDLE with a GO in force (R136). -/
theorem applyPosReply_idle (go : (h.pos.get r.ant).go = some i) (idle : r.motion = .idle)
    (acked : i.outstanding = false ∨ r.ack = 1) (steers : e.steers r.ant = true) :
    if r.tilt = i.tilt ∧ angularDifference r.azimuth i.azimuth ≤ 1 then
      ((applyPosReply e r h).pos.get r.ant).state = .idle ∧ ((applyPosReply e r h).pos.get r.ant).go = none ∧
      ∀ u : Tx, i.tx = some u → (h.ctx.get u).state = .preparing → (h.ctx.get u).position = .pending →
        ((applyPosReply e r h).ctx.get u).position = .done
    else Faulted r.ant (reported r h) (applyPosReply e r h) := by
  obtain ⟨c, cfg⟩ := steers_some steers
  have answered : (i.answered r).outstanding = false ∧ (i.answered r).tilt = i.tilt ∧ (i.answered r).azimuth = i.azimuth ∧
      (i.answered r).tx = i.tx := by
    unfold GoRec.answered
    split
    · exact ⟨rfl, rfl, rfl, rfl⟩
    · next other => exact ⟨acked.resolve_right other, rfl, rfl, rfl⟩
  obtain ⟨ended, tilt, azimuth, tx⟩ := answered
  obtain ⟨azimuth', tilt', -⟩ := reported_values (r := r) (h := h)
  have reached := goReached_iff (i := i.answered r) steers cfg azimuth' tilt'
  rw [tilt, azimuth] at reached
  rw [applyPosReply_some go, idle]
  dsimp only
  rw [ended, if_neg Bool.false_ne_true, cfg, Option.any_some]
  split
  · next at' =>
    rw [if_pos (reached.2 at')]
    obtain ⟨-, own, told⟩ := completeGo_spec (e := e) (a := r.ant) (h := reported r h) (i := i.answered r)
    refine ⟨?_, ?_, fun u asked => told u (tx.trans asked)⟩ <;> rw [own]
  · next off =>
    rw [if_neg fun w => off (reached.1 w)]
    exact positionerFault_faulted

/-! A missed reply and the timer (R133, R136). -/

theorem missPosReply_spec : Turns a h (missPosReply e a h) ∧
    ((missPosReply e a h).pos.get a).missed = min 3 ((h.pos.get a).missed + 1) ∧
    ((missPosReply e a h).pos.get a).azimuth = (h.pos.get a).azimuth ∧
    ((missPosReply e a h).pos.get a).tilt = (h.pos.get a).tilt ∧
    ((missPosReply e a h).pos.get a).state = (if 2 ≤ (h.pos.get a).missed then .fault else (h.pos.get a).state) ∧
    (2 ≤ (h.pos.get a).missed → (h.pos.get a).state ≠ .fault →
      (missPosReply e a h).noticeSet .positionerFault = true) := by
  have own : (h.modPos a fun p => { p with missed := min 3 ((h.pos.get a).missed + 1) }).pos.get a =
      { h.pos.get a with missed := min 3 ((h.pos.get a).missed + 1) } := modPos_self
  have third : min 3 ((h.pos.get a).missed + 1) = 3 ↔ 2 ≤ (h.pos.get a).missed := by omega
  unfold missPosReply
  dsimp only
  have counted : Turns a h (h.modPos a fun p => { p with missed := min 3 ((h.pos.get a).missed + 1) }) := modPos_turns
  generalize (h.modPos a fun p => { p with missed := min 3 ((h.pos.get a).missed + 1) }) = k at own counted
  rw [own]
  split
  · next faults =>
    have faulted := positionerFault_faulted (e := e) (a := a) (h := k)
    obtain ⟨azimuth, tilt, missed⟩ := faulted.report
    rw [own] at azimuth tilt missed
    exact ⟨counted.trans faulted.turns, missed, azimuth, tilt, faulted.state.1.trans (if_pos (third.1 faults.1)).symm,
      fun _ _ => faulted.raised⟩
  · next none =>
    refine ⟨counted, by rw [own], by rw [own], by rw [own], ?_, fun many other => absurd ⟨third.2 many, other⟩ none⟩
    rw [own]
    dsimp only
    split
    · next many => exact not_not.1 fun other => none ⟨third.2 many, other⟩
    · rfl

theorem positionerReplyMissed_taken (poll : s.hall.posPoll = a :: rest) (steers : s.env.steers a = true) :
    exec .positionerReplyMissed s = .next (endPosPoll (conclude s false { s with hall := missPosReply s.env a s.hall })) := by
  show execPositionerReplyMissed s = _
  unfold execPositionerReplyMissed
  rw [poll]
  dsimp only
  rw [if_pos steers]

theorem positionerTimer_taken (go : (s.hall.pos.get a).go = some i) : exec (.positionerTimerExpiry a) s =
    .next (conclude s false { s with env := passTo i.expiry s.env, hall := posTimeout (passTo i.expiry s.env) a s.hall }) := by
  show execPositionerTimerExpiry a s = _
  unfold execPositionerTimerExpiry
  rw [go]
  rfl

theorem posTimeout_faulted : Faulted a (h.modPos a fun p => { p with stopOutstanding := true }) (posTimeout e a h) :=
  positionerFault_faulted

theorem posTimeout_own : ((posTimeout e a h).pos.get a).stopOutstanding = true ∧
    ((posTimeout e a h).pos.get a).azimuth = (h.pos.get a).azimuth ∧
    ((posTimeout e a h).pos.get a).tilt = (h.pos.get a).tilt := by
  rw [posTimeout_faulted.own, modPos_self]
  exact ⟨rfl, rfl, rfl⟩

/-- The GO timer as O48 says it. -/
theorem positionerTimer_spec (go : (s.hall.pos.get a).go = some i) :
    ∃ t, exec (.positionerTimerExpiry a) s = .next t ∧ t.port = s.port ∧ OnlyTime s t ∧
      t.env.elapsed = max s.env.elapsed i.expiry ∧ t.hall.base = s.hall.base ∧ StuckKept s.hall t.hall ∧
      (t.hall.pos.get a).state = .fault ∧ (t.hall.pos.get a).stopOutstanding = true ∧
      (t.hall.pos.get a).azimuth = (s.hall.pos.get a).azimuth ∧ (t.hall.pos.get a).tilt = (s.hall.pos.get a).tilt ∧
      t.hall.noticeSet .positionerFault = true ∧ ∀ b : Ant, b ≠ a → PosKept (s.hall.pos.get b) (t.hall.pos.get b) := by
  have faulted := posTimeout_faulted (e := passTo i.expiry s.env) (a := a) (h := s.hall)
  have turns : Turns a s.hall (posTimeout (passTo i.expiry s.env) a s.hall) := faulted.turns.start
  obtain ⟨stop, azimuth, tilt⟩ := posTimeout_own (e := passTo i.expiry s.env) (a := a) (h := s.hall)
  have elapsed : (passTo i.expiry s.env).elapsed = max s.env.elapsed i.expiry := passTo_elapsed ..
  refine ⟨_, positionerTimer_taken go, conclude_port .., passTo_onlyTime, ?_, (conclude_base ..).trans turns.base,
    fun x => (conclude_stuck ..).trans ?_, ?_⟩
  · rw [conclude_env]
    exact elapsed
  · unfold Hall.xp
    dsimp only
    rw [turns.xps]
  generalize posTimeout (passTo i.expiry s.env) a s.hall = k at faulted turns stop azimuth tilt
  have pos (b : Ant) := conclude_pos s { s with env := passTo i.expiry s.env, hall := k } false b
  obtain ⟨state', azimuth', tilt', -, stop'⟩ := pos a
  refine ⟨state'.trans faulted.state.1, stop'.trans stop, azimuth'.trans azimuth, tilt'.trans tilt,
    conclude_notice _ _ _ faulted.raised, fun b other => ?_⟩
  have kept := posKept_of_same (pos b)
  dsimp only at kept
  rw [turns.others b other] at kept
  exact kept

/-! The clauses of a reply. -/

section reply

variable (w : ReplyTaken r.ant rest s (applyPosReply s.env r s.hall) t)
include w

theorem reply_report : SameReport { s.hall.pos.get r.ant with azimuth := some r.azimuth, tilt := some r.tilt, missed := 0 }
    (t.hall.pos.get r.ant) :=
  reported_values.trans (applyPosReply_turns.2.trans w.report)

theorem reply_faulted (faulted : Faulted r.ant (reported r s.hall) (applyPosReply s.env r s.hall)) (last : r.ant ∉ rest) :
    (t.hall.pos.get r.ant).state = .fault ∧ (t.hall.pos.get r.ant).go = none ∧
    t.hall.noticeSet .positionerFault = true := by
  have go := w.go last
  rw [faulted.state.2] at go
  exact ⟨(w.state last).trans faulted.state.1, Option.not_isSome_iff_eq_none.1 (ne_true_of_eq_false go),
    w.notice _ faulted.raised⟩

theorem reply_plain (go : (s.hall.pos.get r.ant).go = none) (last : r.ant ∉ rest) :
    (t.hall.pos.get r.ant).state = (if (s.hall.pos.get r.ant).state = .fault then .fault else match r.motion with
      | .idle => .idle
      | .moving => .moving
      | .fault => .fault) ∧
    ((s.hall.pos.get r.ant).state ≠ .fault → r.motion = .fault → t.hall.noticeSet .positionerFault = true) := by
  obtain ⟨-, state, -, -, -, raised⟩ := plainReply_spec (e := s.env) (a := r.ant) (m := r.motion) (h := reported r s.hall)
  rw [← applyPosReply_none go, reported_state] at state raised
  exact ⟨(w.state last).trans state, fun other fault => w.notice _ (raised other fault)⟩

theorem reply_fault (go : (s.hall.pos.get r.ant).go = some i) (fault : r.motion = .fault) (last : r.ant ∉ rest) :
    (t.hall.pos.get r.ant).state = .fault ∧ t.hall.noticeSet .positionerFault = true := by
  have faulted : Faulted r.ant (reported r s.hall) (applyPosReply s.env r s.hall) := by
    rw [applyPosReply_some go, fault]
    exact positionerFault_faulted
  obtain ⟨state, -, raised⟩ := reply_faulted w faulted last
  exact ⟨state, raised⟩

theorem reply_idle (go : (s.hall.pos.get r.ant).go = some i) (idle : r.motion = .idle)
    (acked : i.outstanding = false ∨ r.ack = 1) (steers : s.env.steers r.ant = true) (last : r.ant ∉ rest) :
    if r.tilt = i.tilt ∧ angularDifference r.azimuth i.azimuth ≤ 1 then
      (t.hall.pos.get r.ant).state = .idle ∧ (t.hall.pos.get r.ant).go = none ∧
      ∀ u : Tx, i.tx = some u → (s.hall.ctx.get u).state = .preparing → (s.hall.ctx.get u).position = .pending →
        ((applyPosReply s.env r s.hall).ctx.get u).position = .done
    else
      (t.hall.pos.get r.ant).state = .fault ∧ (t.hall.pos.get r.ant).go = none ∧
      t.hall.noticeSet .positionerFault = true ∧
      ∀ u : Tx, i.tx = some u → .posFailed u ∈ (applyPosReply s.env r s.hall).work := by
  have spec := applyPosReply_idle (e := s.env) go idle acked steers
  split at spec
  · next reached =>
    rw [if_pos reached]
    obtain ⟨state, gone, told⟩ := spec
    have left := w.go last
    rw [gone] at left
    exact ⟨(w.state last).trans state, Option.not_isSome_iff_eq_none.1 (ne_true_of_eq_false left), told⟩
  · next off =>
    rw [if_neg off]
    obtain ⟨state, gone, raised⟩ := reply_faulted w spec last
    refine ⟨state, gone, raised, fun u asked => spec.told (i.answered r) u ?_ ?_⟩
    · rw [reported_go, go]
      rfl
    · unfold GoRec.answered
      split <;> exact asked

theorem reply_still (go : (s.hall.pos.get r.ant).go = some i)
    (still : r.motion = .moving ∨ (r.motion = .idle ∧ i.outstanding = true ∧ r.ack ≠ 1)) (last : r.ant ∉ rest) :
    (t.hall.pos.get r.ant).state = (s.hall.pos.get r.ant).state ∧ (t.hall.pos.get r.ant).go.isSome = true := by
  have left : applyPosReply s.env r s.hall = reported r s.hall := by
    rw [applyPosReply_some go]
    obtain moving | ⟨idle, outstanding, unacked⟩ := still
    · rw [moving]
    · have answered : i.answered r = i := if_neg unacked
      rw [idle, answered]
      exact if_pos outstanding
  refine ⟨(w.state last).trans ?_, (w.go last).trans ?_⟩
  · rw [left]
    exact reported_state
  · rw [left, reported_go, go]
    rfl

end reply

/-- Settles O48. -/
theorem positionerRepliesAreTaken : Obligations.PositionerRepliesAreTaken := by
  intro s a
  refine ⟨fun rest m code azHi azLo tilt ack poll steers motion small => ?_, fun rest poll last steers => ?_,
    fun g go => positionerTimer_spec go⟩
  · have next := positionerReply_taken poll steers (posReplyOf_frame (a := a) (tilt := tilt) (ack := ack) motion small) rfl
    have w := replyTaken poll (applyPosReply_turns (e := s.env) (h := s.hall)
      (r := ⟨a, m, azHi.toNat * 256 + azLo.toNat, tilt.toNat, ack.toNat⟩)).1
    obtain ⟨azimuth, tilt', missed⟩ := reply_report (r := ⟨a, m, _, _, _⟩) w
    exact ⟨_, next, w.port, w.env, w.poll, w.cycle, w.ages, w.stuck, azimuth, tilt', missed,
      fun go last => reply_plain (r := ⟨a, m, _, _, _⟩) w go last,
      fun g go fault last => reply_fault (r := ⟨a, m, _, _, _⟩) w go fault last,
      fun g go idle acked last => ⟨⟨_, ⟨false, rfl, rfl⟩, rfl⟩, reply_idle (r := ⟨a, m, _, _, _⟩) w go idle
        (acked.imp_right (congrArg BitVec.toNat)) steers last⟩,
      fun g go still last => reply_still (r := ⟨a, m, _, _, _⟩) w go (still.imp_right fun ⟨idle, out, unacked⟩ =>
        ⟨idle, out, fun one => unacked (BitVec.eq_of_toNat_eq one)⟩) last⟩
  · obtain ⟨turns, missed, azimuth, tilt, state, raised⟩ := missPosReply_spec (e := s.env) (a := a) (h := s.hall)
    have taken := replyTaken poll turns
    obtain ⟨azimuth', tilt', missed'⟩ := taken.report
    exact ⟨_, positionerReplyMissed_taken poll steers, taken.port, taken.env, taken.poll, taken.cycle, taken.ages, taken.stuck,
      missed'.trans missed, azimuth'.trans azimuth, tilt'.trans tilt, (taken.state last).trans state,
      fun many other => taken.notice _ (raised many other)⟩

end Sys2Proof.Machine
end

section
/-! SUPPORT. What a telemetry reply or a missed one does beside the context it is read by, and the stop of a context
whose link leaves ACTIVE (R94, R149, R154). -/

namespace Sys2Proof.Machine

variable {e : Env} {h g k : Hall} {t u v : Tx} {r row : Row} {why : Reason} {n : QEntry}

/-! Work that leaves the links' telemetry, missed replies and states, the poll cycle and the ages. -/

structure LinkWork (h g : Hall) : Prop where
  link : ∀ v, LinkKept (h.links.get v) (g.links.get v)
  poll : g.hallPoll = h.hallPoll
  cycle : g.hallCycle = h.hallCycle
  ages : g.ages = h.ages
  notice : ∀ y, h.noticeSet y = true → g.noticeSet y = true

namespace LinkWork

theorem refl (h : Hall) : LinkWork h h := ⟨fun _ => ⟨rfl, rfl, rfl⟩, rfl, rfl, rfl, fun _ => id⟩

theorem trans (a : LinkWork h g) (b : LinkWork g k) : LinkWork h k where
  link v := ⟨(b.link v).1.trans (a.link v).1, (b.link v).2.1.trans (a.link v).2.1, (b.link v).2.2.trans (a.link v).2.2⟩
  poll := b.poll.trans a.poll
  cycle := b.cycle.trans a.cycle
  ages := b.ages.trans a.ages
  notice y w := b.notice y (a.notice y w)

theorem ite {c : Prop} [Decidable c] (a : LinkWork h g) (b : LinkWork h k) : LinkWork h (if c then g else k) := by
  split <;> assumption

theorem of_stays (works : ∀ P, Stays e P h → Stays e P g) : LinkWork h g where
  link v := (works _ ⟨link_stable v _, rfl, rfl, rfl⟩).holds
  poll := congrArg Base.hallPoll (works _ ⟨base_stable h.base, rfl⟩).holds
  cycle := congrArg Base.hallCycle (works _ ⟨base_stable h.base, rfl⟩).holds
  ages := congrArg Base.ages (works _ ⟨base_stable h.base, rfl⟩).holds
  notice y w := (works _ ⟨notice_stable y, w⟩).holds

/-- Work that leaves the links, the cycle and the ages. -/
theorem of_same (links : g.links = h.links) (poll : g.hallPoll = h.hallPoll) (cycle : g.hallCycle = h.hallCycle)
    (ages : g.ages = h.ages) (flags : g.flags = h.flags) : LinkWork h g :=
  ⟨fun v => by rw [links]; exact ⟨rfl, rfl, rfl⟩, poll, cycle, ages, fun y => by unfold Hall.noticeSet; rw [flags]; exact id⟩

end LinkWork

theorem setUnit_linkWork {w : HallUnit} {x : UnitRec} : LinkWork h (h.setUnit w x) := by
  cases w <;> exact .of_same rfl rfl rfl rfl rfl

theorem raiseNotice_linkWork {y : Notice} : LinkWork h (raiseNotice y h) :=
  ⟨fun _ => ⟨rfl, rfl, rfl⟩, rfl, rfl, rfl, fun z => noticeSet_raise h y z⟩

theorem modCtx_linkWork {f : Context → Context} : LinkWork h (h.modCtx t f) := .of_same rfl rfl rfl rfl rfl

theorem modPower_linkWork {f : Power → Power} : LinkWork h (h.modPower t f) := .of_same rfl rfl rfl rfl rfl

theorem bar_linkWork {w : HallUnit} {except : Option Tx} : LinkWork h (bar e w except h) :=
  setUnit_linkWork.trans (raiseNotice_linkWork.trans (.of_stays fun _ => strikeUnit_stays _ _ _))

theorem restate_linkWork {w : HallUnit} : LinkWork h (restate w h) := by
  unfold restate
  dsimp only
  split
  · exact .refl h
  · split
    · exact setUnit_linkWork.trans raiseNotice_linkWork
    · exact setUnit_linkWork

theorem addScore_linkWork {w : HallUnit} {i : Nat} {except : Option Tx} : LinkWork h (addScore e w i except h) := by
  unfold addScore
  dsimp only
  split
  · exact .refl h
  · exact .refl h
  · exact bar_linkWork
  all_goals
    split
    · exact bar_linkWork
    · exact setUnit_linkWork.trans restate_linkWork

/-- The points of a trip, by its cause and its row (R168). -/
def tripScored (e : Env) (t : Tx) (cause : TripCause) (row : Row) (h : Hall) : Hall :=
  let p := tripPoints cause (rowAnt row).isSome
  let h := if p.1 = 0 then h else addScore e (.tx t) p.1 (some t) h
  match rowAnt row with
  | some a => if p.2 = 0 then h else addScore e (.ant a) p.2 (some t) h
  | none => h

theorem scoreTrip_eq {cause : TripCause} :
    scoreTrip e t cause row h = tripScored e t cause row (raiseNotice .trip h) := rfl

theorem tripScored_linkWork {cause : TripCause} : LinkWork h (tripScored e t cause row h) := by
  unfold tripScored
  dsimp only
  have scored : LinkWork h (if (tripPoints cause (rowAnt row).isSome).1 = 0 then h
      else addScore e (.tx t) (tripPoints cause (rowAnt row).isSome).1 (some t) h) := .ite (.refl h) addScore_linkWork
  split
  · exact scored.trans (.ite (.refl _) addScore_linkWork)
  · exact scored

theorem scoreTrip_linkWork {cause : TripCause} : LinkWork h (scoreTrip e t cause row h) :=
  raiseNotice_linkWork.trans tripScored_linkWork

theorem takeTrip_linkWork {cause : TripCause} : LinkWork h (takeTrip e t cause h) := by
  cases held : (h.ctx.get t).heldRow with
  | none =>
    unfold takeTrip
    rw [held]
    exact .refl h
  | some row =>
    rw [takeTrip_eq held]
    exact (modCtx_linkWork.trans (.of_stays fun _ => dropPermit_stays _)).trans
      (scoreTrip_linkWork.trans (.of_stays fun _ => decideTrip_stays _ _ _))

theorem tuneFailure_linkWork : LinkWork h (tuneFailure e t h) := by
  unfold tuneFailure
  dsimp only
  split
  · exact .refl h
  · split
    · exact modCtx_linkWork.trans (.of_stays (e := e) fun _ => handPreset_stays _ _)
    · exact ((modCtx_linkWork.trans addScore_linkWork).trans (.of_stays (e := e) fun _ => decideOutcome_stays _ _ _ _)).trans
        (.of_stays fun _ => unwind_stays _)

theorem modRecord_linkWork {i : Handle} {f : Record → Record} : LinkWork h (h.modRecord i f) := by
  rw [modRecord_eq]
  exact .of_same rfl rfl rfl rfl rfl

theorem store_linkWork {held : Held} {d : Nat} : LinkWork h (store e t held d h) := by
  have set : LinkWork h (h.setCtx t { Context.idle with state := (h.ctx.get t).state, held := held }) :=
    .of_same rfl rfl rfl rfl rfl
  exact set.trans (.of_stays fun _ w => ceiling_stays _ (freshFoldback_stays _ (yieldColumn_stays _ w)))

theorem storeOccurrence_linkWork {i : Handle} {start finish : Nat} :
    LinkWork h (storeOccurrence e t i start finish row h) := by
  unfold storeOccurrence
  split
  · exact .refl h
  · exact modRecord_linkWork.trans store_linkWork

theorem finishEnding_linkWork : LinkWork h (finishEnding e t h) := by
  unfold finishEnding
  split
  · exact .of_stays fun _ => finishIdle_stays _
  · exact (LinkWork.of_stays fun _ => finishIdle_stays t).trans
      (storeOccurrence_linkWork.trans (.of_stays fun _ => enterPreparing_stays _))

theorem contextReply_linkWork {m : Telemetry} : LinkWork h (contextReply e t m h) := by
  have tuned : LinkWork h (tuneReply e t m h) := by
    unfold tuneReply
    dsimp only
    split
    · exact .ite tuneFailure_linkWork (.ite modCtx_linkWork (.refl h))
    · exact .refl h
  unfold contextReply
  dsimp only
  split
  · exact .ite (.of_stays fun _ => enterPreparing_stays _) (.refl h)
  · exact tuned
  · exact takeTrip_linkWork
  · exact .ite (.of_stays fun _ => enterOnAir_stays _) (.refl h)
  · exact takeTrip_linkWork
  · exact .ite finishEnding_linkWork (.refl h)
  all_goals exact .refl h

theorem reflect_linkWork {m : Telemetry} : LinkWork h (reflect e t m h) := by
  unfold reflect
  dsimp only
  split
  · split
    · split
      · exact (modPower_linkWork.trans raiseNotice_linkWork).trans modPower_linkWork
      · exact modPower_linkWork.trans modPower_linkWork
    · split
      · exact modPower_linkWork.trans raiseNotice_linkWork
      · exact modPower_linkWork
  · exact .refl h

theorem linkStop_linkWork : LinkWork h (linkStop e t why h) := .of_stays fun _ => linkStop_stays _ _

/-! A link that leaves ACTIVE stops its context (R94). -/

/-- What a context that is stopped decides. -/
def Context.stoppedBy (c : Context) (why : Reason) (now : Nat) : Decided :=
  { outcome := if c.wentOnAir then .cut else .missed, reason := some why, ended := now }

/-- The hall before a context that is stopped becomes IDLE. -/
def stopGiven (e : Env) (t : Tx) (why : Reason) (h : Hall) : Hall :=
  if (h.ctx.get t).state = .ending then dropPermit e t (dropKept e t .missed why h)
  else withdrawPosition t (dropPermit e t (endRun t (.failed why) (decideOutcome t
    ((h.ctx.get t).stoppedBy why e.now).outcome (some why) e.now h)))

theorem linkStop_resting (resting : (h.ctx.get t).state = .idle ∨ (h.ctx.get t).state = .halted) :
    linkStop e t why h = h := by
  unfold linkStop
  dsimp only
  obtain state | state := resting <;> rw [state]

theorem linkStop_ends (idle : (h.ctx.get t).state ≠ .idle) (halted : (h.ctx.get t).state ≠ .halted) :
    linkStop e t why h = finishIdle e t (stopGiven e t why h) := by
  unfold linkStop stopGiven Context.stoppedBy
  dsimp only
  cases state : (h.ctx.get t).state with
  | idle => exact absurd state idle
  | halted => exact absurd state halted
  | ending => rw [if_pos rfl]
  | muting | preparing | standing | ramping | onAir | restrike => simp only [reduceCtorEq, ↓reduceIte]

theorem stopGiven_dropped : ((stopGiven e t why h).gates.get t).Dropped := by
  unfold stopGiven
  split <;> exact dropPermit_dropped

theorem stopGiven_matrix : (stopGiven e t why h).rows = h.rows ∧ (stopGiven e t why h).queue = h.queue ∧
    (stopGiven e t why h).claims = h.claims := by
  unfold stopGiven
  split
  · have kept := dropKept_eq (e := e) (t := t) (h := h) .missed why
    refine ⟨?_, ?_, ?_⟩
    · show (dropKept e t .missed why h).rows = h.rows
      rw [kept]
    · show (dropKept e t .missed why h).queue = h.queue
      rw [kept]
    · show (dropKept e t .missed why h).claims = h.claims
      rw [kept]
  · exact ⟨rfl, rfl, rfl⟩

theorem linkStop_idle (idle : (h.ctx.get t).state ≠ .idle) (halted : (h.ctx.get t).state ≠ .halted) :
    (linkStop e t why h).ctx.get t = Context.idle ∧ ((linkStop e t why h).gates.get t).Dropped := by
  rw [linkStop_ends idle halted]
  exact ⟨finishIdle_self, by rw [finishIdle_gates]; exact stopGiven_dropped⟩

theorem working_states {c : CtxState} (w : c.working = true) : c ≠ .idle ∧ c ≠ .halted ∧ c ≠ .ending := by
  refine ⟨?_, ?_, ?_⟩ <;> rintro rfl <;> cases w

/-- A context stopped at work (R94, R177). -/
theorem linkStop_working (working : (h.ctx.get t).state.working = true) :
    (∀ o : Occ, (h.ctx.get t).held = .occurrence o → (linkStop e t why h).lastOutcome.get t =
      some ⟨o.handle, outcomeOf ((h.ctx.get t).stoppedBy why e.now) o.start o.finish (h.ctx.get t).lateSeconds
        (h.ctx.get t).wentOnAir⟩) ∧
    ∀ row : Row, (h.ctx.get t).held = .proving row → (linkStop e t why h).lastOutcome.get t = h.lastOutcome.get t ∧
      (linkStop e t why h).runs.get t = (h.runs.get t).ended (.failed why) := by
  obtain ⟨idle, halted, ending⟩ := working_states working
  have given : stopGiven e t why h = withdrawPosition t (dropPermit e t (endRun t (.failed why) (decideOutcome t
      ((h.ctx.get t).stoppedBy why e.now).outcome (some why) e.now h))) := if_neg ending
  rw [linkStop_ends idle halted]
  refine ⟨fun o held => ?_, fun row held => ⟨?_, ?_⟩⟩
  · have own : (stopGiven e t why h).ctx.get t = { h.ctx.get t with decided := some ((h.ctx.get t).stoppedBy why e.now) } := by
      rw [given]
      exact decideOutcome_self held
    have occ : ((stopGiven e t why h).ctx.get t).occ = some o := by
      rw [own]
      unfold Context.occ
      dsimp only
      rw [held]
    rw [finishIdle_last_of occ (by rw [own]), own]
    rfl
  · have own : ((stopGiven e t why h).ctx.get t).occ = none := by
      rw [given]
      show ((decideOutcome t _ _ e.now h).ctx.get t).occ = none
      rw [decideOutcome_idle (by rw [Context.occ, held]), Context.occ, held]
    rw [finishIdle_last_none own, given]
    rfl
  · rw [finishIdle_runs, given]
    exact endRun_self

theorem linkStop_ending {o : Occ} {d : Decided} (ending : (h.ctx.get t).state = .ending)
    (held : (h.ctx.get t).held = .occurrence o) (decided : (h.ctx.get t).decided = some d) :
    (linkStop e t why h).lastOutcome.get t =
      some ⟨o.handle, outcomeOf d o.start o.finish (h.ctx.get t).lateSeconds (h.ctx.get t).wentOnAir⟩ ∧
    ∀ (y : Kept) (r : Record), (h.ctx.get t).kept = some y → y.handle.place ≠ o.handle.place →
      h.recordOf y.handle = some r → r.state ≠ .retiring →
      ∃ r', (linkStop e t why h).recordOf y.handle = some r' ∧
        r'.last = some { outcome := .missed, reason := some why, start := y.start, late := 0, early := 0 } := by
  have given : stopGiven e t why h = dropPermit e t (dropKept e t .missed why h) := if_pos ending
  have own : (stopGiven e t why h).ctx.get t =
      { h.ctx.get t with kept := ((dropKept e t .missed why h).ctx.get t).kept } := by
    rw [given]
    exact dropKept_scored.own
  have occ : ((stopGiven e t why h).ctx.get t).occ = some o := by
    rw [own]
    unfold Context.occ
    dsimp only
    rw [held]
  rw [linkStop_ends (by rw [ending]; nofun) (by rw [ending]; nofun)]
  refine ⟨?_, fun y r kept apart hr alive => ?_⟩
  · rw [finishIdle_last_of occ (by rw [own]; exact decided), own]
    rfl
  · obtain ⟨r', holds, last, -⟩ := dropKept_shows (e := e) (x := .missed) (w := why) kept
      ⟨r, holds_of_recordOf hr, rfl, alive⟩
    refine ⟨r', Hall.Holds.record ?_, last⟩
    unfold Hall.Holds
    rw [finishIdle_slot_other fun x hx => ?_, given]
    · exact holds
    · rw [occ] at hx
      cases hx
      exact Ne.symm apart

end Sys2Proof.Machine
end

section
/-! PROOFS. Telemetry replies and missed replies (O46). -/

namespace Sys2Proof.Machine

variable {s t d : State} {e : Env} {h g k : Hall} {u v : Tx} {r p : Row} {why : Reason} {f : TelemetryFrame} {l : Link}
  {rest : List Tx}

/-! The row of a context that is stopped (R94, R107). -/

theorem withdrawEntry_rows {n : QEntry} : (withdrawEntry e u h n).rows = h.rows := by
  unfold withdrawEntry
  dsimp only
  (repeat' split) <;> rfl

/-- Settling a row leaves every other row its reservation (R108). -/
theorem settleRow_res_other (other : p ≠ r) : (settleRow r h).res p = h.res p := by
  unfold settleRow
  split
  · rfl
  · unfold Hall.res
    rw [reportRow_rows]
    exact setRes_other other

/-- What a transmitter withdraws leaves the rows of which no operation is queued (R108). -/
theorem withdrawOps_res (calm : ∀ n ∈ h.queue, n.xp.row ≠ r) : (withdrawOps e u h).res r = h.res r := by
  have withdrawn (l : List QEntry) (g : Hall) : (l.foldl (withdrawEntry e u) g).res r = g.res r := by
    induction l generalizing g with
    | nil => rfl
    | cons n l ih => exact (ih _).trans (by unfold Hall.res; rw [withdrawEntry_rows])
  have settled (l : List QEntry) (hl : ∀ n ∈ l, n.xp.row ≠ r) (g : Hall) :
      (l.foldl (fun g n => settleRow n.xp.row g) g).res r = g.res r := by
    induction l generalizing g with
    | nil => rfl
    | cons n l ih =>
      exact (ih (fun m hm => hl m (List.mem_cons_of_mem _ hm)) _).trans
        (settleRow_res_other (hl n List.mem_cons_self).symm)
  exact (settled _ (fun n hn => calm n (List.mem_of_mem_filter hn)) _).trans (withdrawn _ _)

/-- The one row CONNECTED to a transmitter is parked (R107). -/
theorem park_connected (connected : h.res r = .connected u) (only : ∀ q, q ≠ r → h.res q ≠ .connected u) :
    park u h = reportRow r ((h.setRes r (.parked u)).setClaim u none) := by
  unfold park
  cases found : (allFin 26).find? (fun r => h.res r == .connected u) with
  | none => exact absurd (List.find?_eq_none.1 found r (List.mem_finRange r)) (by simp [connected])
  | some q =>
    have holds : h.res q = .connected u := by simpa using List.find?_some found
    obtain rfl : q = r := by
      by_contra other
      exact only q other holds
    rfl

theorem releasePath_parks (connected : h.res r = .connected u) (only : ∀ q, q ≠ r → h.res q ≠ .connected u)
    (calm : ∀ n ∈ h.queue, n.xp.row ≠ r) : (releasePath e u h).res r = .parked u := by
  unfold releasePath
  rw [park_connected connected only]
  have queue : (reportRow r ((h.setRes r (.parked u)).setClaim u none)).queue = h.queue := reportRow_queue
  have claim : (reportRow r ((h.setRes r (.parked u)).setClaim u none)).claims.get u = none := by
    rw [reportRow_claims, Hall.setClaim_get, if_pos rfl]
  have res : (reportRow r ((h.setRes r (.parked u)).setClaim u none)).res r = .parked u := by
    unfold Hall.res
    rw [reportRow_rows]
    exact setRes_self
  generalize reportRow r ((h.setRes r (.parked u)).setClaim u none) = g at queue claim res
  unfold withdrawClaim
  rw [claim]
  exact (withdrawOps_res (queue ▸ calm)).trans res

theorem finishIdle_rows : (finishIdle e u h).rows = (releasePath e u h).rows := by rw [finishIdle_eq]

/-! The stop of a context as O46 says it. -/

/-- What O46 says of the hall after a context was stopped. -/
structure Quits (now : Nat) (u : Tx) (why : Reason) (h g : Hall) : Prop where
  resting : (h.ctx.get u).state = .idle ∨ (h.ctx.get u).state = .halted →
    g.ctx.get u = h.ctx.get u ∧ g.lastOutcome.get u = h.lastOutcome.get u
  gone : (h.ctx.get u).state ≠ .idle → (h.ctx.get u).state ≠ .halted →
    g.ctx.get u = Context.idle ∧ (g.gates.get u).request = false ∧ (g.gates.get u).line = false ∧
    ∀ r : Row, h.res r = .connected u → (∀ q : Row, q ≠ r → h.res q ≠ .connected u) →
      (∀ n ∈ h.queue, n.xp.row ≠ r) → g.res r = .parked u
  working : (h.ctx.get u).state.working = true →
    (∀ o : Occ, (h.ctx.get u).held = .occurrence o → g.lastOutcome.get u = some
      { handle := o.handle
        last := outcomeOf ((h.ctx.get u).stoppedBy why now) o.start o.finish (h.ctx.get u).lateSeconds
          (h.ctx.get u).wentOnAir }) ∧
    ∀ row : Row, (h.ctx.get u).held = .proving row → g.lastOutcome.get u = h.lastOutcome.get u ∧
      g.runs.get u = (h.runs.get u).ended (.failed why)
  ending : (h.ctx.get u).state = .ending → ∀ (o : Occ) (m : Decided), (h.ctx.get u).held = .occurrence o →
    (h.ctx.get u).decided = some m →
    g.lastOutcome.get u = some
      { handle := o.handle
        last := outcomeOf m o.start o.finish (h.ctx.get u).lateSeconds (h.ctx.get u).wentOnAir } ∧
    ∀ (x : Kept) (r : Record), (h.ctx.get u).kept = some x → x.handle.place ≠ o.handle.place →
      h.recordOf x.handle = some r → r.state ≠ .retiring →
      ∃ r' : Record, g.recordOf x.handle = some r' ∧
        r'.last = some { outcome := .missed, reason := some why, start := x.start, late := 0, early := 0 }

theorem linkStop_quits : Quits e.now u why h (linkStop e u why h) where
  resting w := by
    rw [linkStop_resting w]
    exact ⟨rfl, rfl⟩
  gone idle halted := by
    obtain ⟨own, dropped⟩ := linkStop_idle (e := e) (why := why) idle halted
    refine ⟨own, dropped.1, dropped.2, fun r connected only calm => ?_⟩
    obtain ⟨rows, queue, -⟩ := stopGiven_matrix (e := e) (t := u) (why := why) (h := h)
    have same (q : Row) : (stopGiven e u why h).res q = h.res q := by
      unfold Hall.res
      rw [rows]
    rw [linkStop_ends idle halted]
    unfold Hall.res
    rw [finishIdle_rows]
    exact releasePath_parks ((same r).trans connected) (fun q hq => by rw [same]; exact only q hq) (by rw [queue]; exact calm)
  working := linkStop_working
  ending w _ _ := linkStop_ending w

/-- The stop after work that leaves the contexts, the rows and the records. -/
theorem Quits.start {now : Nat} (q : Quits now u why k g) (ctx : k.ctx = h.ctx) (last : k.lastOutcome = h.lastOutcome)
    (rows : k.rows = h.rows) (queue : k.queue = h.queue) (runs : k.runs = h.runs) (slots : k.slots = h.slots) :
    Quits now u why h g := by
  obtain ⟨resting, gone, working, ending⟩ := q
  unfold Hall.res at gone
  unfold Hall.recordOf Hall.recordAt at ending
  rw [ctx] at resting gone working ending
  rw [last] at resting working
  rw [rows, queue] at gone
  rw [runs] at working
  rw [slots] at ending
  exact ⟨resting, gone, working, ending⟩

/-! What a reply or a missed reply leaves of the links (R149, R154). -/

/-- The link of the polled transmitter is `l`; the other links, the cycle and the ages stand. -/
structure Heard (u : Tx) (l : Link) (h g : Hall) : Prop where
  own : LinkKept l (g.links.get u)
  others : ∀ v, v ≠ u → LinkKept (h.links.get v) (g.links.get v)
  poll : g.hallPoll = h.hallPoll
  cycle : g.hallCycle = h.hallCycle
  ages : g.ages = h.ages

theorem LinkKept.trans {a b c : Link} (x : LinkKept a b) (y : LinkKept b c) : LinkKept a c :=
  ⟨y.1.trans x.1, y.2.1.trans x.2.1, y.2.2.trans x.2.2⟩

theorem Heard.reads {l' : Link} (a : Heard u l h g) (own : LinkKept l' (g.links.get u)) : Heard u l' h g :=
  { a with own := own }

theorem Heard.work (a : Heard u l h g) (b : LinkWork g k) : Heard u l h k where
  own := a.own.trans (b.link u)
  others v hv := (a.others v hv).trans (b.link v)
  poll := b.poll.trans a.poll
  cycle := b.cycle.trans a.cycle
  ages := b.ages.trans a.ages

theorem modLink_self {z : Link → Link} : (h.modLink u z).links.get u = z (h.links.get u) := by
  unfold Hall.modLink
  dsimp only
  rw [Tab.get_modify_same]

theorem modLink_other {z : Link → Link} (other : v ≠ u) : (h.modLink u z).links.get v = h.links.get v := by
  unfold Hall.modLink
  dsimp only
  rw [Tab.get_modify_ne _ _ (Ne.symm other)]

theorem Heard.modLink {z : Link → Link} (a : Heard u l h g) : Heard u (z (g.links.get u)) h (g.modLink u z) where
  own := by
    rw [modLink_self]
    exact ⟨rfl, rfl, rfl⟩
  others v hv := by
    rw [modLink_other hv]
    exact a.others v hv
  poll := a.poll
  cycle := a.cycle
  ages := a.ages

theorem Heard.start (u : Tx) (h : Hall) : Heard u (h.links.get u) h h :=
  ⟨⟨rfl, rfl, rfl⟩, fun _ _ => ⟨rfl, rfl, rfl⟩, rfl, rfl, rfl⟩

/-- What the end of a poll leaves (R147). -/
structure HallPollEnded (u : Tx) (rest : List Tx) (l : Link) (s : State) (after : Hall) (t : State) : Prop where
  port : t.port = s.port
  env : OnlyDue s t
  poll : t.hall.hallPoll = rest
  cycle : t.hall.hallCycle = s.hall.hallCycle
  ages : t.hall.ages = s.hall.ages
  own : LinkKept l (t.hall.links.get u)
  others : ∀ v, v ≠ u → LinkKept (s.hall.links.get v) (t.hall.links.get v)
  notice : ∀ n, after.noticeSet n = true → t.hall.noticeSet n = true

theorem hallPollEnded (poll : s.hall.hallPoll = u :: rest) (w : Heard u l s.hall g) :
    HallPollEnded u rest l s g (endHallPoll (conclude s false { s with hall := g })) := by
  have ends : Concludes s { s with hall := g } (conclude s false { s with hall := g }) := ⟨false, rfl, rfl⟩
  have port : (conclude s false { s with hall := g }).port = s.port := conclude_port ..
  have env : (conclude s false { s with hall := g }).env = { s.env with due := (conclude s false { s with hall := g }).env.due } :=
    conclude_env ..
  generalize conclude s false { s with hall := g } = d at ends port env
  have polls : d.hall.hallPoll = s.hall.hallPoll := (congrArg Base.hallPoll ends.base).trans w.poll
  have cycle : d.hall.hallCycle = s.hall.hallCycle := (congrArg Base.hallCycle ends.base).trans w.cycle
  have ages : d.hall.ages = s.hall.ages := (congrArg Base.ages ends.base).trans w.ages
  have ended : (endHallPoll d).hall = nextHallPoll { d.hall with hallPoll := rest } := by
    unfold endHallPoll
    rw [polls, poll]
    rfl
  have links (v : Tx) := (nextHallPoll_links (g := { d.hall with hallPoll := rest }) (u := v)).1
  have kept := nextHallPoll_eq (g := { d.hall with hallPoll := rest })
  rw [← ended] at links kept
  refine ⟨port, env, ?_, ?_, ?_, (w.own.trans (ends.link u)).trans (links u),
    fun v hv => ((w.others v hv).trans (ends.link v)).trans (links v), fun n set => ?_⟩
  · rw [kept]
  · rw [kept]
    exact cycle
  · rw [kept]
    exact ages
  · have later := ends.notice (y := n) set
    unfold Hall.noticeSet at later ⊢
    rw [kept]
    exact later

/-! A reply (R149, R155, R156). -/

/-- The hall that has taken a reply, before the link state moves. -/
def received (e : Env) (f : TelemetryFrame) (h : Hall) : Hall :=
  noteQuiet f.tx (telemetryAfter e (h.links.get f.tx).telemetry f) (h.modLink f.tx (Link.receive e f))

theorem received_eq : received e f h = { h with links := (received e f h).links, gates := (received e f h).gates } := by
  unfold received noteQuiet
  split <;> rfl

theorem noteQuiet_linkWork {m : Telemetry} : LinkWork h (noteQuiet u m h) := by
  unfold noteQuiet
  exact .ite (.of_same rfl rfl rfl rfl rfl) (.refl h)

theorem received_heard : Heard f.tx ((h.links.get f.tx).receive e f) h (received e f h) :=
  (Heard.start f.tx h).modLink.work noteQuiet_linkWork

theorem received_state : ((received e f h).links.get f.tx).state = (h.links.get f.tx).state := received_heard.own.2.2

/-- A reply read again gives the telemetry it gave (R149). -/
theorem telemetryAfter_again {old : Option Telemetry} :
    telemetryAfter e (some (telemetryAfter e old f)) f = telemetryAfter e old f := by
  unfold telemetryAfter tunedAfter
  split <;> rfl

/-- What follows the move of the link state (R151, R165). -/
theorem applyTelemetry_eq : applyTelemetry e f h =
    reflect e f.tx (telemetryAfter e (h.links.get f.tx).telemetry f)
      (if ((moveLink e f.tx f.report (received e f h)).links.get f.tx).state = .active then
        contextReply e f.tx (telemetryAfter e (h.links.get f.tx).telemetry f) (moveLink e f.tx f.report (received e f h))
      else moveLink e f.tx f.report (received e f h)) := by
  have read : telemetryAfter e ((h.modLink f.tx (Link.receive e f)).links.get f.tx).telemetry f =
      telemetryAfter e (h.links.get f.tx).telemetry f := by
    rw [modLink_self]
    exact telemetryAfter_again
  unfold applyTelemetry received
  dsimp only
  rw [read]

theorem applyTelemetry_linkWork : LinkWork (moveLink e f.tx f.report (received e f h)) (applyTelemetry e f h) := by
  rw [applyTelemetry_eq]
  exact (LinkWork.ite contextReply_linkWork (.refl _)).trans reflect_linkWork

/-- The link that has been told LOCAL (R155). -/
def Link.toLocal (l : Link) : Link := { l with state := .localCtl, pending := none }

/-- A link that moves to LOCAL (R94, R155). -/
theorem moveLink_toLocal (other : (h.links.get u).state ≠ .localCtl) : moveLink e u .localCtl h =
    if (h.links.get u).state = .active then linkStop e u .localCtl (raiseNotice .txLocal (h.modLink u Link.toLocal))
    else raiseNotice .txLocal (h.modLink u Link.toLocal) := by
  unfold moveLink
  dsimp only
  rw [if_pos rfl, if_neg other]
  rfl

theorem moveLink_stays (stays : (h.links.get u).state = .localCtl) : moveLink e u .localCtl h = h := by
  unfold moveLink
  dsimp only
  rw [if_pos rfl, if_pos stays]

theorem moveLink_active {m : TxReport} (hm : m ≠ .localCtl) :
    moveLink e u m h = h.modLink u fun l => { l with state := .active } := by
  unfold moveLink
  dsimp only
  rw [if_neg hm]

/-- The links after the move (R149, R155, R156). -/
theorem moveLink_heard : Heard f.tx { (h.links.get f.tx).receive e f with
      state := if f.report = .localCtl then .localCtl else .active } h (moveLink e f.tx f.report (received e f h)) ∧
    (f.report = .localCtl → (h.links.get f.tx).state ≠ .localCtl →
      (moveLink e f.tx f.report (received e f h)).noticeSet .txLocal = true) := by
  have heard := received_heard (e := e) (f := f) (h := h)
  have state := received_state (e := e) (f := f) (h := h)
  by_cases local' : f.report = .localCtl
  · rw [if_pos local', local']
    by_cases stays : (h.links.get f.tx).state = .localCtl
    · rw [moveLink_stays (state.trans stays)]
      exact ⟨heard.reads ⟨heard.own.1, heard.own.2.1, state.trans stays⟩, fun _ other => absurd stays other⟩
    · have told : Heard f.tx { (h.links.get f.tx).receive e f with state := .localCtl } h
          (raiseNotice .txLocal ((received e f h).modLink f.tx Link.toLocal)) :=
        (heard.modLink.work raiseNotice_linkWork).reads (by
          rw [raiseNotice_links, modLink_self]
          exact ⟨heard.own.1, heard.own.2.1, rfl⟩)
      have raised : (raiseNotice .txLocal ((received e f h).modLink f.tx Link.toLocal)).noticeSet .txLocal = true :=
        noticeSet_raised ..
      rw [moveLink_toLocal (by rw [state]; exact stays)]
      generalize raiseNotice .txLocal ((received e f h).modLink f.tx Link.toLocal) = g at told raised
      have stop : LinkWork g (if ((received e f h).links.get f.tx).state = .active then linkStop e f.tx .localCtl g else g) :=
        .ite linkStop_linkWork (.refl g)
      exact ⟨told.work stop, fun _ _ => stop.notice _ raised⟩
  · rw [if_neg local', moveLink_active local']
    refine ⟨heard.modLink.reads ?_, fun w => absurd w local'⟩
    rw [modLink_self]
    exact ⟨heard.own.1, heard.own.2.1, rfl⟩

theorem reflect_off {m : Telemetry} (off : (h.ctx.get u).state ≠ .onAir) : reflect e u m h = h := by
  unfold reflect
  dsimp only
  split
  · next air _ => exact absurd air off
  · rfl

/-- A reply LOCAL on an ACTIVE link stops the context (R94). -/
theorem applyTelemetry_stops (local' : f.report = .localCtl) (active : (h.links.get f.tx).state = .active) :
    Quits e.now f.tx .localCtl h (applyTelemetry e f h) := by
  have heard := (moveLink_heard (e := e) (f := f) (h := h)).1.own.2.2
  dsimp only at heard
  rw [if_pos local', local'] at heard
  have state := (received_state (e := e)).trans active
  rw [applyTelemetry_eq, local', if_neg (by rw [heard]; nofun)]
  clear heard
  rw [moveLink_toLocal (by rw [state]; nofun), if_pos state]
  have quits := linkStop_quits (e := e) (u := f.tx) (why := .localCtl)
    (h := raiseNotice .txLocal ((received e f h).modLink f.tx Link.toLocal))
  have same := received_eq (e := e) (f := f) (h := h)
  generalize received e f h = k at quits same
  have off : ((linkStop e f.tx .localCtl (raiseNotice .txLocal (k.modLink f.tx Link.toLocal))).ctx.get f.tx).state ≠
      .onAir := by
    by_cases idle : ((raiseNotice .txLocal (k.modLink f.tx Link.toLocal)).ctx.get f.tx).state = .idle
    · rw [(quits.resting (.inl idle)).1, idle]
      nofun
    · by_cases halted : ((raiseNotice .txLocal (k.modLink f.tx Link.toLocal)).ctx.get f.tx).state = .halted
      · rw [(quits.resting (.inr halted)).1, halted]
        nofun
      · rw [(quits.gone idle halted).1]
        nofun
  rw [reflect_off off]
  refine quits.start ?_ ?_ ?_ ?_ ?_ ?_ <;> rw [same] <;> rfl

/-! A missed reply (R154). -/

/-- The link that has become SILENT (R154). -/
def Link.toSilent (l : Link) : Link := { l with state := .silent, pending := none }

/-- The hall that has counted a missed reply (R154). -/
def missCounted (u : Tx) (h : Hall) : Hall := h.modLink u fun l => { l with missed := min 3 ((h.links.get u).missed + 1) }

theorem missTelemetry_third (third : 2 ≤ (h.links.get u).missed) (other : (h.links.get u).state ≠ .silent) :
    missTelemetry e u h = if (h.links.get u).state = .active then
        linkStop e u .silent (raiseNotice .txSilent ((missCounted u h).modLink u Link.toSilent))
      else raiseNotice .txSilent ((missCounted u h).modLink u Link.toSilent) := by
  unfold missTelemetry
  dsimp only
  rw [if_pos ⟨by omega, other⟩]
  rfl

theorem missTelemetry_counts (few : ¬(2 ≤ (h.links.get u).missed ∧ (h.links.get u).state ≠ .silent)) :
    missTelemetry e u h = missCounted u h := by
  unfold missTelemetry
  dsimp only
  rw [if_neg fun w => few ⟨by omega, w.2⟩]
  rfl

theorem missTelemetry_heard : Heard u { h.links.get u with
      missed := min 3 ((h.links.get u).missed + 1)
      state := if 2 ≤ (h.links.get u).missed then .silent else (h.links.get u).state } h (missTelemetry e u h) ∧
    (2 ≤ (h.links.get u).missed → (h.links.get u).state ≠ .silent → (missTelemetry e u h).noticeSet .txSilent = true) := by
  have counted : Heard u { h.links.get u with missed := min 3 ((h.links.get u).missed + 1) } h (missCounted u h) :=
    (Heard.start u h).modLink (z := fun l => { l with missed := min 3 ((h.links.get u).missed + 1) })
  by_cases third : 2 ≤ (h.links.get u).missed ∧ (h.links.get u).state ≠ .silent
  · rw [missTelemetry_third third.1 third.2, if_pos third.1]
    have told : Heard u { h.links.get u with missed := min 3 ((h.links.get u).missed + 1), state := .silent } h
        (raiseNotice .txSilent ((missCounted u h).modLink u Link.toSilent)) :=
      (counted.modLink.work raiseNotice_linkWork).reads (by
        rw [raiseNotice_links, modLink_self]
        exact ⟨counted.own.1, counted.own.2.1, rfl⟩)
    have raised : (raiseNotice .txSilent ((missCounted u h).modLink u Link.toSilent)).noticeSet .txSilent = true :=
      noticeSet_raised ..
    generalize raiseNotice .txSilent ((missCounted u h).modLink u Link.toSilent) = g at told raised
    have stop : LinkWork g (if (h.links.get u).state = .active then linkStop e u .silent g else g) :=
      .ite linkStop_linkWork (.refl g)
    exact ⟨told.work stop, fun _ _ => stop.notice _ raised⟩
  · rw [missTelemetry_counts third]
    refine ⟨counted.reads ⟨counted.own.1, counted.own.2.1, counted.own.2.2.trans ?_⟩,
      fun many other => absurd ⟨many, other⟩ third⟩
    dsimp only
    split
    · next many => exact not_not.1 fun other => third ⟨many, other⟩
    · rfl

theorem missTelemetry_stops (third : 2 ≤ (h.links.get u).missed) (active : (h.links.get u).state = .active) :
    Quits e.now u .silent h (missTelemetry e u h) := by
  rw [missTelemetry_third third (by rw [active]; nofun), if_pos active]
  exact linkStop_quits.start rfl rfl rfl rfl rfl rfl

theorem telemetryReply_taken (poll : s.hall.hallPoll = u :: rest) {frame : List Byte} (reply : telemetryOf frame = some f)
    (own : f.tx = u) : exec (.telemetryReply frame) s =
      .next (endHallPoll (conclude s false { s with hall := applyTelemetry s.env f s.hall })) := by
  show execTelemetryReply frame s = _
  unfold execTelemetryReply
  rw [poll, reply]
  dsimp only
  rw [if_pos own]

theorem telemetryReply_ignored (poll : s.hall.hallPoll = u :: rest) {frame : List Byte}
    (foreign : ∀ f, telemetryOf frame = some f → f.tx ≠ u) : exec (.telemetryReply frame) s = .next s := by
  show execTelemetryReply frame s = _
  unfold execTelemetryReply
  rw [poll]
  cases reply : telemetryOf frame with
  | none => rfl
  | some f =>
    dsimp only
    rw [if_neg (foreign f reply)]

theorem telemetryMissed_taken (poll : s.hall.hallPoll = u :: rest) : exec .telemetryMissed s =
    .next (endHallPoll (conclude s false { s with hall := missTelemetry s.env u s.hall })) := by
  show execTelemetryMissed s = _
  unfold execTelemetryMissed
  rw [poll]

/-- Settles O46: the replies and the missed replies of the hall link. -/
theorem telemetryIsTaken : Obligations.TelemetryIsTaken := by
  unfold Obligations.TelemetryIsTaken
  intro s u rest poll c stops
  have quits {why : Reason} {g : Hall} (q : Quits s.env.now u why s.hall g) :
      stops why (endHallPoll (conclude s false { s with hall := g })) :=
    ⟨_, g, rfl, ⟨false, rfl, rfl⟩, q.resting, q.gone, q.working, q.ending⟩
  refine ⟨fun frame f reply own => ?_, fun frame foreign => telemetryReply_ignored poll foreign, ?_⟩
  · subst own
    obtain ⟨heard, raised⟩ := moveLink_heard (e := s.env) (f := f) (h := s.hall)
    have work := applyTelemetry_linkWork (e := s.env) (f := f) (h := s.hall)
    have ended := hallPollEnded poll (heard.work work)
    refine ⟨_, telemetryReply_taken poll reply rfl, ended.port, ended.env, ended.poll, ended.cycle, ended.ages, ended.own.1,
      ended.own.2.1, ended.own.2.2, fun now other => ended.notice _ (work.notice _ (raised now other)),
      fun now active => quits (applyTelemetry_stops now active), ended.others⟩
  · obtain ⟨heard, raised⟩ := missTelemetry_heard (e := s.env) (u := u) (h := s.hall)
    have ended := hallPollEnded poll heard
    exact ⟨_, telemetryMissed_taken poll, ended.port, ended.env, ended.poll, ended.cycle, ended.ages, ended.own.1,
      ended.own.2.1, ended.own.2.2, fun many other => ended.notice _ (raised many other),
      fun many active => quits (missTelemetry_stops many active), ended.others⟩

end Sys2Proof.Machine
end

section
/-! SUPPORT. What a context makes of a reply that is no trip (R72 to R75, R80, R81, R84, R85). -/

namespace Sys2Proof.Machine

variable {e : Env} {h g : Hall} {t u v : Tx} {o : Occ} {row : Row} {m : Telemetry} {k : Kept} {r : Record}

/-! The context's rule, by its state. -/

theorem contextReply_muting (state : (h.ctx.get t).state = .muting) :
    contextReply e t m h = if m.quiet then enterPreparing e t h else h := by
  unfold contextReply
  dsimp only
  rw [state]

theorem contextReply_preparing (state : (h.ctx.get t).state = .preparing) : contextReply e t m h = tuneReply e t m h := by
  unfold contextReply
  dsimp only
  rw [state]

theorem contextReply_ending (state : (h.ctx.get t).state = .ending) :
    contextReply e t m h = if m.quiet then finishEnding e t h else h := by
  unfold contextReply
  dsimp only
  rw [state]

theorem contextReply_confirms (state : (h.ctx.get t).state = .ramping) (calm : m.report ≠ .tripped ∧ m.report ≠ .fault) :
    contextReply e t m h = if confirmed h t m then enterOnAir e t h else h := by
  have none : tripReport .ramping m = none := by
    obtain ⟨tripped, fault⟩ := calm
    unfold tripReport
    cases report : m.report <;> simp_all
  unfold contextReply
  dsimp only
  rw [state, none]

/-- A reply that is a trip (R82, R150). -/
theorem contextReply_trips {cause : TripCause} (state : (h.ctx.get t).state = .ramping ∨ (h.ctx.get t).state = .onAir)
    (trip : tripReport (h.ctx.get t).state m = some cause) : contextReply e t m h = takeTrip e t cause h := by
  unfold contextReply
  dsimp only
  obtain state | state := state <;> rw [state] at trip ⊢ <;> rw [trip]

theorem contextReply_rests (resting : (h.ctx.get t).state = .idle ∨ (h.ctx.get t).state = .standing ∨
    (h.ctx.get t).state = .restrike ∨ (h.ctx.get t).state = .halted) : contextReply e t m h = h := by
  unfold contextReply
  dsimp only
  obtain state | state | state | state := resting <;> rw [state]

theorem contextReply_onAir (state : (h.ctx.get t).state = .onAir) (none : tripReport .onAir m = none) :
    contextReply e t m h = h := by
  unfold contextReply
  dsimp only
  rw [state, none]

/-! PREPARING is entered for an occurrence (R73, R74). -/

theorem enterPreparing_occurrence (held : (h.ctx.get t).held = .occurrence o) : enterPreparing e t h =
    claim e ⟨t, o.start⟩ o.row (beginTune e t o (h.modCtx t
      (Context.preparing (positionNeed e h o.row o.azimuth o.tilt)))) := by
  unfold enterPreparing
  rw [held]
  rfl

/-- The timer of a tune sub-task that begins (R69). -/
def tuneTimer (e : Env) (t : Tx) (o : Occ) (h : Hall) : Timer :=
  timerOf e .tuning ((e.txFigures t).tuneTime (tuningFrom h t) o.freq + 60)

/-- The context as it has entered PREPARING, but for what its claim tells it. -/
theorem enterPreparing_prepares (held : (h.ctx.get t).held = .occurrence o) :
    (enterPreparing e t h).ctx.get t = { (h.ctx.get t).preparing (positionNeed e h o.row o.azimuth o.tilt) with
      timer := some (tuneTimer e t o h), claimWaiting := ((enterPreparing e t h).ctx.get t).claimWaiting
      path := ((enterPreparing e t h).ctx.get t).path } ∧
    (enterPreparing e t h).links.get t = (h.links.get t).take (tunePreset h t o) := by
  rw [enterPreparing_occurrence held]
  have claims := claim_claimsOnly (e := e) (q := ⟨t, o.start⟩) (row := o.row)
    (h := beginTune e t o (h.modCtx t (Context.preparing (positionNeed e h o.row o.azimuth o.tilt))))
  have begun : (beginTune e t o (h.modCtx t (Context.preparing (positionNeed e h o.row o.azimuth o.tilt)))).ctx.get t =
      { (h.ctx.get t).preparing (positionNeed e h o.row o.azimuth o.tilt) with timer := some (tuneTimer e t o h) } := by
    unfold beginTune handPreset Hall.modLink
    dsimp only
    rw [modCtx_self, modCtx_self]
    rfl
  have preset : (beginTune e t o (h.modCtx t (Context.preparing (positionNeed e h o.row o.azimuth o.tilt)))).links.get t =
      (h.links.get t).take (tunePreset h t o) := modLink_self
  generalize beginTune e t o (h.modCtx t (Context.preparing (positionNeed e h o.row o.azimuth o.tilt))) = b
    at claims begun preset
  generalize claim e ⟨t, o.start⟩ o.row b = c at claims
  have own := claims.ctx t
  rw [begun] at own
  exact ⟨own, (congrArg (Tab.get · t) claims.links).trans preset⟩

/-- A proving run needs no tuning (R97). -/
theorem enterPreparing_run_prepares (proving : (h.ctx.get t).held = .proving row) :
    (enterPreparing e t h).ctx.get t = { (h.ctx.get t).preparingRun with
      claimWaiting := ((enterPreparing e t h).ctx.get t).claimWaiting
      path := ((enterPreparing e t h).ctx.get t).path } := by
  have own := (enterPreparing_run_claims (e := e) proving).ctx t
  rw [modCtx_self] at own
  exact own

/-! The tune sub-task reads a reply (R74, R75). -/

section tune

variable (tune : (h.ctx.get t).tune = .pending) (held : (h.ctx.get t).held = .occurrence o)
include tune held

theorem tuneReply_fault (fault : m.report = .fault) : tuneReply e t m h = tuneFailure e t h := by
  unfold tuneReply
  dsimp only
  rw [tune, Context.occ, held]
  exact if_pos fault

theorem tuneReply_done (ready : m.report = .ready) (freq : m.freq = some o.freq) (told : (h.links.get t).told = true) :
    tuneReply e t m h = h.modCtx t fun c => { c with tune := .done, timer := none } := by
  unfold tuneReply
  dsimp only
  rw [tune, Context.occ, held]
  dsimp only
  rw [if_neg (by rw [ready]; nofun), if_pos (by simp [ready, freq, told])]

theorem tuneReply_waits (fault : m.report ≠ .fault)
    (other : ¬(m.report = .ready ∧ m.freq = some o.freq ∧ (h.links.get t).told = true)) : tuneReply e t m h = h := by
  unfold tuneReply
  dsimp only
  rw [tune, Context.occ, held]
  dsimp only
  rw [if_neg fault, if_neg fun w => other ?_]
  simp only [Bool.and_eq_true, beq_iff_eq] at w
  obtain ⟨⟨told, ready⟩, freq⟩ := w
  exact ⟨ready, freq, told⟩

end tune

/-! Forward power is confirmed (R81). -/

/-- A context that has just gone on air (R81). -/
def Context.aired (e : Env) (c : Context) : Context :=
  { c with
    state := .onAir, timer := none, spellBegan := some e.now
    onAirAt := match c.held, c.onAirAt with
      | .occurrence _, none => some e.now
      | _, i => i }

theorem occ_of_held {c : Context} (held : c.held = .occurrence o) : c.occ = some o := by rw [Context.occ, held]

theorem enterOnAir_self : (enterOnAir e t h).ctx.get t = (h.ctx.get t).aired e := by
  have raised {c : Prop} [Decidable c] (g : Hall) : (if c then raiseNotice .late g else g).ctx = g.ctx := by
    split <;> rfl
  unfold enterOnAir Context.aired Context.occ
  dsimp only
  cases held : (h.ctx.get t).held with
  | occurrence o =>
    cases on : (h.ctx.get t).onAirAt with
    | none =>
      dsimp only
      rw [raised, modRecord_ctx, modCtx_modCtx, modCtx_self, ← held]
    | some i =>
      dsimp only
      rw [modCtx_self, ← held, ← on]
  | nothing =>
    dsimp only
    rw [modCtx_self, ← held]
  | proving row =>
    dsimp only
    rw [modCtx_self, ← held]

/-- The record of an occurrence that goes on air the first time (R21, R81). -/
theorem enterOnAir_first (held : (h.ctx.get t).held = .occurrence o) (first : (h.ctx.get t).onAirAt = none) :
    (enterOnAir e t h).recordOf o.handle =
      (h.recordOf o.handle).map (Record.onAired (min 65535 (e.now - o.start))) ∧
    (o.start < e.now → (enterOnAir e t h).noticeSet .late = true) := by
  have record (f : Record → Record) (g : Hall) (same : g.slots = h.slots) :
      (g.modRecord o.handle f).recordOf o.handle = (h.recordOf o.handle).map f := by
    have found : g.recordOf o.handle = h.recordOf o.handle := by unfold Hall.recordOf Hall.recordAt; rw [same]
    cases there : h.recordOf o.handle with
    | none =>
      unfold Hall.modRecord
      rw [found, there]
      exact found.trans there
    | some x => exact (modRecord_holds (holds_of_recordOf (found.trans there)) f).record
  unfold enterOnAir
  dsimp only
  rw [occ_of_held held, first]
  dsimp only
  refine ⟨?_, fun late => ?_⟩
  · split
    · exact record _ _ rfl
    · exact record _ _ rfl
  · rw [if_pos (by omega)]
    exact noticeSet_raised ..

/-! A quiet reply in ENDING (R84, R85). -/

theorem finishEnding_idle (none : (h.ctx.get t).kept = none) : finishEnding e t h = finishIdle e t h := by
  unfold finishEnding
  rw [none]

theorem finishEnding_last {d : Decided} (held : (h.ctx.get t).held = .occurrence o) (decided : (h.ctx.get t).decided = some d) :
    (finishIdle e t h).lastOutcome.get t =
      some ⟨o.handle, outcomeOf d o.start o.finish (h.ctx.get t).lateSeconds (h.ctx.get t).wentOnAir⟩ :=
  finishIdle_last_of (occ_of_held held) decided

theorem storeOccurrence_some {start finish : Nat} (found : h.recordOf k.handle = some r) :
    storeOccurrence e t k.handle start finish row h = store e t (.occurrence (occOf e k.handle r start finish row)) start
      (h.modRecord k.handle (Record.begun start finish row)) := by
  unfold storeOccurrence
  rw [found]

/-- The kept occurrence is begun (R85). -/
theorem finishEnding_kept (kept : (h.ctx.get t).kept = some k) (found : h.recordOf k.handle = some r)
    (apart : ∀ o : Occ, (h.ctx.get t).held = .occurrence o → o.handle.place ≠ k.handle.place) :
    ((finishEnding e t h).ctx.get t).state = .preparing ∧ ((finishEnding e t h).ctx.get t).kept = none ∧
    ((finishEnding e t h).ctx.get t).held = .occurrence (occOf e k.handle r k.start k.finish k.row) := by
  have slot : (finishIdle e t h).slots.get k.handle.place = h.slots.get k.handle.place :=
    finishIdle_slot_other fun o occ => by
      cases held : (h.ctx.get t).held with
      | occurrence o' =>
        rw [occ_of_held held] at occ
        cases occ
        exact apart _ held
      | nothing => rw [Context.occ, held] at occ; cases occ
      | proving row => rw [Context.occ, held] at occ; cases occ
  have record : (finishIdle e t h).recordOf k.handle = some r := by
    unfold Hall.recordOf Hall.recordAt at found ⊢
    rw [slot]
    exact found
  unfold finishEnding
  rw [kept]
  dsimp only
  rw [storeOccurrence_some record]
  generalize (finishIdle e t h).modRecord k.handle (Record.begun k.start k.finish k.row) = g
  have own := store_self (e := e) (t := t) (h := g) (i := k.start)
    (held := .occurrence (occOf e k.handle r k.start k.finish k.row))
  generalize store e t (.occurrence (occOf e k.handle r k.start k.finish k.row)) k.start g = b at own
  have prepares := (enterPreparing_prepares (e := e) (h := b) (t := t)
    (o := occOf e k.handle r k.start k.finish k.row) (by rw [own])).1
  rw [prepares, own]
  exact ⟨rfl, rfl, rfl⟩

/-! The reflection ratio (R165, R166). -/

/-- The reflection ratio is taken into the power record alone. -/
theorem reflect_eq : reflect e t m h = { h with power := (reflect e t m h).power, flags := (reflect e t m h).flags } := by
  unfold reflect
  dsimp only
  (repeat' split) <;> rfl

theorem reflect_notice {y : Notice} (set : h.noticeSet y = true) : (reflect e t m h).noticeSet y = true :=
  reflect_linkWork.notice y set

/-- What a reply leaves of the power record (R165, R166). -/
def Power.reflected (e : Env) (f : Option Nat) (occ : Bool) (p : Power) : Power :=
  match f with
  | none => p
  | some ratio =>
    let q := { p with lastRatio := some ratio, noted := p.noted || (e.tables.warnLevel ≤ ratio && !p.noted) }
    if occ then q.applyRatio e.now e.tables.foldStart ratio else q

theorem modPower_self {f : Power → Power} : (h.modPower t f).power.get t = f (h.power.get t) := by
  unfold Hall.modPower
  dsimp only
  rw [Tab.get_modify_same]

theorem reflect_power (air : (h.ctx.get t).state = .onAir) : (reflect e t m h).power.get t =
    (h.power.get t).reflected e (reflectionRatio m) (h.ctx.get t).occ.isSome := by
  unfold reflect Power.reflected
  dsimp only
  rw [air]
  cases reflectionRatio m with
  | none => rfl
  | some ratio =>
    dsimp only
    (repeat' split) <;> simp [raiseNotice]

theorem reflect_raises {ratio : Nat} (air : (h.ctx.get t).state = .onAir) (some' : reflectionRatio m = some ratio)
    (noted : (h.power.get t).noted = false) (warn : e.tables.warnLevel ≤ ratio) :
    (reflect e t m h).noticeSet .reflection = true := by
  have raised (g : Hall) : (raiseNotice .reflection g).noticeSet .reflection = true := noticeSet_raised ..
  unfold reflect
  dsimp only
  rw [air, some']
  dsimp only
  have warns : (decide (e.tables.warnLevel ≤ ratio) && !(h.power.get t).noted) = true := by simpa [noted] using warn
  rw [if_pos warns]
  split
  · exact raised _
  · exact raised _

end Sys2Proof.Machine
end

section
/-! SUPPORT. A reply that is a trip (R82, R87, R88, R168, R171). -/

namespace Sys2Proof.Machine

variable {e : Env} {h g k : Hall} {t u v : Tx} {o : Occ} {row : Row} {cause : TripCause} {w x : HallUnit} {n : Nat}
  {except : Option Tx} {a : Ant}

/-! The permit stays dropped, and TRIP raised (R87). -/

theorem restate_gates : (restate w h).gates = h.gates := by
  rw [restate_eq]
  dsimp only
  cases w <;> (repeat' split) <;> rfl

theorem setUnit_gates {r : UnitRec} : (h.setUnit w r).gates = h.gates := by cases w <;> rfl

theorem dropKept_gates {z : OccOutcome} {why : Reason} : (dropKept e t z why h).gates = h.gates := by
  rw [dropKept_eq]

/-- An antenna that is barred stops other contexts than the one excepted (R172). -/
theorem strikeUnit_ant_gate {why : Reason} : (strikeUnit e (.ant a) why (some t) h).gates.get t = h.gates.get t := by
  have drops (g : Hall) (v : Tx) : (if keptConcerns g (.ant a) v then dropKept e v .missed why g else g).gates = g.gates := by
    split
    · exact dropKept_gates
    · rfl
  have step (g : Hall) (v : Tx) : (let g := if concernsUnit g (.ant a) v ∧ some t ≠ some v then cut e v why g else g
      let g := if (.ant a : HallUnit) = .tx v then endRun v (.failed why) g else g
      if keptConcerns g (.ant a) v then dropKept e v .missed why g else g).gates.get t = g.gates.get t := by
    dsimp only
    rw [if_neg (c := (.ant a : HallUnit) = .tx v) nofun]
    rw [drops]
    split
    · next strikes => exact (cut_apart fun same => strikes.2 (congrArg some same)).gates
    · rfl
  unfold strikeUnit
  generalize allFin 16 = l
  induction l generalizing h with
  | nil => rfl
  | cons v l ih => exact ih.trans (step h v)

theorem addScore_gate : (addScore e w n (some t) h).gates.get t = h.gates.get t ∨ ∃ v, w = .tx v ∧ v ≠ t := by
  cases w with
  | tx v =>
    by_cases same : v = t
    · subst same
      exact .inl (congrArg (Tab.get · v) addScore_scored.gates)
    · exact .inr ⟨v, rfl, same⟩
  | ant a =>
    left
    have bars : (bar e (.ant a) (some t) h).gates.get t = h.gates.get t := by
      unfold bar
      dsimp only
      rw [strikeUnit_ant_gate]
      rfl
    unfold addScore
    dsimp only
    split
    · rfl
    · rfl
    · exact bars
    all_goals
      split
      · exact bars
      · rw [restate_gates, setUnit_gates]

theorem tripScored_gate : (tripScored e t cause row h).gates.get t = h.gates.get t := by
  have own {n : Nat} {g : Hall} : (addScore e (.tx t) n (some t) g).gates.get t = g.gates.get t :=
    congrArg (Tab.get · t) addScore_scored.gates
  have antenna {n : Nat} {g : Hall} {a : Ant} : (addScore e (.ant a) n (some t) g).gates.get t = g.gates.get t :=
    addScore_gate.resolve_right fun ⟨_, ant, _⟩ => by cases ant
  unfold tripScored
  dsimp only
  (repeat' split) <;> simp only [own, antenna]

theorem reRow_gates : (reRow e t o row h).gates = h.gates := by
  unfold reRow
  dsimp only
  rw [claim_claimsOnly.gates]
  unfold newAntennaFoldback withdrawPosition
  rw [Hall.modPower_gates]
  dsimp only
  rw [modRecord_eq]
  rfl

/-- The decision on a trip leaves the permit dropped (R88 to R90). -/
theorem decideTrip_lowered (dropped : (h.gates.get t).Dropped) : ((decideTrip e t cause row h).gates.get t).Dropped := by
  have reRouted {o : Occ} : ((reRoute e t o cause h).gates.get t).Dropped := by
    unfold reRoute
    dsimp only
    split
    · rw [reRow_gates]
      exact dropped
    · exact cutDecision_dropped
  unfold decideTrip
  dsimp only
  split
  · exact cutDecision_dropped
  · split
    · exact dropped
    · split
      · split
        · exact reRouted
        · exact cutDecision_dropped
      · exact cutDecision_dropped

/-- What every trip does (R87, R168). -/
theorem takeTrip_raises (held : (h.ctx.get t).heldRow = some row) :
    ((takeTrip e t cause h).gates.get t).Dropped ∧ (takeTrip e t cause h).noticeSet .trip = true := by
  rw [takeTrip_eq held, scoreTrip_eq]
  constructor
  · refine decideTrip_lowered ?_
    rw [tripScored_gate]
    exact dropPermit_dropped
  · have decided : LinkWork _ (decideTrip e t cause row (tripScored e t cause row (raiseNotice .trip
        (dropPermit e t (h.modCtx t (Context.tripped e)))))) := .of_stays fun _ => decideTrip_stays _ _ _
    exact decided.notice _ (tripScored_linkWork.notice _ (noticeSet_raised ..))

/-! A trip of units that stay in service (R88, R168, R170). -/

/-- A unit that no trip bars. -/
def UnitRec.Calm (r : UnitRec) : Prop := (r.service = .normal ∨ r.service = .watch ∨ r.service = .reduced) ∧ r.score < 239

/-- Points were added to one unit, which stays in service; no other unit and no context changes. -/
structure Raised (w : HallUnit) (n : Nat) (h g : Hall) : Prop where
  ctx : g.ctx = h.ctx
  score : (g.unit w).score = (h.unit w).score + n
  serves : (g.unit w).service ≠ .barred
  others : ∀ x, x ≠ w → g.unit x = h.unit x

theorem restate_raised {r : UnitRec} (calm : (h.unit w).Calm) (same : r = { h.unit w with score := (h.unit w).score + n })
    (few : n ≤ 16) : Raised w n h (restate w (h.setUnit w r)) := by
  have small : (h.unit w).score < 239 := calm.2
  have free : r.service.latched = false := by
    rw [same]
    obtain service | service | service := calm.1 <;> simp [service, Service.latched]
  have unit : (restate w (h.setUnit w r)).unit w = { r with service := serviceOf r.score } := by
    rw [restate_eq, setUnit_unit, if_neg (by rw [free]; nofun)]
    dsimp only
    split
    · exact setUnit_unit
    · exact setUnit_unit
  have others (x : HallUnit) (hx : x ≠ w) : (restate w (h.setUnit w r)).unit x = h.unit x := by
    rw [restate_eq, setUnit_unit, if_neg (by rw [free]; nofun)]
    dsimp only
    split
    · exact (setUnit_unit_other hx).trans (setUnit_unit_other hx)
    · exact (setUnit_unit_other hx).trans (setUnit_unit_other hx)
  refine ⟨restate_ctx.trans (setUnit_ctx ..), ?_, ?_, others⟩
  · rw [unit, same]
  · rw [unit, same]
    dsimp only
    unfold serviceOf
    (repeat' split) <;> first | omega | simp

theorem addScore_raised (calm : (h.unit w).Calm) (few : n ≤ 16) : Raised w n h (addScore e w n except h) := by
  have small : (h.unit w).score < 239 := calm.2
  have total : min 255 ((h.unit w).score + n) = (h.unit w).score + n := by omega
  have free : ∀ z : Service, z = .normal ∨ z = .watch ∨ z = .reduced → (h.unit w).service = z →
      addScore e w n except h = restate w (h.setUnit w { h.unit w with score := (h.unit w).score + n }) := by
    intro z hz service
    unfold addScore
    dsimp only
    rw [service, total]
    obtain rfl | rfl | rfl := hz
    all_goals exact if_neg (by omega)
  obtain service | service | service := calm.1
  all_goals
    rw [free _ (by simp) service]
    exact restate_raised calm rfl few

theorem Raised.refl (calm : (h.unit w).Calm) : Raised w 0 h h := by
  refine ⟨rfl, rfl, ?_, fun _ _ => rfl⟩
  obtain service | service | service := calm.1 <;> rw [service] <;> nofun

theorem addScore_raisedIf (calm : (h.unit w).Calm) (few : n ≤ 16) :
    Raised w n h (if n = 0 then h else addScore e w n except h) := by
  split
  · next zero =>
    subst zero
    exact .refl calm
  · exact addScore_raised calm few

theorem tripPoints_few {antenna : Bool} : (tripPoints cause antenna).1 ≤ 16 ∧ (tripPoints cause antenna).2 ≤ 16 := by
  cases cause <;> cases antenna <;> decide

/-- The points of a trip on units that stay in service. -/
theorem tripScored_calm (own : (h.unit (.tx t)).Calm) (antenna : ∀ a, rowAnt row = some a → (h.unit (.ant a)).Calm) :
    (tripScored e t cause row h).ctx = h.ctx ∧
    ((tripScored e t cause row h).unit (.tx t)).score =
      (h.unit (.tx t)).score + (tripPoints cause (rowAnt row).isSome).1 ∧
    unitBarred (tripScored e t cause row h) t row = false ∧
    ∀ a, rowAnt row = some a → ((tripScored e t cause row h).unit (.ant a)).score =
      (h.unit (.ant a)).score + (tripPoints cause true).2 := by
  obtain ⟨fewOwn, fewAnt⟩ := tripPoints_few (cause := cause) (antenna := (rowAnt row).isSome)
  have first := addScore_raisedIf (e := e) (except := some t) own fewOwn
  unfold tripScored
  dsimp only
  generalize (if (tripPoints cause (rowAnt row).isSome).1 = 0 then h
    else addScore e (.tx t) (tripPoints cause (rowAnt row).isSome).1 (some t) h) = g at first
  cases found : rowAnt row with
  | none =>
    rw [found] at first
    refine ⟨first.ctx, first.score, eq_false_of_ne_true fun barred => ?_, fun _ none => by cases none⟩
    obtain tx | ant := unitBarred_iff.1 barred
    · exact first.serves tx
    · unfold Hall.rowService at ant
      rw [found] at ant
      cases ant
  | some a =>
    rw [found] at first fewAnt
    have calm : (g.unit (.ant a)).Calm := by
      rw [first.others (.ant a) (by simp)]
      exact antenna a found
    have second := addScore_raisedIf (e := e) (except := some t) calm fewAnt
    dsimp only [Option.isSome_some] at second first ⊢
    generalize (if (tripPoints cause true).2 = 0 then g
      else addScore e (.ant a) (tripPoints cause true).2 (some t) g) = k at second
    have kept : k.unit (.tx t) = g.unit (.tx t) := second.others _ (by simp)
    refine ⟨second.ctx.trans first.ctx, by rw [kept]; exact first.score, eq_false_of_ne_true fun barred => ?_,
      fun b same => ?_⟩
    · obtain tx | ant := unitBarred_iff.1 barred
      · exact first.serves ((congrArg UnitRec.service kept).symm.trans tx)
      · unfold Hall.rowService at ant
        rw [found] at ant
        exact second.serves ant
    · cases same
      rw [second.score, first.others (.ant a) (by simp)]

/-- The first trip of units that stay in service re-strikes after the pause (R88). -/
theorem takeTrip_calm (held : (h.ctx.get t).heldRow = some row) (own : (h.unit (.tx t)).Calm)
    (antenna : ∀ a, rowAnt row = some a → (h.unit (.ant a)).Calm) (old : ∀ i ∈ (h.ctx.get t).trips, i + 60 ≤ e.now) :
    (takeTrip e t cause h).ctx.get t = { h.ctx.get t with
      state := .restrike, spellBegan := none, trips := [e.now], timer := some (timerOf e .pause e.tables.pause) } ∧
    ((takeTrip e t cause h).unit (.tx t)).score =
      (h.unit (.tx t)).score + (tripPoints cause (rowAnt row).isSome).1 ∧
    ∀ a, rowAnt row = some a → ((takeTrip e t cause h).unit (.ant a)).score =
      (h.unit (.ant a)).score + (tripPoints cause true).2 := by
  have scored := tripScored_calm (e := e) (t := t) (cause := cause) (row := row) (h := trippedHall e t h) own antenna
  have trips : (h.ctx.get t).trips.filter (fun i => e.now < i + 60) = [] :=
    List.filter_eq_nil_iff.2 fun i hi => by have := old i hi; simp; omega
  have self : (trippedHall e t h).ctx.get t = { h.ctx.get t with
      timer := none, spellBegan := none, state := .restrike, trips := [e.now] } := by
    rw [trippedHall_self]
    unfold Context.tripped
    rw [List.filter_append, trips]
    simp
  have units (x : HallUnit) : (trippedHall e t h).unit x = h.unit x := by cases x <;> rfl
  have eq : takeTrip e t cause h = decideTrip e t cause row (tripScored e t cause row (trippedHall e t h)) :=
    takeTrip_eq held
  rw [eq]
  obtain ⟨ctx, score, clear, antennas⟩ := scored
  generalize tripScored e t cause row (trippedHall e t h) = g at ctx score clear antennas
  have own' : g.ctx.get t = _ := (congrArg (Tab.get · t) ctx).trans self
  rw [decideTrip_few clear (by rw [own']; unfold restrikeLimit; split <;> simp)]
  refine ⟨?_, score.trans (by rw [units]), fun a ha => (antennas a ha).trans (by rw [units])⟩
  rw [modCtx_self, own']

end Sys2Proof.Machine
end

section
/-! PROOFS. What a telemetry reply makes of the context it is read by (O47). -/

namespace Sys2Proof.Machine

variable {s : State} {e : Env} {h g : Hall} {f : TelemetryFrame} {o : Occ} {row : Row} {d : Decided} {k : Kept} {r : Record}

/-! The hall in which the context reads a reply that is not LOCAL. -/

/-- The latest telemetry as a reply gives it. -/
def TelemetryFrame.read (e : Env) (h : Hall) (f : TelemetryFrame) : Telemetry :=
  telemetryAfter e (h.links.get f.tx).telemetry f

/-- The hall that has taken a reply which is not LOCAL. -/
def heardHall (e : Env) (f : TelemetryFrame) (h : Hall) : Hall :=
  (received e f h).modLink f.tx fun l => { l with state := .active }

theorem heardHall_eq : heardHall e f h = { h with links := (heardHall e f h).links, gates := (heardHall e f h).gates } := by
  unfold heardHall Hall.modLink
  dsimp only
  rw [received_eq]

theorem heardHall_link : (heardHall e f h).links.get f.tx = { (h.links.get f.tx).receive e f with state := .active } := by
  have taken : (received e f h).links = (h.modLink f.tx (Link.receive e f)).links := by
    unfold received noteQuiet
    split <;> rfl
  unfold heardHall
  rw [modLink_self, taken, modLink_self]

theorem heardHall_ctx : (heardHall e f h).ctx = h.ctx := by rw [heardHall_eq]
theorem heardHall_power : (heardHall e f h).power = h.power := by rw [heardHall_eq]
theorem heardHall_recordOf {i : Handle} : (heardHall e f h).recordOf i = h.recordOf i := by rw [heardHall_eq]; rfl
theorem heardHall_unit {x : HallUnit} : (heardHall e f h).unit x = h.unit x := by rw [heardHall_eq]; cases x <;> rfl

theorem applyTelemetry_heard (other : f.report ≠ .localCtl) : applyTelemetry e f h =
    reflect e f.tx (f.read e h) (contextReply e f.tx (f.read e h) (heardHall e f h)) := by
  have moved : moveLink e f.tx f.report (received e f h) = heardHall e f h := moveLink_active other
  rw [applyTelemetry_eq, moved, heardHall_link]
  exact congrArg _ (if_pos rfl)

/-- What the ratio taken after the context's reading leaves. -/
theorem applyTelemetry_after (other : f.report ≠ .localCtl)
    (reads : contextReply e f.tx (f.read e h) (heardHall e f h) = g) :
    (applyTelemetry e f h).ctx = g.ctx ∧ (applyTelemetry e f h).links = g.links ∧ (applyTelemetry e f h).gates = g.gates ∧
    (applyTelemetry e f h).slots = g.slots ∧ (applyTelemetry e f h).lastOutcome = g.lastOutcome ∧
    (∀ x, (applyTelemetry e f h).unit x = g.unit x) ∧
    ∀ y, g.noticeSet y = true → (applyTelemetry e f h).noticeSet y = true := by
  rw [applyTelemetry_heard other, reads]
  refine ⟨?_, ?_, ?_, ?_, ?_, fun x => ?_, fun y => reflect_notice⟩ <;> rw [reflect_eq]
  cases x <;> rfl

/-! The reply's terms. -/

theorem read_quiet : (f.read e h).quiet = true ↔
    (f.report = .off ∨ f.report = .ready ∨ f.report = .tuning) ∧ min f.forward 6000 < 10 := by
  unfold TelemetryFrame.read telemetryAfter Telemetry.quiet
  simp [or_assoc]

theorem heardHall_told : ((heardHall e f h).links.get f.tx).told = true ↔
    (h.links.get f.tx).told = true ∨ ∃ n ∈ (h.links.get f.tx).ackNumbers, f.ack = some n := by
  rw [heardHall_link]
  unfold Link.receive Link.acknowledge
  dsimp only
  cases f.ack <;> simp

theorem confirmed_iff {n : Nat} (forward : (f.read e h).forward = n) :
    confirmed (heardHall e f h) f.tx (f.read e h) = true ↔ ∃ p, (h.power.get f.tx).requested = some p ∧ 9 * p ≤ n := by
  unfold confirmed
  rw [heardHall_power, forward]
  cases (h.power.get f.tx).requested <;> simp

section reply

variable (other : f.report ≠ .localCtl)
include other

/-! MUTING (R72, R73, R97). -/

theorem reply_prepares (muting : (h.ctx.get f.tx).state = .muting) (quiet : (f.read e h).quiet = true)
    (held : (h.ctx.get f.tx).held = .occurrence o) :
    let c := (applyTelemetry e f h).ctx.get f.tx
    let l := (applyTelemetry e f h).links.get f.tx
    c.state = .preparing ∧ c.held = .occurrence o ∧ c.tune = .pending ∧ c.tuneAttempts = 1 ∧
    (∃ m, c.timer = some m ∧ m.kind = .tuning ∧ m.expiry = e.elapsed + m.length) ∧ l.presetFreq = some o.freq ∧
    l.presetProgramme = o.programme ∧ l.told = false ∧ l.pending = some
      { freq := o.freq, programme := o.programme, power := ((h.power.get f.tx).requested).getD 10, number := none
        tuning := true } := by
  intro c l
  have own : (heardHall e f h).ctx.get f.tx = h.ctx.get f.tx := by rw [heardHall_ctx]
  have reads : contextReply e f.tx (f.read e h) (heardHall e f h) = enterPreparing e f.tx (heardHall e f h) :=
    (contextReply_muting (by rw [own]; exact muting)).trans (if_pos quiet)
  obtain ⟨ctx, links, -⟩ := applyTelemetry_after other reads
  obtain ⟨prepares, preset⟩ := enterPreparing_prepares (e := e) (h := heardHall e f h) (by rw [own]; exact held)
  have hc : c = _ := (congrArg (Tab.get · f.tx) ctx).trans prepares
  have hl : l = _ := (congrArg (Tab.get · f.tx) links).trans (preset.trans (congrArg _ heardHall_link))
  rw [own] at hc
  rw [hc, hl, show tunePreset (heardHall e f h) f.tx o = tunePreset h f.tx o by unfold tunePreset; rw [heardHall_power]]
  exact ⟨rfl, held, rfl, rfl, ⟨_, rfl, rfl, rfl⟩, rfl, rfl, rfl, rfl⟩

theorem reply_prepares_run (muting : (h.ctx.get f.tx).state = .muting) (quiet : (f.read e h).quiet = true)
    (held : (h.ctx.get f.tx).held = .proving row) :
    let c := (applyTelemetry e f h).ctx.get f.tx
    c.state = .preparing ∧ c.held = .proving row ∧ c.tune = .notNeeded ∧ c.position = .notNeeded ∧ c.timer = none := by
  intro c
  have own : (heardHall e f h).ctx.get f.tx = h.ctx.get f.tx := by rw [heardHall_ctx]
  have reads : contextReply e f.tx (f.read e h) (heardHall e f h) = enterPreparing e f.tx (heardHall e f h) :=
    (contextReply_muting (by rw [own]; exact muting)).trans (if_pos quiet)
  have prepares := enterPreparing_run_prepares (e := e) (h := heardHall e f h) (by rw [own]; exact held)
  have hc : c = _ := (congrArg (Tab.get · f.tx) (applyTelemetry_after other reads).1).trans prepares
  rw [own] at hc
  rw [hc]
  exact ⟨rfl, held, rfl, rfl, rfl⟩

/-! PREPARING (R74, R75). -/

section tune

variable (preparing : (h.ctx.get f.tx).state = .preparing) (tune : (h.ctx.get f.tx).tune = .pending)
  (held : (h.ctx.get f.tx).held = .occurrence o)
include preparing tune held

theorem reply_tuned (ready : f.report = .ready) (freq : (f.read e h).freq = some o.freq)
    (told : ((heardHall e f h).links.get f.tx).told = true) :
    (applyTelemetry e f h).ctx.get f.tx = { h.ctx.get f.tx with tune := .done, timer := none } := by
  have own : (heardHall e f h).ctx.get f.tx = h.ctx.get f.tx := by rw [heardHall_ctx]
  have reads := (contextReply_preparing (e := e) (m := f.read e h) (by rw [own]; exact preparing)).trans
    (tuneReply_done (by rw [own]; exact tune) (by rw [own]; exact held) ready freq told)
  rw [(applyTelemetry_after other reads).1, modCtx_self, own]

theorem reply_waits (fault : f.report ≠ .fault) (wait : ¬(f.report = .ready ∧ (f.read e h).freq = some o.freq ∧
    ((heardHall e f h).links.get f.tx).told = true)) : (applyTelemetry e f h).ctx.get f.tx = h.ctx.get f.tx := by
  have own : (heardHall e f h).ctx.get f.tx = h.ctx.get f.tx := by rw [heardHall_ctx]
  have reads := (contextReply_preparing (e := e) (m := f.read e h) (by rw [own]; exact preparing)).trans
    (tuneReply_waits (by rw [own]; exact tune) (by rw [own]; exact held) fault wait)
  rw [(applyTelemetry_after other reads).1, own]

theorem reply_again (fault : f.report = .fault) (first : (h.ctx.get f.tx).tuneAttempts < 2) :
    (applyTelemetry e f h).ctx.get f.tx = { h.ctx.get f.tx with
      tuneAttempts := 2
      timer := (h.ctx.get f.tx).timer.map fun m => { m with expiry := e.elapsed + m.length } } ∧
    ((applyTelemetry e f h).links.get f.tx).presetFreq = some o.freq ∧
    ((applyTelemetry e f h).links.get f.tx).told = false := by
  have own : (heardHall e f h).ctx.get f.tx = h.ctx.get f.tx := by rw [heardHall_ctx]
  have reads := ((contextReply_preparing (e := e) (m := f.read e h) (by rw [own]; exact preparing)).trans
    (tuneReply_fault (by rw [own]; exact tune) (by rw [own]; exact held) fault)).trans
    (tuneFailure_again (occ_of_held (by rw [own]; exact held)) (by rw [own]; exact first))
  obtain ⟨ctx, links, -⟩ := applyTelemetry_after other reads
  have link := (congrArg (Tab.get · f.tx) links).trans (modLink_self (h := (heardHall e f h).modCtx f.tx _))
  refine ⟨(congrArg (Tab.get · f.tx) ctx).trans ?_, ?_, ?_⟩
  · refine (modCtx_self (h := heardHall e f h)).trans ?_
    rw [own]
  · rw [link]
    rfl
  · rw [link]
    rfl

theorem reply_fails (fault : f.report = .fault) (second : 2 ≤ (h.ctx.get f.tx).tuneAttempts) :
    Unwound h f.tx o { outcome := .missed, reason := some .tune, ended := e.now } (applyTelemetry e f h) := by
  have own : (heardHall e f h).ctx.get f.tx = h.ctx.get f.tx := by rw [heardHall_ctx]
  have reads := (contextReply_preparing (e := e) (m := f.read e h) (by rw [own]; exact preparing)).trans
    (tuneReply_fault (by rw [own]; exact tune) (by rw [own]; exact held) fault)
  obtain ⟨ctx, -, gates, -, last, -⟩ := applyTelemetry_after other reads
  have unwound := tuneFailure_unwound (e := e) (g := heardHall e f h) (by rw [own])
    (fun v _ => by rw [heardHall_ctx]) held second
  unfold Unwound TakenBack at unwound ⊢
  rw [ctx, gates, last]
  exact unwound

end tune

/-! RAMPING, and trips (R80 to R82, R87, R88). -/

theorem reply_confirms (ramping : (h.ctx.get f.tx).state = .ramping) (calm : f.report ≠ .tripped ∧ f.report ≠ .fault) :
    if confirmed (heardHall e f h) f.tx (f.read e h) = true then
      (applyTelemetry e f h).ctx.get f.tx = (h.ctx.get f.tx).aired e ∧
      ∀ o : Occ, (h.ctx.get f.tx).held = .occurrence o → (h.ctx.get f.tx).onAirAt = none →
        (applyTelemetry e f h).recordOf o.handle =
          (h.recordOf o.handle).map (Record.onAired (min 65535 (e.now - o.start))) ∧
        (o.start < e.now → (applyTelemetry e f h).noticeSet .late = true)
    else (applyTelemetry e f h).ctx.get f.tx = h.ctx.get f.tx := by
  have own : (heardHall e f h).ctx.get f.tx = h.ctx.get f.tx := by rw [heardHall_ctx]
  have reads := contextReply_confirms (e := e) (h := heardHall e f h) (m := f.read e h) (by rw [own]; exact ramping) calm
  split
  · next confirms =>
    obtain ⟨ctx, -, -, slots, -, -, notice⟩ := applyTelemetry_after other (reads.trans (if_pos confirms))
    refine ⟨?_, fun o held first => ?_⟩
    · rw [ctx, enterOnAir_self, own]
    · obtain ⟨record, late⟩ := enterOnAir_first (e := e) (h := heardHall e f h) (by rw [own]; exact held)
        (by rw [own]; exact first)
      rw [heardHall_recordOf] at record
      refine ⟨?_, fun now => notice _ (late now)⟩
      unfold Hall.recordOf Hall.recordAt at record ⊢
      rw [slots]
      exact record
  · next waits => rw [(applyTelemetry_after other (reads.trans (if_neg waits))).1, own]

theorem reply_trips {cause : TripCause} (state : (h.ctx.get f.tx).state = .ramping ∨ (h.ctx.get f.tx).state = .onAir)
    (trip : tripReport (h.ctx.get f.tx).state (f.read e h) = some cause) (held : (h.ctx.get f.tx).heldRow = some row) :
    ((applyTelemetry e f h).gates.get f.tx).Dropped ∧ (applyTelemetry e f h).noticeSet .trip = true ∧
    ((h.unit (.tx f.tx)).Calm → (∀ a, rowAnt row = some a → (h.unit (.ant a)).Calm) →
      (∀ i ∈ (h.ctx.get f.tx).trips, i + 60 ≤ e.now) →
      (applyTelemetry e f h).ctx.get f.tx = { h.ctx.get f.tx with
        state := .restrike, spellBegan := none, trips := [e.now], timer := some (timerOf e .pause e.tables.pause) } ∧
      ((applyTelemetry e f h).unit (.tx f.tx)).score =
        (h.unit (.tx f.tx)).score + (tripPoints cause (rowAnt row).isSome).1 ∧
      ∀ a, rowAnt row = some a → ((applyTelemetry e f h).unit (.ant a)).score =
        (h.unit (.ant a)).score + (tripPoints cause true).2) := by
  have own : (heardHall e f h).ctx.get f.tx = h.ctx.get f.tx := by rw [heardHall_ctx]
  have reads := contextReply_trips (e := e) (h := heardHall e f h) (m := f.read e h) (by rw [own]; exact state)
    (by rw [own]; exact trip)
  have heldNow : ((heardHall e f h).ctx.get f.tx).heldRow = some row := by rw [own]; exact held
  obtain ⟨ctx, -, gates, -, -, units, notice⟩ := applyTelemetry_after other reads
  obtain ⟨dropped, raised⟩ := takeTrip_raises (e := e) (cause := cause) heldNow
  refine ⟨by rw [gates]; exact dropped, notice _ raised, fun tx ant old => ?_⟩
  have calm := takeTrip_calm (e := e) (cause := cause) heldNow (by rw [heardHall_unit]; exact tx)
    (fun a ha => by rw [heardHall_unit]; exact ant a ha) (by rw [own]; exact old)
  simp only [own, heardHall_unit] at calm
  obtain ⟨restrike, score, antenna⟩ := calm
  exact ⟨(congrArg (Tab.get · f.tx) ctx).trans restrike, (congrArg _ (units _)).trans score,
    fun a ha => (congrArg _ (units _)).trans (antenna a ha)⟩

/-! ENDING (R84, R85). -/

theorem reply_ends (ending : (h.ctx.get f.tx).state = .ending) (quiet : (f.read e h).quiet = true)
    (kept : (h.ctx.get f.tx).kept = none) : (applyTelemetry e f h).ctx.get f.tx = Context.idle ∧
    ∀ (o : Occ) (d : Decided), (h.ctx.get f.tx).held = .occurrence o → (h.ctx.get f.tx).decided = some d →
      (applyTelemetry e f h).lastOutcome.get f.tx = some
        ⟨o.handle, outcomeOf d o.start o.finish (h.ctx.get f.tx).lateSeconds (h.ctx.get f.tx).wentOnAir⟩ := by
  have own : (heardHall e f h).ctx.get f.tx = h.ctx.get f.tx := by rw [heardHall_ctx]
  have reads := ((contextReply_ending (e := e) (h := heardHall e f h) (m := f.read e h) (by rw [own]; exact ending)).trans
    (if_pos quiet)).trans (finishEnding_idle (by rw [own]; exact kept))
  obtain ⟨ctx, -, -, -, last, -⟩ := applyTelemetry_after other reads
  refine ⟨by rw [ctx]; exact finishIdle_self, fun o d held decided => ?_⟩
  have ended := finishEnding_last (e := e) (h := heardHall e f h) (t := f.tx) (by rw [own]; exact held)
    (by rw [own]; exact decided)
  rw [own] at ended
  rw [last]
  exact ended

theorem reply_begins_kept (ending : (h.ctx.get f.tx).state = .ending) (quiet : (f.read e h).quiet = true)
    (kept : (h.ctx.get f.tx).kept = some k) (found : h.recordOf k.handle = some r)
    (apart : ∀ o : Occ, (h.ctx.get f.tx).held = .occurrence o → o.handle.place ≠ k.handle.place) :
    let c := (applyTelemetry e f h).ctx.get f.tx
    c.state = .preparing ∧ c.kept = none ∧ c.held = .occurrence (occOf e k.handle r k.start k.finish k.row) := by
  have own : (heardHall e f h).ctx.get f.tx = h.ctx.get f.tx := by rw [heardHall_ctx]
  have reads := (contextReply_ending (e := e) (h := heardHall e f h) (m := f.read e h) (by rw [own]; exact ending)).trans
    (if_pos quiet)
  dsimp only
  rw [(applyTelemetry_after other reads).1]
  exact finishEnding_kept (by rw [own]; exact kept) (by rw [heardHall_recordOf]; exact found) (by rw [own]; exact apart)

/-! Replies that move nothing, and the reflection ratio (R165, R166). -/

theorem reply_rests (rests : contextReply e f.tx (f.read e h) (heardHall e f h) = heardHall e f h) :
    (applyTelemetry e f h).ctx.get f.tx = h.ctx.get f.tx := by
  rw [(applyTelemetry_after other rests).1, heardHall_ctx]

theorem reply_reflects (air : (h.ctx.get f.tx).state = .onAir) (calm : tripReport .onAir (f.read e h) = none) :
    (applyTelemetry e f h).power.get f.tx = (h.power.get f.tx).reflected e (reflectionRatio (f.read e h))
      (h.ctx.get f.tx).occ.isSome ∧
    ∀ ratio, reflectionRatio (f.read e h) = some ratio → (h.power.get f.tx).noted = false →
      e.tables.warnLevel ≤ ratio → (applyTelemetry e f h).noticeSet .reflection = true := by
  have own : (heardHall e f h).ctx.get f.tx = h.ctx.get f.tx := by rw [heardHall_ctx]
  have airNow : ((heardHall e f h).ctx.get f.tx).state = .onAir := by rw [own]; exact air
  have reads := contextReply_onAir (e := e) airNow calm
  rw [applyTelemetry_heard other, reads]
  refine ⟨?_, fun ratio some' noted warn => reflect_raises airNow some' (by rw [heardHall_power]; exact noted) warn⟩
  rw [reflect_power airNow, heardHall_power, own]

end reply

end Sys2Proof.Machine
end

section
/-! PROOFS. Telemetry and the changeover contexts (O47): the cases together. -/

namespace Sys2Proof.Machine

variable {s : State} {e : Env} {h : Hall} {f : TelemetryFrame} {z : CtxState} {p p' : Power} {ratio : Nat} {c : Context}

/-! Which replies are trips (R82, R150). -/

/-- The cause a trip is taken with (R150). -/
def TelemetryFrame.tripCause (f : TelemetryFrame) : TripCause :=
  if f.report = .tripped then f.cause.getD .other else .other

theorem tripReport_read : tripReport z (f.read e h) =
    if (z = .ramping ∧ (f.report = .tripped ∨ f.report = .fault)) ∨
      (z = .onAir ∧ ((f.report = .tripped ∨ f.report = .fault) ∨ f.report = .off ∨ f.report = .ready))
    then some f.tripCause else none := by
  have report : (f.read e h).report = f.report := rfl
  have cause : (f.read e h).cause = if f.report = .tripped then some (f.cause.getD .other) else none := rfl
  unfold tripReport TelemetryFrame.tripCause
  rw [report, cause]
  cases f.report <;> cases z <;> simp

theorem tripPoints_own {cause : TripCause} {antenna : Bool} :
    (tripPoints cause antenna).1 = if cause = .arc ∧ antenna = true then 0 else 8 := by
  cases cause <;> cases antenna <;> rfl

theorem tripPoints_antenna {cause : TripCause} :
    (tripPoints cause true).2 = if cause = .arc then 16 else if cause = .vswr then 8 else 0 := by
  cases cause <;> rfl

/-! The power record at a reflection ratio (R165, R166). -/

/-- What O47 says of the power record at a ratio. -/
def RatioTaken (e : Env) (ratio : Nat) (held : Option Occ) (p p' : Power) : Prop :=
  p'.lastRatio = some ratio ∧ p'.requested = p.requested ∧
  (p'.noted = (p.noted || decide (e.tables.warnLevel ≤ ratio))) ∧
  if held = none then p'.level = p.level ∧ p'.returnStart = p.returnStart
  else if e.tables.foldStart < ratio then p'.level = some (max (p.level.getD 0) ratio) ∧ p'.returnStart = none
  else
    match p.level, p.returnStart with
    | none, i => p'.level = none ∧ p'.returnStart = i
    | some x, none => p'.level = some x ∧ p'.returnStart = some e.now
    | some x, some i =>
      if i + 60 ≤ e.now then p'.level = none ∧ p'.returnStart = none
      else p'.level = some x ∧ p'.returnStart = some i

theorem noted_or (noted warn : Bool) : (noted || (warn && !noted)) = (noted || warn) := by
  cases noted <;> cases warn <;> rfl

theorem reflected_taken {held : Option Occ} : RatioTaken e ratio held p (p.reflected e (some ratio) held.isSome) := by
  unfold RatioTaken Power.reflected
  dsimp only
  rw [noted_or]
  cases held with
  | none => exact ⟨rfl, rfl, rfl, rfl, rfl⟩
  | some o =>
    rw [if_pos (show (some o).isSome = true from rfl), if_neg (by simp)]
    unfold Power.applyRatio
    dsimp only
    by_cases folds : e.tables.foldStart < ratio
    · rw [if_pos folds, if_pos folds]
      exact ⟨rfl, rfl, rfl, rfl, rfl⟩
    · rw [if_neg folds, if_neg folds]
      cases p.level with
      | none => exact ⟨rfl, rfl, rfl, rfl, rfl⟩
      | some x =>
        cases p.returnStart with
        | none => exact ⟨rfl, rfl, rfl, rfl, rfl⟩
        | some i =>
          dsimp only
          by_cases old : i + 60 ≤ e.now
          · rw [if_pos old, if_pos old]
            exact ⟨rfl, rfl, rfl, rfl, rfl⟩
          · rw [if_neg old, if_neg old]
            exact ⟨rfl, rfl, rfl, rfl, rfl⟩

theorem reflectionRatio_read : reflectionRatio (f.read e h) =
    if min f.forward 6000 < 10 then none
    else some (min 1000 (1000 * min f.reflected 6000 / min f.forward 6000)) := by
  unfold reflectionRatio TelemetryFrame.read telemetryAfter
  dsimp only
  split
  · rw [if_neg (by omega)]
  · rw [if_pos (by omega)]

/-- A record whose occurrence goes on air, field by field (R21). -/
theorem onAired_eq {late : Nat} : Record.onAired late = fun r => { r with
    state := if r.state = .retiring then .retiring else .onAir
    current := r.current.map fun x => { x with late := late } } := by
  funext r
  unfold Record.onAired Record.enter
  split
  · next retiring => rw [← retiring]
  · rfl

/-- Settles O47: what a reply makes of its context, state by state. -/
theorem telemetryMovesTheContext : Obligations.TelemetryMovesTheContext := by
  intro s u rest frame f poll reply own other after c c' l l' freq forward quiet told faulty trips
  subst own
  have isQuiet : (f.read s.env s.hall).quiet = true ↔ quiet := read_quiet
  have isTold : ((heardHall s.env f s.hall).links.get f.tx).told = true ↔ told := heardHall_told
  have trip : tripReport c.state (f.read s.env s.hall) = if trips then some f.tripCause else none := tripReport_read
  have heardCtx : (heardHall s.env f s.hall).ctx.get f.tx = c := by rw [heardHall_ctx]
  refine ⟨⟨_, _, telemetryReply_taken poll reply rfl, rfl, ?_, false, rfl, rfl⟩, fun muting still => ⟨fun o held => ?_,
    fun row held => ?_⟩, fun o preparing tune held => ⟨fun ready same acked => ?_, fun fault waits => ?_, fun fault first => ?_,
    fun fault second => ?_⟩, fun ramping calm => ?_, fun row trips' held => ?_, fun ending still => ⟨fun kept => ?_,
    fun k r kept found apart => ?_⟩, fun rests => ?_, fun air calm => ?_⟩
  · exact conclude_port ..
  · have prepares := reply_prepares (e := s.env) other muting (isQuiet.2 still) held
    rw [← held] at prepares
    exact prepares
  · have prepares := reply_prepares_run (e := s.env) other muting (isQuiet.2 still) held
    rw [← held] at prepares
    exact prepares
  · exact reply_tuned other preparing tune held ready same (isTold.2 acked)
  · exact reply_waits other preparing tune held fault fun ⟨ready, same, acked⟩ => waits ⟨ready, same, isTold.1 acked⟩
  · exact reply_again other preparing tune held fault first
  · exact reply_fails other preparing tune held fault second
  · have confirms := reply_confirms (e := s.env) other ramping ⟨fun w => calm (.inl w), fun w => calm (.inr w)⟩
    have iff := confirmed_iff (e := s.env) (h := s.hall) (f := f) (n := forward) rfl
    by_cases confirmed' : ∃ p, (s.hall.power.get f.tx).requested = some p ∧ 9 * p ≤ forward
    · rw [if_pos (iff.2 confirmed')] at confirms
      rw [if_pos confirmed']
      simp only [onAired_eq] at confirms
      exact confirms
    · rw [if_neg fun w => confirmed' (iff.1 w)] at confirms
      rw [if_neg confirmed']
      exact confirms
  · rw [if_pos trips'] at trip
    have state : c.state = .ramping ∨ c.state = .onAir := trips'.imp And.left And.left
    obtain ⟨dropped, raised, calm⟩ := reply_trips (e := s.env) other state trip held
    refine ⟨dropped.1, dropped.2, raised, fun tx antenna old => ?_⟩
    obtain ⟨restrikes, score, scores⟩ := calm tx antenna old
    refine ⟨restrikes, ?_, fun a ha => ?_⟩
    · rw [tripPoints_own] at score
      exact score
    · have points := scores a ha
      rw [tripPoints_antenna] at points
      exact points
  · exact reply_ends other ending (isQuiet.2 still) kept
  · obtain ⟨state, none, began⟩ := reply_begins_kept (e := s.env) other ending (isQuiet.2 still) kept found apart
    exact ⟨state, none, _, began, rfl, rfl, rfl, rfl, rfl⟩
  · refine reply_rests other ?_
    obtain ⟨state | state, loud⟩ | idle | standing | restrike | halted | ⟨air, calm⟩ := rests
    · exact (contextReply_muting (by rw [heardCtx]; exact state)).trans (if_neg fun w => loud (isQuiet.1 w))
    · exact (contextReply_ending (by rw [heardCtx]; exact state)).trans (if_neg fun w => loud (isQuiet.1 w))
    · exact contextReply_rests (by rw [heardCtx]; exact .inl idle)
    · exact contextReply_rests (by rw [heardCtx]; exact .inr (.inl standing))
    · exact contextReply_rests (by rw [heardCtx]; exact .inr (.inr (.inl restrike)))
    · exact contextReply_rests (by rw [heardCtx]; exact .inr (.inr (.inr halted)))
    · rw [if_neg calm, air] at trip
      exact contextReply_onAir (by rw [heardCtx]; exact air) trip
  · rw [if_neg calm, air] at trip
    obtain ⟨power, raises⟩ := reply_reflects (e := s.env) other air trip
    rw [reflectionRatio_read] at power raises
    intro w w' ratio
    by_cases weak : forward < 10
    · rw [if_pos weak] at power ⊢
      exact power
    · rw [if_neg weak] at power raises ⊢
      have taken := reflected_taken (e := s.env) (ratio := ratio) (held := c.occ) (p := w)
      rw [← power] at taken
      obtain ⟨last, requested, noted, level⟩ := taken
      exact ⟨last, requested, noted, fun clear warn => raises ratio rfl clear warn, level⟩

end Sys2Proof.Machine
end

section
/-! PROOFS. The end of a cover (O57). -/

namespace Sys2Proof.Machine

variable {s : State} {r : Row}

/-- The part after power-up, but for a sub-second phase beyond the 1 s at which time lets it wait (log 2). -/
def overPhase : State :=
  { State.reset with env := { State.reset.env with clock := { State.reset.env.clock with phase := 1001 } } }

/-- With no transmitter that covers anything no row has coverers (R179). -/
theorem coverers_nil (uncovered : ∀ u, covers s.env s.hall u = false) : coverers s.env s.hall r = [] :=
  List.filter_eq_nil_iff.2 fun u _ => by simp [uncovered u]

theorem overPhase_uncovered (u : Tx) : covers overPhase.env overPhase.hall u = false := by
  have low : overPhase.hall.gates.get u = Gate.low := Tab.get_fill ..
  unfold covers
  rw [low]
  rfl

/-- The end of a cover that covers nothing lets no time pass (R179). -/
theorem coverEnd_uncovered (released : s.env.pins.resetHeld = false) (none : coverers s.env s.hall r = []) :
    exec (.coverEnd r) s = .next (conclude s false (s.passTo 0)) := by
  show execCoverEnd r s = _
  unfold execCoverEnd
  dsimp only
  rw [none, if_neg (by simp [released])]
  rfl

/-- Refutes O57. A cover's end with nothing that covers the row is to leave the clock as it was; but the passing of no
time at all still brings the sub-second phase down to 1000 (log 2), and the statement takes a state of any phase. The
part itself never has a phase above 1000. -/
theorem not_rfSenseIsFollowed : ¬ Obligations.RfSenseIsFollowed := by
  intro h
  obtain ⟨-, ends⟩ := h overPhase 0 false
  have none := coverers_nil (s := overPhase) (r := 0) overPhase_uncovered
  rw [none] at ends
  dsimp only at ends
  rw [if_neg (by simp only [List.not_mem_nil, false_and, exists_false, or_false]; decide)] at ends
  obtain ⟨t, next, -, -, -, -, -, -, same, -⟩ := ends
  obtain rfl := exec_next_inj next (coverEnd_uncovered rfl none)
  obtain ⟨force, -, env⟩ := (same rfl).2
  have stays : (conclude overPhase force overPhase).env.clock.phase = 1001 := by
    rw [conclude_clock]
    rfl
  rw [← env, conclude_clock] at stays
  exact absurd (stays : (1000 : Nat) = 1001) (by decide)

end Sys2Proof.Machine
end

section
/-! SUPPORT. What the causes that pass the contexts in turn leave of the record an untouched context keeps. -/

namespace Sys2Proof.Machine

variable {s : State} {e : Env} {h g k : Hall} {t u v : Tx} {p q : PlaceNo} {o : Occ} {r : Record}

/-- A context neither holds nor keeps an occurrence of the record at a place. -/
def Hall.Off (h : Hall) (p : PlaceNo) (v : Tx) : Prop :=
  (∀ o ∈ (h.ctx.get v).occ, o.handle.place ≠ p) ∧ ∀ x ∈ (h.ctx.get v).kept, x.handle.place ≠ p

/-- A context that is not concerned with a place does not come to be so. -/
theorem off_stable (p : PlaceNo) (v : Tx) : Stable e fun h => h.Off p v where
  ctx := fun h t c' tame w => by
    unfold Hall.Off at w ⊢
    rw [Hall.setCtx_get]
    split
    · next same =>
      subst same
      refine ⟨fun o ho => ?_, fun x hx => w.2 x (tame.2 x hx)⟩
      obtain ⟨o', ho', handle⟩ := tame.1 o ho
      rw [handle]
      exact w.1 o' ho'
    · exact w
  record := fun h k f _ w => by
    unfold Hall.Off at w ⊢
    rw [modRecord_ctx]
    exact w
  finish := fun h t k o _ w => by
    unfold Hall.Off at w ⊢
    rw [finishRecord_ctx]
    exact w
  notice := fun _ _ w => w
  send := fun _ _ _ w => w
  forget := fun _ w => w
  rest := fun _ _ c w => by
    unfold Hall.Off at w ⊢
    rw [c.ctx]
    exact w

/-! The place of another record is left. -/

theorem enterEnding_slot (off : h.Off p v) : (enterEnding e v h).slots.get p = h.slots.get p := by
  cases occ : (h.ctx.get v).occ with
  | none => rw [enterEnding_slots_none occ]
  | some o =>
    rw [enterEnding_slots occ]
    exact modRecord_slot _ (off.1 o occ)

theorem unwind_slot (off : h.Off p v) : (unwind e v h).slots.get p = h.slots.get p := by
  cases rf : (h.ctx.get v).state.rfMayBeOn
  · rw [unwind_idle_eq rf]
    exact finishIdle_slot_other (h := withdrawAll e v h) off.1
  · rw [unwind_ending_eq rf]
    have path : PathOnly v (withdrawAll e v h) (if (withdrawAll e v h).connectedClaim v
        then withdrawOps e v (withdrawAll e v h) else withdrawClaim e v (withdrawAll e v h)) := givenUp_path
    generalize (if (withdrawAll e v h).connectedClaim v
        then withdrawOps e v (withdrawAll e v h) else withdrawClaim e v (withdrawAll e v h)) = g at path
    have slots : g.slots = h.slots := by rw [path.eq]; rfl
    rw [enterEnding_slot ?_, slots]
    unfold Hall.Off Context.occ at off ⊢
    rw [path.own]
    exact off

theorem decideOutcome_off {x : OccOutcome} {why : Option Reason} {i : Nat} (off : h.Off p v) :
    (decideOutcome v x why i h).Off p v := (decideOutcome_stays (e := Env.powerUp Pins.released) v x why i
      ⟨off_stable p v, off⟩).holds

theorem takeBack_slot {x : OccOutcome} {why : Option Reason} {i : Nat} (off : h.Off p v) :
    (takeBack e v x why i h).slots.get p = h.slots.get p := by
  cases working : (h.ctx.get v).state.working
  · rw [takeBack_resting working]
  · rw [takeBack_working working]
    exact unwind_slot (h := endRun v _ (decideOutcome v _ _ _ h)) (decideOutcome_off off)

theorem dropKept_slot {x : OccOutcome} {why : Reason} (off : h.Off p v) :
    (dropKept e v x why h).slots.get p = h.slots.get p := by
  cases kept : (h.ctx.get v).kept with
  | none => rw [dropKept_none kept]
  | some y =>
    rw [dropKept_slots kept]
    exact finishRecord_slot (off.2 y kept)

/-! A pass over the contexts, as far as it concerns another one. -/

/-- A context stands as it was, and so does the record it keeps, with which no other context is concerned. -/
structure KeptAlone (v : Tx) (h g : Hall) : Prop where
  apart : Apart v h g
  off : ∀ x ∈ (h.ctx.get v).kept, ∀ t, t ≠ v → g.Off x.handle.place t
  slot : ∀ x ∈ (h.ctx.get v).kept, g.slots.get x.handle.place = h.slots.get x.handle.place

theorem KeptAlone.start (alone : h.keepsAlone v) : KeptAlone v h h :=
  ⟨.refl, fun x hx t ht => alone x hx t ht, fun _ _ => rfl⟩

/-- One step of a pass, on another context. -/
theorem KeptAlone.step {f : Hall → Tx → Hall} (w : KeptAlone v h g) (ht : t ≠ v) (apart : Apart v g (f g t))
    (stays : ∀ p u, g.Off p u → (f g t).Off p u) (slot : ∀ p, g.Off p t → (f g t).slots.get p = g.slots.get p) :
    KeptAlone v h (f g t) where
  apart := w.apart.trans apart
  off x hx u hu := stays _ u (w.off x hx u hu)
  slot x hx := (slot _ (w.off x hx t ht)).trans (w.slot x hx)

/-- The record that the context keeps is found as it was. -/
theorem KeptAlone.recordOf (w : KeptAlone v h g) {x : Kept} (kept : (h.ctx.get v).kept = some x) :
    g.recordOf x.handle = h.recordOf x.handle := by
  unfold Hall.recordOf Hall.recordAt
  rw [w.slot x kept]

end Sys2Proof.Machine
end

section
/-! PROOFS. The handover: set, cancelled, and taken (O26). -/

namespace Sys2Proof.Machine

variable {s : State} {e : Env} {h g a : Hall} {t u v : Tx} {p : PlaceNo} {o : Occ} {r : Record} {k : Bank}
  {f f' : Hall → Tx → Hall}

/-! A step that a pass takes on each context. -/

/-- A step on one context: it leaves the other contexts and the places its context is not concerned with. -/
structure Passing (e : Env) (f : Hall → Tx → Hall) : Prop where
  apart : ∀ h t v, v ≠ t → Apart v h (f h t)
  stays : ∀ h t P, Stays e P h → Stays e P (f h t)
  slot : ∀ h t p, h.Off p t → (f h t).slots.get p = h.slots.get p

theorem Passing.off (w : Passing e f) (off : h.Off p v) : (f h t).Off p v := (w.stays h t _ ⟨off_stable p v, off⟩).holds

theorem Passing.id : Passing e fun h _ => h := ⟨fun _ _ _ _ => .refl, fun _ _ _ w => w, fun _ _ _ _ => rfl⟩

theorem Passing.ite {c : Hall → Tx → Prop} [∀ h t, Decidable (c h t)] (w : Passing e f) (w' : Passing e f') :
    Passing e fun h t => if c h t then f h t else f' h t where
  apart h t v hv := .ite (w.apart h t v hv) (w'.apart h t v hv)
  stays h t P q := ite_stays (w.stays h t P q) (w'.stays h t P q)
  slot h t p off := by
    split
    · exact w.slot h t p off
    · exact w'.slot h t p off

theorem Passing.comp (w : Passing e f) (w' : Passing e f') : Passing e fun h t => f' (f h t) t where
  apart h t v hv := (w.apart h t v hv).trans (w'.apart _ t v hv)
  stays h t P q := w'.stays _ t P (w.stays h t P q)
  slot h t p off := (w'.slot _ t p (w.off off)).trans (w.slot h t p off)

theorem takeBack_passing {x : OccOutcome} {why : Option Reason} {i : Nat} :
    Passing e fun h t => takeBack e t x why i h :=
  ⟨fun _ _ _ hv => takeBack_apart hv, fun _ _ _ w => takeBack_stays _ _ _ _ w, fun _ _ _ off => takeBack_slot off⟩

theorem dropKept_passing {x : OccOutcome} {why : Reason} : Passing e fun h t => dropKept e t x why h :=
  ⟨fun _ _ _ hv => dropKept_apart hv, fun _ _ _ w => dropKept_stays _ _ _ w, fun _ _ _ off => dropKept_slot off⟩

/-- What a pass leaves of a context that alone is concerned with the record it keeps. -/
theorem Passing.stopped {occ : Occ → Option Decided} {run : Option RunResult} {kept : Kept → Option (OccOutcome × Reason)}
    (w : Passing e f) (alone : h.keepsAlone v) (own : ∀ g, KeptAlone v h g → Stopped g v occ run kept (f g v)) :
    Stopped h v occ run kept ((allFin 16).foldl f h) :=
  foldl_at (f := f) (I := KeptAlone v h) (R := Stopped h v occ run kept) (List.nodup_finRange 16) (List.mem_finRange v)
    (.start alone)
    (fun g t ht q => q.step ht (w.apart g t v ht.symm) (fun _ _ off => w.off off) fun p off => w.slot g t p off)
    (fun g q => (own g q).before q.apart) fun g t ht q => q.apart (w.apart g t v ht.symm)

theorem Passing.fold_stays {P : Hall → Prop} (w : Passing e f) (q : Stays e P h) : Stays e P ((allFin 16).foldl f h) :=
  foldl_stays _ _ q fun h t q => w.stays h t P q

/-! A context's kept occurrence of a bank, and what it works on (R11, R12). -/

/-- A record belongs to a bank. -/
def Hall.ofBank (h : Hall) (k : Bank) (i : Handle) : Bool := (h.recordOf i).any fun r => r.sched.bank = k

/-- The kept occurrence of a bank is dropped (R85). -/
def dropOfBank (e : Env) (k : Bank) (t : Tx) (h : Hall) : Hall :=
  if (h.ctx.get t).kept.any fun x => h.ofBank k x.handle then dropKept e t .aborted .handover h else h

theorem dropOfBank_passing : Passing e fun h t => dropOfBank e k t h := .ite dropKept_passing .id

/-- What is left of a context that a first step takes down, and whose kept occurrence of the bank goes after it. -/
theorem dropOfBank_stopped {occ : Occ → Option Decided} (alone : KeptAlone v h g)
    (working : (g.ctx.get v).state.working = true → (g.ctx.get v).kept = none →
      (a.ctx.get v).kept = none ∧ (∀ o, (g.ctx.get v).held = .occurrence o → OccStopped g v o (occ o) a) ∧
      ∀ row, (g.ctx.get v).held = .proving row → RunStopped g v row none a)
    (resting : (g.ctx.get v).state.working = false → a = g) :
    Stopped g v occ none (fun x => if h.ofBank k x.handle then some (.aborted, .handover) else none)
      (dropOfBank e k v a) := by
  unfold dropOfBank
  rw [stopped_iff]
  refine ⟨fun yes empty => ?_, fun no => ⟨fun empty => ?_, fun x kept => ?_⟩⟩
  · obtain ⟨none, stops⟩ := working yes empty
    rw [none]
    exact stops
  · rw [resting no, empty]
    exact ⟨rfl, rfl⟩
  · have record : g.ofBank k x.handle = h.ofBank k x.handle := by
      unfold Hall.ofBank
      rw [alone.recordOf (by rw [← alone.apart.ctx]; exact kept)]
    rw [resting no, kept, Option.any_some, record]
    split
    · exact dropKept_dropped kept
    · exact ⟨rfl, rfl⟩

theorem occ_any_occurrence {c : Context} {z : Occ → Bool} (held : c.held = .occurrence o) : c.occ.any z = z o := by
  rw [occ_of_held held]
  rfl

theorem occ_any_run {c : Context} {z : Occ → Bool} {row : Row} (held : c.held = .proving row) : c.occ.any z = false := by
  rw [Context.occ, held]
  rfl

/-! CANCEL HANDOVER (R12). -/

/-- The first step of CANCEL HANDOVER on a context. -/
def cancelHeld (e : Env) (h : Hall) (t : Tx) : Hall :=
  if (h.ctx.get t).occ.any fun o => o.bank == e.banks.standby then takeBack e t .aborted (some .handover) e.now h else h

theorem cancelContext_eq : cancelContext e t h = dropOfBank e e.banks.standby t (cancelHeld e h t) := rfl

theorem cancelContext_passing : Passing e fun h t => cancelContext e t h :=
  Passing.comp (f := cancelHeld e) (f' := fun h t => dropOfBank e e.banks.standby t h) (.ite takeBack_passing .id)
    dropOfBank_passing

theorem cancelContext_stopped (alone : KeptAlone v h g) : Stopped g v
    (fun o => if o.bank = e.banks.standby then some { outcome := .aborted, reason := some .handover, ended := e.now } else none)
    none (fun x => if h.ofBank e.banks.standby x.handle then some (.aborted, .handover) else none) (cancelContext e v g) := by
  rw [cancelContext_eq]
  refine dropOfBank_stopped alone (fun yes empty => ?_) fun no => ?_
  · obtain ⟨none, occurrence, -⟩ := takeBack_stops (e := e) (y := .aborted) (r := some .handover) (i := e.now) yes empty
    unfold cancelHeld
    refine ⟨?_, fun o held => ?_, fun row held => ?_⟩
    · split
      · exact none
      · exact empty
    · rw [occ_any_occurrence held]
      by_cases bank : o.bank = e.banks.standby
      · rw [if_pos bank, if_pos (by simpa using bank)]
        exact occurrence o held
      · rw [if_neg bank, if_neg (by simpa using bank)]
        exact ⟨rfl, rfl⟩
    · rw [occ_any_run held]
      exact ⟨rfl, rfl⟩
  · unfold cancelHeld
    rw [takeBack_resting no, ite_self]

/-! The handover (R11). -/

/-- The first step of the handover on a context. -/
def handOverHeld (e : Env) (old : Bank) (hh : Nat) (h : Hall) (t : Tx) : Hall :=
  if (h.ctx.get t).occ.any fun o => o.bank == old then
    if (h.ctx.get t).state = .onAir then enterEnding e t (decideOutcome t (h.ctx.get t).completeOr none hh h)
    else takeBack e t .aborted (some .handover) e.now h
  else h

theorem handoverContext_eq {hh : Nat} : handoverContext e k hh t h = dropOfBank e k t (handOverHeld e k hh h t) := rfl

theorem endAt_passing {hh : Nat} :
    Passing e fun h t => enterEnding e t (decideOutcome t (h.ctx.get t).completeOr none hh h) where
  apart _ _ _ hv := (decideOutcome_apart hv).trans (enterEnding_apart hv)
  stays _ _ _ w := enterEnding_stays _ (decideOutcome_stays _ _ _ _ w)
  slot _ _ _ off := enterEnding_slot (decideOutcome_off off)

theorem handoverContext_passing {hh : Nat} : Passing e fun h t => handoverContext e k hh t h :=
  Passing.comp (f := handOverHeld e k hh) (f' := fun h t => dropOfBank e k t h)
    (.ite (.ite endAt_passing takeBack_passing) .id) dropOfBank_passing

/-- What the handover decides of an occurrence of the old bank. -/
def Context.handedOver (c : Context) (hh now : Nat) : Decided :=
  if c.state = .onAir then { outcome := if c.lateSeconds = 0 then .complete else .late, reason := none, ended := hh }
  else { outcome := .aborted, reason := some .handover, ended := now }

/-- An ON_AIR occurrence that the handover ends (R11). -/
theorem endAt_takenBack {x : OccOutcome} {hh : Nat} (air : (g.ctx.get v).state = .onAir)
    (held : (g.ctx.get v).held = .occurrence o) :
    TakenBack g v o ⟨x, none, hh⟩ (enterEnding e v (decideOutcome v x none hh g)) := by
  refine ⟨enterEnding_dropped.1, enterEnding_dropped.2, ?_⟩
  rw [air, if_pos (c := CtxState.onAir.rfMayBeOn = true) rfl, enterEnding_self, decideOutcome_self held]
  exact ⟨rfl, held, rfl⟩

theorem handoverContext_stopped {hh : Nat} (alone : KeptAlone v h g) : Stopped g v
    (fun o => if o.bank = k then some ((g.ctx.get v).handedOver hh e.now) else none) none
    (fun x => if h.ofBank k x.handle then some (.aborted, .handover) else none) (handoverContext e k hh v g) := by
  rw [handoverContext_eq]
  refine dropOfBank_stopped alone (fun yes empty => ?_) fun no => ?_
  · obtain ⟨none, occurrence, -⟩ := takeBack_stops (e := e) (y := .aborted) (r := some .handover) (i := e.now) yes empty
    unfold handOverHeld
    refine ⟨?_, fun o held => ?_, fun row held => ?_⟩
    · split
      · split
        · rw [enterEnding_self]
          exact (decideOutcome_keepsRecords.kept v).trans empty
        · exact none
      · exact empty
    · rw [occ_any_occurrence held]
      by_cases bank : o.bank = k
      · rw [if_pos bank, if_pos (by simpa using bank)]
        unfold Context.handedOver
        by_cases air : (g.ctx.get v).state = .onAir
        · rw [if_pos air, if_pos air]
          exact endAt_takenBack air held
        · rw [if_neg air, if_neg air]
          exact occurrence o held
      · rw [if_neg bank, if_neg (by simpa using bank)]
        exact ⟨rfl, rfl⟩
    · rw [occ_any_run held]
      exact ⟨rfl, rfl⟩
  · unfold handOverHeld
    have air : (g.ctx.get v).state ≠ .onAir := fun air => by rw [air] at no; cases no
    rw [if_neg air, takeBack_resting no, ite_self]

/-! Records that the cancelled handover leaves DORMANT (R20). -/

theorem standby_eq (b : Banks) : b.standby = if b.live = .a then .b else .a := by
  unfold Banks.standby
  cases b.live <;> rfl

/-- Without a handover to come no occurrence of the other bank is eligible (R45). -/
theorem standing_standby (none : e.banks.handover = none) (other : r.sched.bank ≠ e.banks.live) :
    standing e r = .dormant := by
  have seam (i : Nat) : e.banks.seam r.sched.bank i = false := by
    unfold Banks.seam
    rw [none]
    simpa using other
  unfold standing nextOf firstEligible
  simp [seam]

theorem foldl_set_other {l : List PlaceNo} {slots z : Tab Slot 1024} (absent : p ∉ l) :
    (l.foldl (fun slots q => slots.set q (z.get q)) slots).get p = slots.get p := by
  induction l generalizing slots with
  | nil => rfl
  | cons q l ih =>
    rw [List.mem_cons, not_or] at absent
    exact (ih absent.2).trans (Tab.get_set_ne _ _ (Ne.symm absent.1))

theorem keptPlaces_uninvolved (free : h.uninvolved p) : p ∉ h.keptPlaces := by
  intro there
  obtain ⟨t, -, found⟩ := List.mem_filterMap.1 there
  obtain ⟨x, kept, found⟩ := Option.bind_eq_some_iff.1 found
  obtain ⟨-, -, place⟩ := Option.map_eq_some_iff.1 found
  exact (free t).2 x kept place

/-- A record that no changeover is concerned with takes its standing anew. -/
theorem restandAll_uninvolved (free : h.uninvolved p) : (restandAll e h).slots.get p =
    { h.slots.get p with record := (h.slots.get p).record.map (restand e) } := by
  unfold restandAll
  dsimp only
  rw [foldl_set_other (keptPlaces_uninvolved free)]
  exact Tab.get_map ..

theorem restandAll_ctx : (restandAll e h).ctx = h.ctx := rfl

theorem restandAll_base : (restandAll e h).base = h.base := rfl

theorem restandAll_free (free : h.uninvolved p) : (restandAll e h).uninvolved p := by
  unfold Hall.uninvolved
  rw [restandAll_ctx]
  exact free

/-! The requests (R10, R12). -/

theorem setHandover_spec (w : Received s) (x y z c : Byte) :
    let minute := z.toNat * 256 + c.toNat
    let hh := (x.toNat * 256 + y.toNat) * 86400 + minute * 60
    let p := [x, y, z, c]
    if 1439 < minute then RefusedWith (.setHandover p) .field s
    else if s.env.clock.valid = false then RefusedWith (.setHandover p) .notReady s
    else if s.env.banks.handover ≠ none then RefusedWith (.setHandover p) .busy s
    else if hh ≤ s.env.now then RefusedWith (.setHandover p) .field s
    else
      ∃ t, exec (.setHandover p) s = .next t ∧ AnswersOk s t (bInstant hh) ∧
        t.env = { s.env with due := t.env.due, banks := { s.env.banks with handover := some hh } } ∧
        t.hall.base = s.hall.base := by
  intro minute hh p
  have refuses (st : Status) (rule : setHandoverRule p s = refuse st) : RefusedWith (.setHandover p) st s :=
    refused_rule w rfl rfl rfl rule
  have rule : setHandoverRule p s =
      if 1439 < minute then refuse .field
      else if !s.env.clock.valid then refuse .notReady
      else if s.env.banks.handover.isSome then refuse .busy
      else if hh ≤ s.env.now then refuse .field
      else acceptEvent s true (s.modBanks fun b => { b with handover := some hh }).restanding fun _ => bInstant hh := rfl
  by_cases late : 1439 < minute
  · rw [if_pos late] at rule ⊢
    exact refuses _ rule
  rw [if_neg late] at rule ⊢
  by_cases invalid : s.env.clock.valid = false
  · rw [if_pos invalid]
    rw [if_pos (by rw [invalid]; rfl)] at rule
    exact refuses _ rule
  rw [if_neg invalid]
  rw [if_neg (by simpa using invalid)] at rule
  by_cases busy : s.env.banks.handover ≠ none
  · rw [if_pos busy]
    rw [if_pos (Option.isSome_iff_ne_none.2 busy)] at rule
    exact refuses _ rule
  rw [if_neg busy]
  rw [if_neg fun some => busy (Option.isSome_iff_ne_none.1 some)] at rule
  by_cases past : hh ≤ s.env.now
  · rw [if_pos past] at rule ⊢
    exact refuses _ rule
  rw [if_neg past] at rule ⊢
  obtain ⟨t, next, hall, env, answers⟩ := concluded_answers (c := .setHandover p) w rfl rfl rfl rule rfl rfl
  refine ⟨t, next, answers, ?_, ?_⟩
  · rw [env, conclude_env]
    rfl
  · rw [hall, conclude_base]
    rfl

/-- The environment after CANCEL HANDOVER, before the due list is found anew (R12). -/
def cancelledEnv (s : State) : Env :=
  { s.env with
    due := s.env.due.filter fun d => !s.hall.ofBank s.env.banks.standby d.handle
    banks := { s.env.banks with handover := none } }

/-- The contexts after CANCEL HANDOVER (R12). -/
def cancelledHall (s : State) : Hall := (allFin 16).foldl (fun h t => cancelContext (cancelledEnv s) t h) s.hall

theorem cancelHandoverRule_some (set : s.env.banks.handover ≠ none) : cancelHandoverRule s = acceptEvent s true
    { s with env := cancelledEnv s, hall := restandAll (cancelledEnv s) (cancelledHall s) } fun _ => [4] := by
  obtain ⟨hh, some⟩ := Option.ne_none_iff_exists'.1 set
  unfold cancelHandoverRule
  rw [some]
  rfl

theorem cancelHandoverRule_none (absent : s.env.banks.handover = none) : cancelHandoverRule s = accept s [3] := by
  unfold cancelHandoverRule
  rw [absent]
  rfl

theorem cancelledHall_base : (cancelledHall s).base = s.hall.base :=
  (cancelContext_passing.fold_stays (e := cancelledEnv s) ⟨base_stable s.hall.base, rfl⟩).holds

theorem cancelledHall_stopped (alone : s.hall.keepsAlone u) : Stopped s.hall u
    (fun o => if o.bank = s.env.banks.standby
      then some { outcome := .aborted, reason := some .handover, ended := s.env.now } else none)
    none (fun x => if s.hall.ofBank s.env.banks.standby x.handle then some (.aborted, .handover) else none)
    (cancelledHall s) :=
  cancelContext_passing.stopped alone fun _ w => cancelContext_stopped (e := cancelledEnv s) w

/-- A resting record of the STANDBY bank becomes DORMANT when the handover is cancelled (R20). -/
theorem cancelled_dormant {force : Bool} (free : s.hall.uninvolved p) (there : s.hall.recordAt p = some r)
    (bank : r.sched.bank = s.env.banks.standby) (rests : r.state = .waiting ∨ r.state = .dormant) :
    (conclude s force { s with env := cancelledEnv s, hall := restandAll (cancelledEnv s) (cancelledHall s) }).hall.recordAt p
      = some { r with state := .dormant } := by
  have passed : Stays (cancelledEnv s) (fun g => g.uninvolved p ∧ g.slots.get p = s.hall.slots.get p) (cancelledHall s) :=
    cancelContext_passing.fold_stays ⟨slot_stable p _, free, rfl⟩
  obtain ⟨free', slot⟩ := passed.holds
  have restood : (restandAll (cancelledEnv s) (cancelledHall s)).uninvolved p := restandAll_free free'
  have kept := (conclude_slot (b := s) (f := force) (s := { s with
    env := cancelledEnv s, hall := restandAll (cancelledEnv s) (cancelledHall s) }) restood).2
  have other : r.sched.bank ≠ (cancelledEnv s).banks.live := by
    show r.sched.bank ≠ s.env.banks.live
    rw [bank, standby_eq]
    cases s.env.banks.live <;> simp
  have dormant : restand (cancelledEnv s) r = { r with state := .dormant } := by
    unfold restand
    obtain state | state := rests <;> rw [state] <;> exact congrArg (fun z => { r with state := z }) (standing_standby rfl other)
  unfold Hall.recordAt at there ⊢
  rw [kept, restandAll_uninvolved free', slot, there, Option.map_some, dormant]

/-! The handover is taken (R11). -/

/-- The environment after the handover (R11). -/
def handedOverEnv (s : State) : Env :=
  { s.env with
    due := s.env.due.filter fun d => !s.hall.ofBank s.env.banks.live d.handle
    banks := { s.env.banks with live := if s.env.banks.live = .a then .b else .a, handover := none } }

/-- The contexts after the handover (R11). -/
def handedOverHall (hh : Nat) (s : State) : Hall :=
  (allFin 16).foldl (fun h t => handoverContext (handedOverEnv s) s.env.banks.live hh t h) (raiseNotice .handover s.hall)

theorem takeHandover_eq {hh : Nat} : takeHandover hh s = State.settled { s with
    env := handedOverEnv s
    hall := restandAll (handedOverEnv s) ((s.env.due.filter fun d => s.hall.ofBank s.env.banks.live d.handle).foldl
      (fun h d => finishRecord (handedOverEnv s) d.tx d.handle
        { outcome := .missed, reason := some .handover, start := d.start, late := 0, early := 0 } h)
      (handedOverHall hh s)) } := by
  unfold takeHandover
  dsimp only
  rw [standby_eq]
  rfl

theorem handedOverHall_notice {hh : Nat} : (handedOverHall hh s).noticeSet .handover = true :=
  (handoverContext_passing.fold_stays (e := handedOverEnv s) ⟨notice_stable .handover, noticeSet_raised ..⟩).holds

theorem handedOverHall_stopped {hh : Nat} (alone : s.hall.keepsAlone u) : Stopped s.hall u
    (fun o => if o.bank = s.env.banks.live then some ((s.hall.ctx.get u).handedOver hh s.env.now) else none) none
    (fun x => if s.hall.ofBank s.env.banks.live x.handle then some (.aborted, .handover) else none)
    (handedOverHall hh s) := by
  have raised : Apart u s.hall (raiseNotice .handover s.hall) := ⟨rfl, rfl, rfl, rfl⟩
  refine Stopped.before raised ?_
  refine handoverContext_passing.stopped (h := raiseNotice .handover s.hall) alone fun g w => ?_
  have own : g.ctx.get u = s.hall.ctx.get u := w.apart.ctx
  have stopped := handoverContext_stopped (e := handedOverEnv s) (k := s.env.banks.live) (hh := hh) w
  rw [own] at stopped
  exact stopped

/-- Settles O26: the handover set, cancelled and taken. -/
theorem handoverIsSetAndCancelled : Obligations.HandoverIsSetAndCancelled := by
  refine ⟨fun s w => ⟨setHandover_spec w, fun absent => ?_, fun set => ?_⟩, fun s => ⟨fun absent => ?_,
    fun hh set => ⟨fun future => ?_, fun come => ?_⟩⟩⟩
  · exact onlyAnswers_rule w rfl rfl rfl (cancelHandoverRule_none absent)
  · obtain ⟨t, next, hall, env, answers⟩ := concluded_answers (c := .cancelHandover []) w rfl rfl rfl
      (cancelHandoverRule_some set) rfl rfl
    dsimp only
    rw [← standby_eq]
    refine ⟨t, cancelledHall s, next, answers, ?_, ?_, ⟨true, hall, env⟩, fun u alone => ?_,
      fun p r free there bank rests => ?_⟩
    · rw [env, conclude_env]
      rfl
    · rw [hall, conclude_base]
      exact restandAll_base.trans cancelledHall_base
    · exact cancelledHall_stopped alone
    · rw [hall]
      exact cancelled_dormant free there bank rests
  · unfold handoverPhase
    rw [absent]
  · unfold handoverPhase
    rw [set]
    exact if_neg (by omega)
  · refine ⟨handedOverHall hh s, handedOverHall_notice, fun u alone => handedOverHall_stopped alone, ?_⟩
    have taken : handoverPhase s = takeHandover hh s := by
      unfold handoverPhase
      rw [set]
      exact if_pos come
    exact taken.trans takeHandover_eq

end Sys2Proof.Machine
end

section
/-! SUPPORT. What the work of a boundary leaves of the units, the counted minutes and the ON_AIR contexts, when the clean
minutes have been counted (R51, R52, R54, R79, R83). -/

namespace Sys2Proof.Machine

variable {s t d : State} {e : Env} {h g k : Hall} {u v : Tx} {i : Handle} {row : Row} {m : Nat}

/-- Work that scores no unit, counts no minute of a run, brings no context on air and clears no notice. -/
structure Countless (h g : Hall) : Prop where
  base : g.base = h.base
  air : ∀ t, (g.ctx.get t).state = .onAir → (h.ctx.get t).state = .onAir
  run : ∀ t, RunKept (h.runs.get t) (g.runs.get t)
  notice : ∀ n, h.noticeSet n = true → g.noticeSet n = true

namespace Countless

theorem refl (h : Hall) : Countless h h := ⟨rfl, fun _ => id, fun _ => .refl _, fun _ => id⟩

theorem trans (a : Countless h g) (b : Countless g k) : Countless h k where
  base := b.base.trans a.base
  air t w := a.air t (b.air t w)
  run t := (a.run t).trans (b.run t)
  notice n w := b.notice n (a.notice n w)

theorem ite {c : Prop} [Decidable c] (a : Countless h g) (b : Countless h k) : Countless h (if c then g else k) := by
  split <;> assumption

theorem foldl {β : Type} {f : Hall → β → Hall} (l : List β) (hf : ∀ h b, Countless h (f h b)) :
    Countless h (l.foldl f h) := by
  induction l generalizing h with
  | nil => exact refl h
  | cons b l ih => exact (hf h b).trans ih

/-- Work that leaves the contexts, the runs, the base and the flags. -/
theorem of_same (base : g.base = h.base) (ctx : g.ctx = h.ctx) (runs : g.runs = h.runs) (flags : g.flags = h.flags) :
    Countless h g where
  base := base
  air t w := by rwa [ctx] at w
  run t := by rw [runs]; exact .refl _
  notice n w := by unfold Hall.noticeSet at w ⊢; rwa [flags]

/-- Work of a settling. -/
theorem of_works (stays : ∀ P, Stays e P h → Stays e P g) (works : Works h g) : Countless h g where
  base := (stays _ ⟨base_stable h.base, rfl⟩).holds
  air := works.air
  run := works.run
  notice n w := (stays _ ⟨notice_stable n, w⟩).holds

/-- Work that ends or begins one context's changeover and leaves the runs. -/
theorem of_own (stays : ∀ P, Stays e P h → Stays e P g) (runs : g.runs = h.runs)
    (own : (g.ctx.get u).state ≠ .onAir) (others : ∀ v, v ≠ u → (g.ctx.get v).state = (h.ctx.get v).state) :
    Countless h g where
  base := (stays _ ⟨base_stable h.base, rfl⟩).holds
  air v w := by
    by_cases same : v = u
    · subst same
      exact absurd w own
    · rwa [others v same] at w
  run t := by rw [runs]; exact .refl _
  notice n w := (stays _ ⟨notice_stable n, w⟩).holds

end Countless

/-! The operations of a boundary on one context. -/

theorem settle_countless : Countless h (settle e h) where
  base := settle_base
  air t := settle_keeps (P := fun g => (g.ctx.get t).state = .onAir → (h.ctx.get t).state = .onAir)
    (fun _ _ works w air => w (works.air t air)) (fun _ _ w => w) id
  run t := settle_keeps (P := fun g => RunKept (h.runs.get t) (g.runs.get t)) (fun _ _ works w => w.trans (works.run t))
    (fun _ _ w => w) (.refl _)
  notice n := settle_notice n

theorem raiseNotice_countless {n : Notice} : Countless h (raiseNotice n h) :=
  ⟨rfl, fun _ => id, fun _ => .refl _, fun y => noticeSet_raise h n y⟩

theorem endRun_countless {r : RunResult} : Countless h (endRun u r h) :=
  .of_works (e := Env.powerUp Pins.released) (fun _ => endRun_stays _ _) endRun_works

theorem decideOutcome_countless {o : OccOutcome} {why : Option Reason} {n : Nat} :
    Countless h (decideOutcome u o why n h) :=
  .of_works (e := Env.powerUp Pins.released) (fun _ => decideOutcome_stays _ _ _ _) decideOutcome_works

theorem enterEnding_countless : Countless h (enterEnding e u h) :=
  .of_own (e := e) (u := u) (fun _ => enterEnding_stays _) enterEnding_runs
    (by rw [enterEnding_self]; exact CtxState.noConfusion) fun v hv => by rw [enterEnding_other hv]

theorem unwind_countless : Countless h (unwind e u h) := by
  refine .of_own (e := e) (u := u) (fun _ => unwind_stays _) unwind_runs ?_ fun v hv => by rw [unwind_other hv]
  cases rf : (h.ctx.get u).state.rfMayBeOn
  · rw [unwind_idle rf]
    exact CtxState.noConfusion
  · obtain ⟨b, own⟩ := unwind_ending (e := e) rf
    rw [own]
    exact CtxState.noConfusion

theorem takeBack_countless {o : OccOutcome} {why : Option Reason} {n : Nat} : Countless h (takeBack e u o why n h) :=
  .of_works (e := e) (fun _ => takeBack_stays _ _ _ _) takeBack_works

theorem dropKept_works {o : OccOutcome} {why : Reason} : Works h (dropKept e u o why h) := by
  cases kept : (h.ctx.get u).kept with
  | none =>
    rw [dropKept_none kept]
    exact .refl h
  | some y =>
    rw [dropKept_some kept]
    exact finishRecord_works.trans (modCtx_works fun _ => ⟨rfl, rfl⟩)

theorem dropKept_countless {o : OccOutcome} {why : Reason} : Countless h (dropKept e u o why h) :=
  .of_works (e := e) (fun _ => dropKept_stays _ _ _) dropKept_works

theorem handoverContext_countless {old : Bank} {hh : Nat} : Countless h (handoverContext e old hh u h) := by
  rw [handoverContext_eq]
  have held : Countless h (handOverHeld e old hh h u) :=
    .ite (.ite (decideOutcome_countless.trans enterEnding_countless) takeBack_countless) (.refl h)
  exact held.trans (.ite dropKept_countless (.refl _))

theorem finishRecord_countless {o : LastOutcome} : Countless h (finishRecord e u i o h) := by
  refine ⟨?_, finishRecord_works.air, finishRecord_works.run, fun n => finishRecord_notice _ _ _ _⟩
  rw [finishRecord_eq]
  rfl

theorem yieldRun_countless : Countless h (yieldRun e u h) := endRun_countless.trans unwind_countless

theorem rampStart_countless : Countless h (rampStart e u h) := by
  unfold rampStart
  refine .ite (.of_own (e := e) (u := u) (fun _ => enterRamping_stays _) rfl ?_ fun v hv => ?_) (.refl h)
  · show ((h.modCtx u _).ctx.get u).state ≠ .onAir
    rw [modCtx_self]
    exact CtxState.noConfusion
  · show ((h.modCtx u _).ctx.get v).state = _
    rw [modCtx_other hv]

theorem naturalEnd_countless : Countless h (naturalEnd e u h) := by
  have ends {o : OccOutcome} {why : Option Reason} {n : Nat} : Countless h (enterEnding e u (decideOutcome u o why n h)) :=
    decideOutcome_countless.trans enterEnding_countless
  have unwinds {o : OccOutcome} {why : Option Reason} {n : Nat} : Countless h (unwind e u (decideOutcome u o why n h)) :=
    decideOutcome_countless.trans unwind_countless
  unfold naturalEnd
  dsimp only
  split
  · exact .refl h
  · split
    · exact .refl h
    · split <;> first | exact ends | exact unwinds | exact .refl h

/-! A due entry is taken (R52, R70, R71). -/

theorem enterMuting_countless : Countless h (enterMuting e u h) := by
  refine .of_own (e := e) (u := u) (fun _ => enterMuting_stays _) rfl ?_ fun v hv => ?_
  · show ((h.modCtx u _).ctx.get u).state ≠ .onAir
    rw [modCtx_self]
    exact CtxState.noConfusion
  · show ((h.modCtx u _).ctx.get v).state = _
    rw [modCtx_other hv]

theorem enterPreparing_runs : (enterPreparing e u h).runs = h.runs := by
  cases held : (h.ctx.get u).held with
  | nothing =>
    unfold enterPreparing
    rw [held]
  | occurrence o =>
    rw [enterPreparing_occurrence held, claim_claimsOnly.runs]
    rfl
  | proving row => exact (enterPreparing_run_claims held).runs

theorem enterPreparing_others (hv : v ≠ u) : ((enterPreparing e u h).ctx.get v).state = (h.ctx.get v).state := by
  cases held : (h.ctx.get u).held with
  | nothing =>
    unfold enterPreparing
    rw [held]
  | occurrence o =>
    rw [enterPreparing_occurrence held, claim_claimsOnly.state]
    unfold beginTune handPreset
    rw [Hall.modLink_ctx, modCtx_other hv, modCtx_other hv]
  | proving row => rw [(enterPreparing_run_claims held).state, modCtx_other hv]

theorem enterPreparing_countless : Countless h (enterPreparing e u h) := by
  cases held : (h.ctx.get u).held with
  | nothing =>
    unfold enterPreparing
    rw [held]
    exact .refl h
  | occurrence o =>
    exact .of_own (e := e) (u := u) (fun _ => enterPreparing_stays _) enterPreparing_runs
      (by rw [(enterPreparing_prepares held).1]; exact CtxState.noConfusion) fun v => enterPreparing_others
  | proving row =>
    exact .of_own (e := e) (u := u) (fun _ => enterPreparing_stays _) enterPreparing_runs
      (by rw [enterPreparing_run_prepares held]; exact CtxState.noConfusion) fun v => enterPreparing_others

theorem beginHeld_countless : Countless h (beginHeld e u h) := .ite enterPreparing_countless enterMuting_countless

theorem store_countless {held : Held} {n : Nat} : Countless h (store e u held n h) where
  base := by
    rw [store_eq_ceiling, ceiling_eq, storing_eq]
    rfl
  air v w := by
    by_cases same : v = u
    · subst same
      rwa [store_self] at w
    · rwa [store_other same] at w
  run v := by
    rw [store_runs]
    exact .refl _
  notice n w := by
    have same : (store e u held ‹_› h).flags = h.flags := by rw [store_eq_ceiling, ceiling_eq, storing_eq]
    unfold Hall.noticeSet at w ⊢
    rwa [same]

theorem modRecord_countless {f : Record → Record} : Countless h (h.modRecord i f) := by
  rw [modRecord_eq]
  exact .of_same rfl rfl rfl rfl

theorem storeOccurrence_countless {start finish : Nat} : Countless h (storeOccurrence e u i start finish row h) := by
  unfold storeOccurrence
  split
  · exact .refl h
  · exact modRecord_countless.trans store_countless

theorem finishHeld_countless : Countless h (finishHeld e u h) :=
  .of_works (e := e) (fun _ => finishHeld_stays _) finishHeld_works

theorem modCtx_countless {f : Context → Context} (hf : ∀ c, (f c).state = c.state ∧ (f c).held = c.held) :
    Countless h (h.modCtx u f) := ⟨rfl, (modCtx_works hf).air, fun _ => .refl _, fun _ => id⟩

theorem takeEntry_countless {d : DueEntry} : Countless h (takeEntry e d h) := by
  unfold takeEntry
  split
  · exact .refl h
  · split
    · exact storeOccurrence_countless.trans beginHeld_countless
    · exact (decideOutcome_countless.trans finishHeld_countless).trans
        ((endRun_countless.trans storeOccurrence_countless).trans enterMuting_countless)
    · exact modCtx_countless fun _ => ⟨rfl, rfl⟩
    all_goals exact .refl h

theorem selectExercise_countless : Countless h (selectExercise m e h) := by
  refine .of_works (e := e) (fun _ => selectExercise_stays m) ?_
  unfold selectExercise
  dsimp only
  refine .ite ?_ (.refl h)
  split
  · exact .of_claims (.of_xps queueOp_xps) beginExercise_claimsOnly
  · exact .refl h

/-! The phases of a boundary. -/

theorem conclude_countless {b : State} {f : Bool} : Countless s.hall (conclude b f s).hall := by
  obtain same | same := conclude_hall (b := b) (f := f) (s := s) <;> rw [same]
  · exact settle_countless
  · exact settle_countless.trans raiseNotice_countless

theorem recompute_countless : Countless s.hall (recompute s).hall := by
  obtain same | same := recompute_hall s <;> rw [same]
  · exact .refl _
  · exact raiseNotice_countless

theorem phase_countless {f : Env → Hall → Hall} (w : ∀ e h, Countless h (f e h)) : Countless s.hall (phase f s).hall :=
  (w _ _).trans (conclude_countless (s := { s with hall := f s.env s.hall }))

theorem restandAll_countless : Countless h (restandAll e h) := .of_same rfl rfl rfl rfl

theorem handoverPhase_countless : Countless s.hall (handoverPhase s).hall := by
  unfold handoverPhase
  split
  · split
    · unfold takeHandover
      dsimp only
      exact ((raiseNotice_countless.trans (.foldl _ fun _ _ => handoverContext_countless)).trans
        (.foldl _ fun _ _ => finishRecord_countless)).trans (restandAll_countless.trans settle_countless)
    · exact .refl _
  · exact .refl _

theorem giveUpPhase_countless : Countless s.hall (giveUpPhase s).hall := by
  unfold giveUpPhase
  dsimp only
  split
  · exact .refl _
  · exact (Countless.foldl _ fun _ _ => finishRecord_countless).trans settle_countless

theorem startPhase_countless : Countless s.hall (startPhase s).hall := by
  unfold startPhase
  dsimp only
  refine Countless.trans ?_ conclude_countless
  exact (Countless.foldl _ fun _ _ => takeEntry_countless).trans (.foldl _ fun _ _ => yieldRun_countless)

theorem startsOf_countless {b : State} : Countless s.hall (startsOf b s).hall := by
  have listed : Countless s.hall
      (if plannerView s = plannerView b then s else refreshBlocked (recompute s)).hall := by
    split
    · exact .refl _
    · exact recompute_countless
  unfold startsOf
  dsimp only
  generalize (if plannerView s = plannerView b then s else refreshBlocked (recompute s)) = z at listed ⊢
  split
  · exact listed.trans startPhase_countless
  · exact (listed.trans startPhase_countless).trans recompute_countless

theorem rampsAndEnds_countless : Countless s.hall (rampsAndEnds s).hall := by
  have ramps : Countless s.hall (phase (fun e h => (allFin 16).foldl (fun h t => rampStart e t h) h) s).hall :=
    phase_countless fun e h => .foldl (f := fun h t => rampStart e t h) (allFin 16) fun _ _ => rampStart_countless
  unfold rampsAndEnds
  dsimp only
  generalize phase (fun e h => (allFin 16).foldl (fun h t => rampStart e t h) h) s = x at ramps
  exact ramps.trans (phase_countless fun e h =>
    .foldl (f := fun h t => naturalEnd e t h) (allFin 16) fun _ _ => naturalEnd_countless)

theorem refreshBlocked_hall : (refreshBlocked s).hall = s.hall := rfl

/-- The first part of a boundary, after the clean minutes. -/
theorem beforeStarts_countless : Countless (cleanMinutes s.env m s.hall) (beforeStarts (some m) s).hall := by
  have settled : Countless (cleanMinutes s.env m s.hall) (State.settled { s with hall := cleanMinutes s.env m s.hall }).hall :=
    settle_countless
  unfold beforeStarts
  dsimp only
  generalize State.settled { s with hall := cleanMinutes s.env m s.hall } = x at settled
  refine (settled.trans handoverPhase_countless).trans ?_
  generalize handoverPhase x = y
  have given := giveUpPhase_countless (s := refreshBlocked y)
  rwa [refreshBlocked_hall] at given

/-- After its clean minutes a minute boundary scores and counts nothing. -/
theorem secondBoundary_countless : Countless (cleanMinutes s.env m s.hall) (secondBoundary (some m) s).hall := by
  unfold secondBoundary
  dsimp only
  refine beforeStarts_countless.trans ?_
  generalize beforeStarts (some m) s = x
  refine (startsOf_countless (b := s)).trans (rampsAndEnds_countless.trans ?_)
  generalize rampsAndEnds (startsOf s x) = y
  refine restandAll_countless.trans ((recompute_countless (s := { y with hall := restandAll y.env y.hall })).trans ?_)
  generalize recompute { y with hall := restandAll y.env y.hall } = z
  exact phase_countless fun _ _ => selectExercise_countless

end Sys2Proof.Machine
end

section
/-! SUPPORT. The clean minutes of a minute boundary (R169, R170, R177). -/

namespace Sys2Proof.Machine

variable {s : State} {e : Env} {h g : Hall} {t u v : Tx} {w x : HallUnit} {m : Nat} {a : Ant} {row : Row}

/-! A clean minute of a unit. -/

/-- What a clean minute leaves of a unit's record (R169, R170). -/
def UnitRec.cleaned (r : UnitRec) : UnitRec :=
  match r.service with
  | .barred | .out => r
  | .normal | .watch | .reduced => { r with score := r.score - 1, service := serviceOf (r.score - 1) }
  | .proving =>
    if 20 ≤ r.provingMinutes + 1 then { r with service := .normal, provingMinutes := 0 }
    else { r with provingMinutes := r.provingMinutes + 1 }

/-- A unit's record is set, and no other; notices are raised at most. -/
structure UnitSet (w : HallUnit) (r : UnitRec) (h g : Hall) : Prop where
  unit : g.unit w = r
  others : ∀ x, x ≠ w → g.unit x = h.unit x
  ctx : g.ctx = h.ctx
  runs : g.runs = h.runs
  ages : g.ages = h.ages
  notice : ∀ n, h.noticeSet n = true → g.noticeSet n = true

theorem UnitSet.refl : UnitSet w (h.unit w) h h := ⟨rfl, fun _ _ => rfl, rfl, rfl, rfl, fun _ => id⟩

theorem setUnit_set {r : UnitRec} : UnitSet w r h (h.setUnit w r) :=
  ⟨setUnit_unit, fun _ hx => setUnit_unit_other hx, setUnit_ctx .., setUnit_runs .., setUnit_ages, fun n => by
    cases w <;> exact id⟩

theorem UnitSet.raise {r : UnitRec} {n : Notice} (z : UnitSet w r h g) : UnitSet w r h (raiseNotice n g) :=
  ⟨(by cases w <;> exact z.unit), fun y hy => (by cases y <;> exact z.others _ hy), z.ctx, z.runs, z.ages,
    fun y set => noticeSet_raise _ _ _ (z.notice y set)⟩

/-- A unit that is in no latched state takes its state from its new score (R170). -/
theorem restate_set {r : UnitRec} (free : r.service.latched = false) :
    UnitSet w { r with service := serviceOf r.score } h (restate w (h.setUnit w r)) := by
  have twice : UnitSet w { r with service := serviceOf r.score } h
      ((h.setUnit w r).setUnit w { r with service := serviceOf r.score }) := by
    have first := setUnit_set (w := w) (h := h) (r := r)
    have second := setUnit_set (w := w) (h := h.setUnit w r) (r := { r with service := serviceOf r.score })
    exact ⟨second.unit, fun y hy => (second.others y hy).trans (first.others y hy), second.ctx.trans first.ctx,
      second.runs.trans first.runs, second.ages.trans first.ages, fun n set => second.notice n (first.notice n set)⟩
  rw [restate_eq, setUnit_unit, if_neg (by rw [free]; exact Bool.false_ne_true)]
  dsimp only
  split
  · exact twice.raise
  · exact twice

/-- An unlatched unit loses a point of its score and takes its state from what is left. -/
theorem UnitRec.cleaned_free {r : UnitRec} (free : r.service.latched = false) :
    r.cleaned = { r with score := r.score - 1, service := serviceOf (r.score - 1) } := by
  obtain ⟨score, service, minutes⟩ := r
  cases service with
  | normal | watch | reduced => rfl
  | barred | proving | out => cases free

theorem cleanUnit_free (free : (h.unit w).service.latched = false) :
    cleanUnit w h = restate w (h.setUnit w { h.unit w with score := (h.unit w).score - 1 }) := by
  unfold cleanUnit
  generalize h.unit w = r at free
  obtain ⟨score, service, minutes⟩ := r
  cases service with
  | normal | watch | reduced => rfl
  | barred | proving | out => cases free

theorem cleanUnit_set : UnitSet w (h.unit w).cleaned h (cleanUnit w h) := by
  cases free : (h.unit w).service.latched
  · rw [UnitRec.cleaned_free free, cleanUnit_free free]
    exact restate_set (r := { h.unit w with score := (h.unit w).score - 1 }) free
  · unfold cleanUnit UnitRec.cleaned
    dsimp only
    cases service : (h.unit w).service <;> rw [service] at free <;> dsimp only
    case barred => exact .refl
    case out => exact .refl
    case proving =>
      split
      · exact setUnit_set.raise
      · exact setUnit_set
    all_goals cases free

theorem cleanUnit_proven (proving : (h.unit w).service = .proving) (last : 20 ≤ (h.unit w).provingMinutes + 1) :
    (cleanUnit w h).noticeSet .proven = true := by
  unfold cleanUnit
  dsimp only
  rw [proving]
  dsimp only
  rw [if_pos last]
  exact noticeSet_raised ..

/-! A clean minute of a proving run (R176, R177). -/

/-- What a clean minute leaves of a proving run record. -/
def RunRec.cleaned (r : RunRec) : RunRec :=
  if 20 ≤ r.minutes + 1 then ({ r with minutes := r.minutes + 1 } : RunRec).ended .passed
  else { r with minutes := r.minutes + 1 }

/-- What a clean minute leaves of a transmitter and of the rest of the hall. -/
structure RunCleaned (t : Tx) (h g : Hall) : Prop where
  held : ∀ v, (g.ctx.get v).held = (h.ctx.get v).held
  others : ∀ v, v ≠ t → g.ctx.get v = h.ctx.get v ∧ g.runs.get v = h.runs.get v
  units : ∀ x, g.unit x = h.unit x
  ages : g.ages = h.ages
  notice : ∀ n, h.noticeSet n = true → g.noticeSet n = true
  counts : ∀ row, (h.ctx.get t).held = .proving row → g.runs.get t = (h.runs.get t).cleaned ∧
    (20 ≤ (h.runs.get t).minutes + 1 → (g.ctx.get t).state ≠ .onAir)

/-- The minute counted. -/
def countMinute (t : Tx) (h : Hall) : Hall := { h with runs := h.runs.modify t fun w => { w with minutes := w.minutes + 1 } }

theorem countMinute_self : (countMinute t h).runs.get t = { h.runs.get t with minutes := (h.runs.get t).minutes + 1 } :=
  Tab.get_modify_same ..

theorem countMinute_other (hv : v ≠ t) : (countMinute t h).runs.get v = h.runs.get v := Tab.get_modify_ne _ _ hv.symm

theorem run_of_held (proving : (h.ctx.get t).held = .proving row) : (h.ctx.get t).run.isSome = true := by
  unfold Context.run
  rw [proving]
  rfl

theorem cleanRun_eq : cleanRun e t h = if (h.ctx.get t).run.isSome then
    if 20 ≤ (h.runs.get t).minutes + 1 then enterEnding e t (endRun t .passed (countMinute t h)) else countMinute t h
    else h := by
  have counted : 20 ≤ ((countMinute t h).runs.get t).minutes ↔ 20 ≤ (h.runs.get t).minutes + 1 := by rw [countMinute_self]
  rw [← ite_congr (propext counted) (fun _ => rfl) fun _ => rfl]
  rfl

theorem cleanRun_cleaned : RunCleaned t h (cleanRun e t h) := by
  rw [cleanRun_eq]
  split
  · split
    · next last =>
      have apart (v : Tx) (hv : v ≠ t) : Apart v (endRun t .passed (countMinute t h))
          (enterEnding e t (endRun t .passed (countMinute t h))) := enterEnding_apart hv
      have base : (enterEnding e t (endRun t .passed (countMinute t h))).base = h.base :=
        enterEnding_countless.base
      refine ⟨fun v => ?_, fun v hv => ⟨(apart v hv).ctx, ?_⟩, fun x => unit_of_base base, congrArg Base.ages base,
        fun n set => enterEnding_countless.notice n set, fun row proving => ⟨?_, fun _ => ?_⟩⟩
      · by_cases same : v = t
        · subst same
          rw [enterEnding_self]
          rfl
        · rw [(apart v same).ctx]
          rfl
      · rw [(apart v hv).runs, endRun_other hv, countMinute_other hv]
      · rw [enterEnding_runs, endRun_self, countMinute_self, RunRec.cleaned, if_pos last]
      · rw [enterEnding_self]
        exact CtxState.noConfusion
    · next few =>
      refine ⟨fun _ => rfl, fun v hv => ⟨rfl, countMinute_other hv⟩, fun x => by cases x <;> rfl, rfl, fun _ => id,
        fun row proving => ⟨?_, fun last => absurd last few⟩⟩
      rw [countMinute_self, RunRec.cleaned, if_neg few]
  · next none =>
    exact ⟨fun _ => rfl, fun _ _ => ⟨rfl, rfl⟩, fun _ => rfl, rfl, fun _ => id,
      fun row proving => absurd (run_of_held proving) none⟩

/-! The clean minute of one context. -/

/-- The antenna of what a context holds. -/
def heldAnt (h : Hall) (t : Tx) : Option Ant := ((h.ctx.get t).heldRow).bind rowAnt

/-- A clean minute of a context: of its transmitter, of its antenna, of its proving run. -/
def cleanContext (e : Env) (h : Hall) (t : Tx) : Hall :=
  cleanRun e t (match heldAnt h t with
    | some a => cleanUnit (.ant a) (cleanUnit (.tx t) h)
    | none => cleanUnit (.tx t) h)

theorem cleanMinutes_eq : cleanMinutes e m h = ((allFin 16).filter (cleanAt h m)).foldl (cleanContext e) h := rfl

theorem antRow_of (a : Ant) : rowAnt (antRow a) = some a := by
  unfold rowAnt antRow below
  simp

theorem heldAnt_iff : heldAnt h t = some a ↔ (h.ctx.get t).heldRow = some (antRow a) := by
  unfold heldAnt
  rw [Option.bind_eq_some_iff]
  constructor
  · rintro ⟨row, held, ant⟩
    rw [held]
    unfold rowAnt below at ant
    split at ant
    · cases ant
      rfl
    · cases ant
  · intro held
    exact ⟨_, held, antRow_of a⟩

/-- What a clean minute of a context leaves. -/
structure ContextCleaned (t : Tx) (h g : Hall) : Prop where
  held : ∀ v, (g.ctx.get v).held = (h.ctx.get v).held
  others : ∀ v, v ≠ t → g.ctx.get v = h.ctx.get v ∧ g.runs.get v = h.runs.get v
  ages : g.ages = h.ages
  notice : ∀ n, h.noticeSet n = true → g.noticeSet n = true
  counts : ∀ row, (h.ctx.get t).held = .proving row → g.runs.get t = (h.runs.get t).cleaned ∧
    (20 ≤ (h.runs.get t).minutes + 1 → (g.ctx.get t).state ≠ .onAir)
  tx : g.unit (.tx t) = (h.unit (.tx t)).cleaned
  txOthers : ∀ v, v ≠ t → g.unit (.tx v) = h.unit (.tx v)
  ant : ∀ a, (h.ctx.get t).heldRow = some (antRow a) → g.unit (.ant a) = (h.unit (.ant a)).cleaned
  antOthers : ∀ a, (h.ctx.get t).heldRow ≠ some (antRow a) → g.unit (.ant a) = h.unit (.ant a)
  proven : (h.unit (.tx t)).service = .proving → 20 ≤ (h.unit (.tx t)).provingMinutes + 1 → g.noticeSet .proven = true

theorem cleanContext_cleaned : ContextCleaned t h (cleanContext e h t) := by
  have first := cleanUnit_set (w := .tx t) (h := h)
  have proven := cleanUnit_proven (w := .tx t) (h := h)
  unfold cleanContext
  cases ant : heldAnt h t with
  | none =>
    dsimp only
    have run := cleanRun_cleaned (e := e) (t := t) (h := cleanUnit (.tx t) h)
    generalize cleanRun e t (cleanUnit (.tx t) h) = g at run
    have counts := run.counts
    rw [first.ctx, first.runs] at counts
    refine ⟨fun v => by rw [run.held, first.ctx], fun v hv => by rw [(run.others v hv).1, (run.others v hv).2, first.ctx, first.runs]; exact ⟨rfl, rfl⟩,
      run.ages.trans first.ages, fun n set => run.notice n (first.notice n set), counts, (run.units _).trans first.unit,
      fun v hv => (run.units _).trans (first.others _ (by simpa using hv)), fun a held => ?_,
      fun a _ => (run.units _).trans (first.others _ (by simp)), fun proving last => run.notice _ (proven proving last)⟩
    rw [heldAnt_iff.2 held] at ant
    cases ant
  | some b =>
    dsimp only
    have second := cleanUnit_set (w := .ant b) (h := cleanUnit (.tx t) h)
    rw [first.others (.ant b) (by simp)] at second
    have run := cleanRun_cleaned (e := e) (t := t) (h := cleanUnit (.ant b) (cleanUnit (.tx t) h))
    generalize cleanRun e t (cleanUnit (.ant b) (cleanUnit (.tx t) h)) = g at run
    have counts := run.counts
    rw [second.ctx, second.runs, first.ctx, first.runs] at counts
    have row : (h.ctx.get t).heldRow = some (antRow b) := heldAnt_iff.1 ant
    refine ⟨fun v => by rw [run.held, second.ctx, first.ctx], fun v hv => by
        rw [(run.others v hv).1, (run.others v hv).2, second.ctx, second.runs, first.ctx, first.runs]; exact ⟨rfl, rfl⟩,
      run.ages.trans (second.ages.trans first.ages), fun n set => run.notice n (second.notice n (first.notice n set)), counts,
      ((run.units _).trans (second.others _ (by simp))).trans first.unit,
      fun v hv => ((run.units _).trans (second.others _ (by simp))).trans (first.others _ (by simpa using hv)),
      fun a held => ?_, fun a other => ((run.units _).trans (second.others _ fun same => other ?_)).trans (first.others _ (by simp)),
      fun proving last => run.notice _ (second.notice _ (proven proving last))⟩
    · rw [heldAnt_iff.2 held] at ant
      cases ant
      exact (run.units _).trans second.unit
    · cases same
      exact row

end Sys2Proof.Machine
end

section
/-! SUPPORT. The clean minutes of all the contexts, and the candidate that an auto exercise takes (R169, R188). -/

namespace Sys2Proof.Machine

variable {s : State} {e : Env} {h g : Hall} {u v : Tx} {x y : Xp} {m : Nat} {a : Ant} {row : Row}

/-! The pass over the contexts that have a clean minute. -/

/-- As `foldl_at`, for steps that may ask for members of the list. -/
theorem foldl_at_mem {α : Type} {f : Hall → α → Hall} {l : List α} {a : α} {I R : Hall → Prop} (once : l.Nodup) (ha : a ∈ l)
    (start : I h) (before : ∀ g, ∀ b ∈ l, b ≠ a → I g → I (f g b)) (own : ∀ g, I g → R (f g a))
    (after : ∀ g, ∀ b ∈ l, b ≠ a → R g → R (f g b)) : R (l.foldl f h) := by
  rw [← List.foldl_attach]
  exact foldl_at (f := fun g (b : { b // b ∈ l }) => f g b.1) (a := ⟨a, ha⟩) (List.nodup_attach.2 once)
    (List.mem_attach ..) start (fun g b hb => before g b.1 b.2 fun same => hb (Subtype.ext same)) own
    fun g b hb => after g b.1 b.2 fun same => hb (Subtype.ext same)

theorem cleanAt_iff : cleanAt h m u = true ↔
    (h.ctx.get u).state = .onAir ∧ ∃ b, (h.ctx.get u).spellBegan = some b ∧ b + 60 ≤ m := by
  simp [cleanAt, Option.any_eq_true]

/-- The contexts that have a clean minute at the boundary, in transmitter order. -/
def cleanOnes (h : Hall) (m : Nat) : List Tx := (allFin 16).filter (cleanAt h m)

theorem mem_cleanOnes : u ∈ cleanOnes h m ↔ cleanAt h m u = true := by
  simp [cleanOnes, allFin]

theorem cleanOnes_nodup : (cleanOnes h m).Nodup := (List.nodup_finRange 16).filter _

theorem heldRow_of_held {c c' : Context} (same : c'.held = c.held) : c'.heldRow = c.heldRow := by
  unfold Context.heldRow
  rw [same]

theorem cleanMinutes_ages : (cleanMinutes e m h).ages = h.ages := by
  rw [cleanMinutes_eq]
  exact List.foldlRecOn (motive := fun g : Hall => g.ages = h.ages) _ _ rfl fun _ w _ _ => cleanContext_cleaned.ages.trans w

/-- A transmitter without a clean minute. -/
theorem cleanMinutes_spared (unclean : ¬cleanAt h m u = true) : (cleanMinutes e m h).unit (.tx u) = h.unit (.tx u) ∧
    (cleanMinutes e m h).runs.get u = h.runs.get u := by
  rw [cleanMinutes_eq]
  refine List.foldlRecOn (motive := fun g : Hall => g.unit (.tx u) = h.unit (.tx u) ∧ g.runs.get u = h.runs.get u) _ _
    ⟨rfl, rfl⟩ fun g w v hv => ?_
  have apart : u ≠ v := fun same => unclean (mem_cleanOnes.1 (same ▸ hv))
  have step := cleanContext_cleaned (e := e) (t := v) (h := g)
  exact ⟨(step.txOthers u apart).trans w.1, (step.others u apart).2.trans w.2⟩

/-- What a clean minute leaves of the transmitter it is of. -/
structure TxCleaned (u : Tx) (h g : Hall) : Prop where
  unit : g.unit (.tx u) = (h.unit (.tx u)).cleaned
  proven : (h.unit (.tx u)).service = .proving → 20 ≤ (h.unit (.tx u)).provingMinutes + 1 → g.noticeSet .proven = true
  run : ∀ row, (h.ctx.get u).held = .proving row → g.runs.get u = (h.runs.get u).cleaned ∧
    (20 ≤ (h.runs.get u).minutes + 1 → (g.ctx.get u).state ≠ .onAir)

theorem cleanMinutes_cleaned (clean : cleanAt h m u = true) : TxCleaned u h (cleanMinutes e m h) := by
  rw [cleanMinutes_eq]
  refine foldl_at (a := u) (I := fun g => g.unit (.tx u) = h.unit (.tx u) ∧ g.ctx.get u = h.ctx.get u ∧
    g.runs.get u = h.runs.get u) cleanOnes_nodup (mem_cleanOnes.2 clean) ⟨rfl, rfl, rfl⟩ (fun g v hv w => ?_)
    (fun g w => ?_) fun g v hv w => ?_
  · have step := cleanContext_cleaned (e := e) (t := v) (h := g)
    obtain ⟨unit, ctx, run⟩ := w
    obtain ⟨ctx', run'⟩ := step.others u hv.symm
    exact ⟨(step.txOthers u hv.symm).trans unit, ctx'.trans ctx, run'.trans run⟩
  · have step := cleanContext_cleaned (e := e) (t := u) (h := g)
    obtain ⟨unit, ctx, run⟩ := w
    have tx := step.tx
    have proven := step.proven
    have counts := step.counts
    rw [unit] at tx proven
    rw [ctx, run] at counts
    exact ⟨tx, proven, counts⟩
  · have step := cleanContext_cleaned (e := e) (t := v) (h := g)
    refine ⟨(step.txOthers u hv.symm).trans w.unit, fun proving last => step.notice _ (w.proven proving last),
      fun row held => ?_⟩
    rw [(step.others u hv.symm).1, (step.others u hv.symm).2]
    exact w.run row held

/-- An antenna that no clean context holds. -/
theorem cleanMinutes_ant_spared (unheld : ∀ v, cleanAt h m v = true → (h.ctx.get v).heldRow ≠ some (antRow a)) :
    (cleanMinutes e m h).unit (.ant a) = h.unit (.ant a) := by
  rw [cleanMinutes_eq]
  refine (List.foldlRecOn (motive := fun g : Hall => g.unit (.ant a) = h.unit (.ant a) ∧
    ∀ v, (g.ctx.get v).held = (h.ctx.get v).held) _ _ ⟨rfl, fun _ => rfl⟩ fun g w v hv => ?_).1
  have step := cleanContext_cleaned (e := e) (t := v) (h := g)
  have other : (g.ctx.get v).heldRow ≠ some (antRow a) := by
    rw [heldRow_of_held (w.2 v)]
    exact unheld v (mem_cleanOnes.1 hv)
  exact ⟨(step.antOthers a other).trans w.1, fun z => (step.held z).trans (w.2 z)⟩

/-- An antenna that one clean context holds. -/
theorem cleanMinutes_ant_cleaned (clean : cleanAt h m u = true) (held : (h.ctx.get u).heldRow = some (antRow a))
    (only : ∀ v, cleanAt h m v = true → (h.ctx.get v).heldRow = some (antRow a) → v = u) :
    (cleanMinutes e m h).unit (.ant a) = (h.unit (.ant a)).cleaned := by
  have other {g : Hall} {v : Tx} (w : ∀ z, (g.ctx.get z).held = (h.ctx.get z).held) (hv : v ∈ cleanOnes h m) (apart : v ≠ u) :
      (g.ctx.get v).heldRow ≠ some (antRow a) := by
    rw [heldRow_of_held (w v)]
    exact fun same => apart (only v (mem_cleanOnes.1 hv) same)
  rw [cleanMinutes_eq]
  refine (foldl_at_mem (a := u) (l := cleanOnes h m)
    (I := fun g => g.unit (.ant a) = h.unit (.ant a) ∧ ∀ v, (g.ctx.get v).held = (h.ctx.get v).held)
    (R := fun g => g.unit (.ant a) = (h.unit (.ant a)).cleaned ∧ ∀ v, (g.ctx.get v).held = (h.ctx.get v).held)
    cleanOnes_nodup (mem_cleanOnes.2 clean) ⟨rfl, fun _ => rfl⟩ (fun g v hv apart w => ?_) (fun g w => ?_)
    fun g v hv apart w => ?_).1
  · have step := cleanContext_cleaned (e := e) (t := v) (h := g)
    exact ⟨(step.antOthers a (other w.2 hv apart)).trans w.1, fun z => (step.held z).trans (w.2 z)⟩
  · have step := cleanContext_cleaned (e := e) (t := u) (h := g)
    have own := step.ant a (by rw [heldRow_of_held (w.2 u), held])
    rw [w.1] at own
    exact ⟨own, fun z => (step.held z).trans (w.2 z)⟩
  · have step := cleanContext_cleaned (e := e) (t := v) (h := g)
    exact ⟨(step.antOthers a (other w.2 hv apart)).trans w.1, fun z => (step.held z).trans (w.2 z)⟩

theorem RunRec.cleaned_minutes (r : RunRec) : r.cleaned.minutes = r.minutes + 1 := by
  unfold RunRec.cleaned RunRec.ended
  dsimp only
  (repeat' split) <;> rfl

theorem RunRec.cleaned_passed {r : RunRec} (running : r.running = true) (last : 20 ≤ r.minutes + 1) :
    r.cleaned.running = false ∧ r.cleaned.result = .passed := by
  unfold RunRec.cleaned RunRec.ended
  dsimp only
  rw [if_pos last, if_pos running]
  exact ⟨rfl, rfl⟩

/-! The candidate of auto exercise (R188). -/

theorem candidate_iff : candidate m e h x = true ↔
    e.tables.interval * 60 ≤ h.age x ∧ h.isOpen x = true ∧ (∀ y : Xp, y.row = x.row ∨ y.tx = x.tx →
      (h.xp y).stuck = false ∧ h.isOpen y = true ∧ ∀ n ∈ h.queue, n.xp ≠ y) ∧
    h.res x.row = .free ∧ h.stray.get x.row = false ∧ e.pins.rf.get x.row = false ∧ rfOff e h x.tx = true ∧
    h.connection x.tx = none ∧ (h.ctx.get x.tx).state = .idle ∧ ∀ d ∈ e.due, d.tx = x.tx → m + 600 < d.beginAt := by
  have list : (e.due.all fun d => d.tx != x.tx || decide (m + 600 < d.beginAt)) = true ↔
      ∀ d ∈ e.due, d.tx = x.tx → m + 600 < d.beginAt := by
    simp only [List.all_eq_true, Bool.or_eq_true, bne_iff_ne, decide_eq_true_eq, ← imp_iff_not_or]
  unfold candidate
  simp only [Bool.and_eq_true, decide_eq_true_eq, exercisable_iff, Bool.not_eq_true', busyXp_iff, Option.isNone_iff_eq_none,
    beq_iff_eq, list, isOpen_iff, rfOff_iff]
  constructor
  · rintro ⟨⟨⟨⟨⟨age, opened, free, stray, rf, unstuck, clear, off⟩, unasked⟩, apart⟩, idle⟩, due⟩
    refine ⟨age, opened, fun y near => ⟨unstuck y near, ?_⟩, free, stray, rf, off, apart, idle, due⟩
    by_cases same : y = x
    · rw [same]
      exact ⟨opened, unasked⟩
    · exact clear y same near
  · rintro ⟨age, opened, near, free, stray, rf, off, apart, idle, due⟩
    exact ⟨⟨⟨⟨⟨age, opened, free, stray, rf, fun y hy => (near y hy).1, fun y _ hy => (near y hy).2, off⟩,
      (near x (.inl rfl)).2.2⟩, apart⟩, idle⟩, due⟩

/-! The candidate that is taken: the greatest age, then the lowest row, then the lowest column (R188). -/

/-- A crosspoint stands before another in row-major order. -/
def RowMajor (x y : Xp) : Prop := x.row < y.row ∨ (x.row = y.row ∧ x.tx < y.tx)

theorem RowMajor.irrefl (x : Xp) : ¬RowMajor x x := fun w => w.elim (lt_irrefl _) fun w => lt_irrefl _ w.2

theorem RowMajor.asymm (w : RowMajor x y) : ¬RowMajor y x := by
  simp only [RowMajor, Fin.lt_def, Fin.ext_iff] at *
  omega

theorem xpAt_before {i j : Fin 416} (w : i < j) : RowMajor (xpAt i) (xpAt j) := by
  simp only [RowMajor, xpAt, Fin.mk_lt_mk, Fin.mk.injEq]
  omega

/-- The candidates in row-major order. -/
def candidates (m : Nat) (e : Env) (h : Hall) : List Xp := ((allFin 416).map xpAt).filter fun x => candidate m e h x

theorem mem_candidates : x ∈ candidates m e h ↔ candidate m e h x = true := by
  obtain ⟨i, rfl⟩ := xpAt_of x
  simp only [candidates, List.mem_filter, List.mem_map, and_iff_right_iff_imp]
  exact fun _ => ⟨i, List.mem_finRange i, rfl⟩

theorem candidates_ordered : (candidates m e h).Pairwise RowMajor :=
  ((List.pairwise_map.2 ((List.pairwise_lt_finRange 416).imp xpAt_before))).filter _

/-- The older of the best so far and the next; the best so far at equal age. -/
def olderOf (h : Hall) (best : Option Xp) (x : Xp) : Option Xp :=
  match best with
  | none => some x
  | some b => if h.age b < h.age x then some x else some b

theorem olderOf_some : olderOf h (some y) x = if h.age y < h.age x then some x else some y := rfl

/-- The pass over a list gives the one that is older than all before it and not younger than any after it. -/
theorem older_split {first rest : List Xp} (before : ∀ y ∈ first, h.age y < h.age x) (after : ∀ y ∈ rest, h.age y ≤ h.age x) :
    (first ++ x :: rest).foldl (olderOf h) none = some x := by
  have younger : ∀ b ∈ first.foldl (olderOf h) none, h.age b < h.age x := by
    refine List.foldlRecOn (motive := fun best : Option Xp => ∀ b ∈ best, h.age b < h.age x) _ _ nofun fun best w y hy => ?_
    cases best with
    | none =>
      rintro _ ⟨⟩
      exact before y hy
    | some b =>
      rw [olderOf_some]
      split
      · rintro _ ⟨⟩
        exact before y hy
      · exact w
  have taken : olderOf h (first.foldl (olderOf h) none) x = some x := by
    cases best : first.foldl (olderOf h) none with
    | none => rfl
    | some b => exact if_pos (younger b best)
  rw [List.foldl_append, List.foldl_cons, taken]
  refine List.foldlRecOn (motive := fun best : Option Xp => best = some x) _ _ rfl fun best w y hy => ?_
  rw [w, olderOf_some, if_neg (Nat.not_lt.2 (after y hy))]

theorem candidates_taken (chosen : candidate m e h x = true) (others : ∀ y : Xp, candidate m e h y = true → y ≠ x →
    h.age y < h.age x ∨ (h.age y = h.age x ∧ RowMajor x y)) : (candidates m e h).foldl (olderOf h) none = some x := by
  obtain ⟨first, rest, split⟩ := List.append_of_mem (mem_candidates.2 chosen)
  have ordered := candidates_ordered (m := m) (e := e) (h := h)
  have member (y : Xp) (hy : y ∈ first ++ x :: rest) : candidate m e h y = true := by
    rw [← split] at hy
    exact mem_candidates.1 hy
  rw [split] at ordered ⊢
  obtain ⟨-, tail, apart⟩ := List.pairwise_append.1 ordered
  refine older_split (fun y hy => ?_) fun y hy => ?_
  · have order : RowMajor y x := apart y hy x (List.mem_cons_self ..)
    obtain younger | ⟨-, follows⟩ := others y (member y (List.mem_append_left _ hy)) fun same => RowMajor.irrefl x (same ▸ order)
    · exact younger
    · exact absurd follows order.asymm
  · have order : RowMajor x y := (List.pairwise_cons.1 tail).1 y hy
    obtain younger | ⟨same, -⟩ := others y (member y (List.mem_append_right _ (List.mem_cons_of_mem _ hy)))
      fun same => RowMajor.irrefl x (same ▸ order)
    · exact Nat.le_of_lt younger
    · exact Nat.le_of_eq same

/-- An auto exercise may begin: in RUN, with an interval, and none under way (R188). -/
def AutoExercise (e : Env) (h : Hall) : Prop := e.mode = .run ∧ 0 < e.tables.interval ∧ h.exercise.phase = .idle

theorem selectExercise_off (off : ¬AutoExercise e h) : selectExercise m e h = h := if_neg off

theorem selectExercise_on (on : AutoExercise e h) : selectExercise m e h =
    match (candidates m e h).foldl (olderOf h) none with
    | some x => beginExercise .auto x h
    | none => h := if_pos on

theorem selectExercise_none (none : ∀ x : Xp, candidate m e h x = false) : selectExercise m e h = h := by
  have empty : candidates m e h = [] :=
    List.eq_nil_iff_forall_not_mem.2 fun x hx => ne_true_of_eq_false (none x) (mem_candidates.1 hx)
  by_cases on : AutoExercise e h
  · rw [selectExercise_on on, empty]
    rfl
  · exact selectExercise_off on

/-- An auto exercise begins at a crosspoint that has no operation: its close joins the queue (R105, R188). -/
theorem beginExercise_fresh {o : ExOrigin} (free : h.busyXp x = false) : let after := beginExercise o x h
    after.exercise = { h.exercise with phase := .closing, xp := x, origin := o } ∧ after.res x.row = .exercise ∧
    after.queue = h.queue ++ [.joining x .close .exercise h.arrivals] := by
  have alone : h.entry x .close = none := entry_none fun n hn eq => absurd eq (busyXp_iff.1 free n hn)
  intro after
  rw [show after = _ from beginExercise_eq]
  refine ⟨rfl, by simp [Hall.res, exercising, Hall.setRes], ?_⟩
  show (queueOp x .close .exercise h).queue = _
  rw [queueOp_joined alone fun _ => Requester.noConfusion, joinQueue_queue]

theorem candidate_free (chosen : candidate m e h x = true) : h.busyXp x = false := by
  obtain ⟨-, -, near, -⟩ := candidate_iff.1 chosen
  exact busyXp_iff.2 (near x (.inl rfl)).2.2

end Sys2Proof.Machine
end

section
/-! PROOFS. The minute boundary (O21). -/

namespace Sys2Proof.Machine

variable {s u : State} {e : Env} {h : Hall} {x : Xp} {v : Tx} {a : Ant} {row : Row} {m : Nat}

/-! The count at the end of a minute (R2, R3). -/

/-- The state whose boundaries the count of a minute's last second crosses. -/
def minuteStart (s : State) : State := { s with env := { s.env with
  elapsed := s.env.elapsed + (1000 - s.env.clock.phase)
  clock := { s.env.clock.advance with lastBoundary := s.env.now + 1 } } }

/-- The count that lets the rest of the second pass. -/
def State.untilSecond (s : State) : State := { s with env := passTime (1000 - s.env.clock.phase) s.env }

theorem secondBoundary_minute : secondBoundary (some m) s =
    phase (selectExercise m) (recompute { rampsAndEnds (startsOf s (beforeStarts (some m) s)) with
      hall := restandAll (rampsAndEnds (startsOf s (beforeStarts (some m) s))).env
        (rampsAndEnds (startsOf s (beforeStarts (some m) s))).hall }) := rfl

theorem boundaries_minute (valid : u.env.clock.valid = true) (later : u.env.clock.lastBoundary < u.env.clock.now)
    (minute : u.env.clock.now % 60 = 0) : boundaries u = secondBoundary (some u.env.clock.now)
      { u with env := { u.env with clock := { u.env.clock with lastBoundary := u.env.clock.now } } } := by
  unfold boundaries
  dsimp only
  rw [if_pos ⟨valid, later⟩, minute, Nat.sub_zero, if_pos later]

/-- The count but for its last instant goes on by one second (R2). -/
theorem Clock.advance_now {c : Clock} (notLast : ¬(c.day = 65535 ∧ c.second = 86399)) :
    c.advance.now = c.now + 1 ∧ c.advance.valid = c.valid := by
  obtain ⟨day, second, valid, -⟩ := c.advance_eq
  rw [if_neg notLast] at valid second
  refine ⟨?_, valid⟩
  rw [Clock.now, Clock.now, day, second]
  by_cases midnight : c.second = 86399
  · rw [if_pos midnight, if_pos ⟨midnight, fun day => notLast ⟨day, midnight⟩⟩]
    omega
  · rw [if_neg midnight, if_neg fun w => midnight w.1]
    omega

theorem advance_untilSecond : s.untilSecond.env.clock.advance = s.env.clock.advance := by
  unfold State.untilSecond passTime Clock.advance
  dsimp only

theorem now_minute {c : Clock} (second : c.second % 60 = 59) : (c.now + 1) % 60 = 0 := by
  unfold Clock.now
  omega

theorem advanceCount_minute (valid : s.env.clock.valid = true) (released : s.env.pins.resetHeld = false)
    (second : s.env.clock.second % 60 = 59) (notLast : ¬(s.env.clock.day = 65535 ∧ s.env.clock.second = 86399))
    (last : s.env.clock.lastBoundary ≤ s.env.now) :
    advanceCount s.untilSecond = secondBoundary (some (s.env.now + 1)) (minuteStart s) := by
  obtain ⟨now, stays⟩ := Clock.advance_now notLast
  have kept : s.env.clock.advance.lastBoundary = s.env.clock.lastBoundary := by
    obtain ⟨-, -, -, -, -, -, -, kept⟩ := s.env.clock.advance_eq
    exact kept
  have counted : s.untilSecond.counted.env.clock = s.env.clock.advance := advance_untilSecond
  have still : s.untilSecond.counted.env.due = s.env.due := by
    refine if_pos ?_
    rw [advance_untilSecond, stays, valid]
  rw [advanceCount_eq, if_neg (by rw [show s.untilSecond.env.pins.resetHeld = false from released]; exact Bool.false_ne_true),
    boundaries_minute (by rw [counted, stays, valid]) (by rw [counted, kept, now]; exact Nat.lt_succ_of_le last)
      (by rw [counted, now]; exact now_minute second)]
  have start : ({ s.untilSecond.counted with env := { s.untilSecond.counted.env with clock :=
      { s.untilSecond.counted.env.clock with lastBoundary := s.untilSecond.counted.env.clock.now } } } : State) =
      minuteStart s := by
    rw [counted, now]
    show ({ s with env := { s.env with
      elapsed := s.env.elapsed + (1000 - s.env.clock.phase)
      clock := { s.env.clock.advance with lastBoundary := s.env.now + 1 }
      due := s.untilSecond.counted.env.due } } : State) = _
    rw [still]
    rfl
  rw [start, counted, now]
  rfl

/-! What the boundary leaves of units and proving runs: what its clean minutes leave (R169, R170, R177). -/

theorem Countless.tx {h g : Hall} (w : Countless h g) (v : Tx) : g.txUnit.get v = h.txUnit.get v :=
  congrArg (fun b : Base => b.txUnit.get v) w.base

theorem Countless.ant {h g : Hall} (w : Countless h g) (a : Ant) : g.antUnit.get a = h.antUnit.get a :=
  congrArg (fun b : Base => b.antUnit.get a) w.base

theorem Countless.ages {h g : Hall} (w : Countless h g) : g.ages = h.ages := congrArg Base.ages w.base

theorem minute_spared (unclean : ¬cleanAt s.hall m v = true) :
    (secondBoundary (some m) s).hall.txUnit.get v = s.hall.txUnit.get v ∧
    ((secondBoundary (some m) s).hall.runs.get v).minutes = (s.hall.runs.get v).minutes := by
  have rest := secondBoundary_countless (s := s) (m := m)
  obtain ⟨unit, run⟩ := cleanMinutes_spared (e := s.env) unclean
  exact ⟨(rest.tx v).trans unit, by rw [(rest.run v).1, run]⟩

theorem minute_cleaned (clean : cleanAt s.hall m v = true) :
    TxCleaned v s.hall (cleanMinutes s.env m s.hall) ∧
    (secondBoundary (some m) s).hall.txUnit.get v = (s.hall.txUnit.get v).cleaned := by
  have pass := cleanMinutes_cleaned (e := s.env) clean
  exact ⟨pass, ((secondBoundary_countless (s := s) (m := m)).tx v).trans pass.unit⟩

theorem minute_run (clean : cleanAt s.hall m v = true) (held : (s.hall.ctx.get v).held = .proving row) :
    ((secondBoundary (some m) s).hall.runs.get v).minutes = (s.hall.runs.get v).minutes + 1 ∧
    ((s.hall.runs.get v).running = true → 20 ≤ (s.hall.runs.get v).minutes + 1 →
      ((secondBoundary (some m) s).hall.runs.get v).running = false ∧
      ((secondBoundary (some m) s).hall.runs.get v).result = .passed ∧
      ((secondBoundary (some m) s).hall.ctx.get v).state ≠ .onAir) := by
  have rest := secondBoundary_countless (s := s) (m := m)
  obtain ⟨pass, -⟩ := minute_cleaned clean
  obtain ⟨run, off⟩ := pass.run row held
  obtain ⟨minutes, kept⟩ := rest.run v
  refine ⟨by rw [minutes, run, RunRec.cleaned_minutes], fun running last => ?_⟩
  obtain ⟨stopped, passed⟩ := RunRec.cleaned_passed running last
  have same := kept (by rw [run]; exact stopped)
  rw [same, run]
  exact ⟨stopped, passed, fun air => off last (rest.air v air)⟩

theorem minute_ant_spared (unheld : ∀ v, cleanAt s.hall m v = true → (s.hall.ctx.get v).heldRow ≠ some (antRow a)) :
    (secondBoundary (some m) s).hall.antUnit.get a = s.hall.antUnit.get a :=
  ((secondBoundary_countless (s := s) (m := m)).ant a).trans (cleanMinutes_ant_spared unheld)

theorem minute_ant_cleaned (clean : cleanAt s.hall m v = true) (held : (s.hall.ctx.get v).heldRow = some (antRow a))
    (only : ∀ z, cleanAt s.hall m z = true → (s.hall.ctx.get z).heldRow = some (antRow a) → z = v) :
    (secondBoundary (some m) s).hall.antUnit.get a = (s.hall.antUnit.get a).cleaned :=
  ((secondBoundary_countless (s := s) (m := m)).ant a).trans (cleanMinutes_ant_cleaned clean held only)

theorem minute_ages : (secondBoundary (some m) s).hall.ages = s.hall.ages :=
  (secondBoundary_countless (s := s) (m := m)).ages.trans cleanMinutes_ages

/-! The auto exercise of the boundary (R188). -/

theorem selectExercise_begins (on : AutoExercise e h) (chosen : candidate m e h x = true)
    (others : ∀ y : Xp, candidate m e h y = true → y ≠ x →
      h.age y < h.age x ∨ (h.age y = h.age x ∧ RowMajor x y)) :
    selectExercise m e h = beginExercise .auto x h := by
  rw [selectExercise_on on, candidates_taken chosen others]

/-- Settles O21: after its clean minutes the boundary scores and counts nothing (`secondBoundary_countless`), and the
exercise falls to the first of the oldest candidates (`candidates_taken`). -/
theorem minuteBoundaryCounts : Obligations.MinuteBoundaryCounts := by
  refine ⟨fun s valid released second notLast last => ?_, fun m e h => ⟨fun x => candidate_iff, fun off => ?_,
    fun x run interval idle chosen others => ?_⟩⟩
  · intro m clean counted
    have cleans {u : Tx} : clean u ↔ cleanAt s.hall m u = true := cleanAt_iff.symm
    have counts (r : UnitRec) : counted r r.cleaned := by
      obtain ⟨score, service, minutes⟩ := r
      cases service <;> rfl
    have minute := advanceCount_minute valid released second notLast last
    have boundary : (advanceCount s.untilSecond).env.clock.lastBoundary = m := by
      obtain ⟨now, stays⟩ := Clock.advance_now notLast
      rw [advanceCount_last, advance_untilSecond, now, stays]
      exact if_pos ⟨valid, released, Nat.lt_succ_of_le last⟩
    refine ⟨advanceCount s.untilSecond, rfl, by simp [State.untilSecond], boundary, ?_⟩
    rw [minute]
    refine ⟨fun u unclean => minute_spared (s := minuteStart s) fun w => unclean (cleans.2 w), fun u w => ?_,
      fun a unheld => minute_ant_spared (s := minuteStart s) fun v w => unheld v (cleans.2 w), fun a u w held only => ?_,
      fun u row w held => minute_run (s := minuteStart s) (cleans.1 w) held, minute_ages, secondBoundary_minute⟩
    · obtain ⟨pass, unit⟩ := minute_cleaned (s := minuteStart s) (cleans.1 w)
      rw [unit]
      exact ⟨counts _, fun proving few => secondBoundary_countless.notice _ (pass.proven proving few)⟩
    · rw [minute_ant_cleaned (s := minuteStart s) (cleans.1 w) held fun v w => only v (cleans.2 w)]
      exact counts _
  · obtain mode | interval | busy | none := off
    · exact selectExercise_off fun on => mode on.1
    · exact selectExercise_off fun on => Nat.ne_of_gt on.2.1 interval
    · exact selectExercise_off fun on => busy on.2.2
    · exact selectExercise_none none
  · intro after
    have eq : after = beginExercise .auto x h := selectExercise_begins ⟨run, interval, idle⟩ chosen others
    obtain ⟨exercise, res, queue⟩ := beginExercise_fresh (o := .auto) (candidate_free chosen)
    rw [eq]
    exact ⟨exercise, res, _, queue, rfl, rfl, rfl, rfl, rfl, rfl⟩

end Sys2Proof.Machine
end
